-- ==== Sys2Proof/Word.lean ====
section
/-! DEFINITION. The word types of the GZ9 and the packing of fields into words (R5). -/

namespace Sys2Proof

/-- A byte of memory. -/
abbrev Byte := BitVec 8

/-- A control register, a counter, a register of the window: 64 bits. -/
abbrev Word := BitVec 64

/-- An instruction word (R5): 80 bits. -/
abbrev W80 := BitVec 80

/-- A bank line, a vector register, a lane value (R275): 512 bits. -/
abbrev Vec := BitVec 512

/-- Fields laid side by side, the least significant first; each is a width and a value. -/
def pack : List (Nat × Nat) → Nat
  | [] => 0
  | (w, v) :: fs => v % 2 ^ w + 2 ^ w * pack fs

/-- The fields of the given widths, the least significant first. -/
def unpack : List Nat → Nat → List Nat
  | [], _ => []
  | w :: ws, n => n % 2 ^ w :: unpack ws (n / 2 ^ w)

/-- Bits [lo + len - 1 : lo] of a number. -/
def bitsOf (n lo len : Nat) : Nat := n / 2 ^ lo % 2 ^ len

/-- A number with bits [lo + len - 1 : lo] replaced. -/
def setBits (n lo len v : Nat) : Nat :=
  n % 2 ^ lo + 2 ^ lo * (v % 2 ^ len) + 2 ^ (lo + len) * (n / 2 ^ (lo + len))

end Sys2Proof
end

