-- ==== Sys2Proof/Syntax.lean ====
section
/-! DEFINITION. The instructions, operations and events of the GZ9: one constructor for every row of the
opcode table. Operand fields are bit vectors of the width the encoding gives them (R47, R56, R57); operands of
operations that have no word are numbers of units (region, partition, channel, engine, thread) or the data that
the surroundings bring. -/

namespace Sys2Proof

/-- The operand fields of a V-slot instruction (R47): station, destination code (R51), operand codes (R50),
element mask, variant bit. -/
structure VArgs where
  st : Bool
  vd : BitVec 4
  va : BitVec 4
  vb : BitVec 4
  k : BitVec 3
  x : Bool
  deriving DecidableEq, Repr

/-- The operand fields of a C-MEM instruction (R57). -/
structure MemArgs where
  d : BitVec 6
  a : BitVec 6
  b : BitVec 6
  sz : BitVec 3
  scope : BitVec 3
  aop : BitVec 4
  ord : BitVec 2
  ford : BitVec 2
  off : BitVec 32
  deriving DecidableEq, Repr

/-- An ordered line as it arrives from another package (R357 to R359): the fields of its header (source package and
partition, owner identifier, virtual channel, destination package and local address, sequence number, tag), its ciphertext,
the port it came by, whether its CRC passes, how many bytes of the 128 it writes. `arc` is the arc of a cross-package
transfer (R262) with the line's index in its slot, or none. -/
structure LineIn where
  src : Nat
  part : Nat
  owner : Nat
  port : Nat
  vc : Nat
  dst : Nat
  seq : Nat
  addr : Nat
  len : Nat
  data : BitVec 1024
  tag : BitVec 64
  crcOk : Bool
  /-- the lane that caused a CRC error -/
  lane : Nat
  arc : Option (Nat × Nat)
  deriving DecidableEq, Repr

/-- How a line came (R357): the port, its virtual channel, its destination package. -/
structure LineWay where
  port : Nat
  vc : Nat
  dst : Nat
  deriving DecidableEq, Repr

/-- What is a line's own, of a request record, an atomic, or a runoff block as it arrives (R358, R360). -/
structure RunLine where
  seq : Nat
  data : BitVec 1024
  tag : BitVec 64
  crcOk : Bool
  /-- the lane that caused a CRC error -/
  lane : Nat
  deriving DecidableEq, Repr

/-- A runoff block as it arrives (R357, R360): the header fields that its lines share, and those of its four lines that have
come, in order. -/
structure BlockIn where
  src : Nat
  part : Nat
  owner : Nat
  port : Nat
  vc : Nat
  dst : Nat
  addr : Nat
  lines : List RunLine
  deriving DecidableEq, Repr

/-- What befalls a line that this package has sent (R359): the neighbour asks for it again after a CRC error, its destination
reports a tag that fails, its acknowledgement has not come in 10 ms. -/
inductive LineTrouble where
  | crc
  | tag
  | late
  deriving DecidableEq, Repr

/-- An actor of a graph (R14, R254): its phase count, and for each pond with initial tokens where their bytes begin in the
image's DATA section. -/
structure ActorDecl where
  phases : Nat
  initData : List (Nat × Nat)
  deriving DecidableEq, Repr

/-- An arc of a graph (R68, R253): producer package, actor and pond, consumer package, actor and pond, delay. -/
structure ArcDecl where
  prodPkg : Nat
  prod : Nat
  prodPond : Nat
  consPkg : Nat
  cons : Nat
  consPond : Nat
  delay : Nat
  deriving DecidableEq, Repr

/-- One timeline of an image (R290, R300): channel, kind (false cold, true retreat), step table and records. -/
structure TimelineDecl where
  chan : Nat
  retreat : Bool
  steps : List (BitVec 128)
  records : List (BitVec 64)
  deriving DecidableEq, Repr

/-- The GRAPH section (R71) as the loader reads it: frame lengths, actors, arcs, and per rate set, actor, phase and
pond a token count of 0 to 255 (R14). The byte layout of the section is not given by the spec (log entry 8). -/
structure GraphDecl where
  fc : Nat
  fm : Nat
  actors : List ActorDecl
  arcs : List ArcDecl
  rates : List (List (List (List Byte)))
  deriving DecidableEq, Repr

/-- An Izyan image (R70, R71): the bytes of its file, and what its GRAPH section declares. -/
structure ImageFile where
  file : List Byte
  graph : GraphDecl
  deriving DecidableEq, Repr

/-- An image as it is loaded, with the images of the other packages that hold actors of its graph, each with its package
(R268). -/
structure ImageDecl extends ImageFile where
  others : List (Nat × ImageFile)
  deriving DecidableEq, Repr

/-- The instructions and operations of the part, one constructor for each row of spec/opcode_table.json. -/
inductive Instr where
  -- both domains (R44)
  | nop
  | guard
  -- M slot (R58, R122)
  | mxhdr (stat opnd : Bool) (src : BitVec 4) (st : Bool) (hd : BitVec 2)
  | mxldb (sc side : Bool) (ls : BitVec 4) (n : BitVec 5)
  | mxldbt (ls : BitVec 4) (slot : BitVec 5)
  | mxfeed (acc : BitVec 2) (ls : BitVec 4) (first : Bool) (slot : BitVec 5)
  | mxbub (acc : BitVec 2)
  | mxclr (acc : BitVec 2)
  | mxdrn (acc : BitVec 2) (lane : BitVec 4) (row : BitVec 5) (part : BitVec 2)
  | mxdrnc (acc : BitVec 2) (lane : BitVec 4) (row : BitVec 5) (part : BitVec 2)
  | mxpair
  | mxsolo
  | mxaccf (acc : BitVec 2) (rm : BitVec 4) (sat if32 : Bool) (drain : BitVec 4)
  | mxstat (acc : BitVec 2) (form : BitVec 2) (dst : BitVec 4) (st : Bool)
  | mxswapb
  -- V slot (R59, R143)
  | vadd (o : VArgs) | vsub (o : VArgs) | vmul (o : VArgs) | vfma (o : VArgs) | vfms (o : VArgs) | vfnma (o : VArgs)
  | vmin (o : VArgs) | vmax (o : VArgs) | vabs (o : VArgs) | vneg (o : VArgs) | vrcp (o : VArgs) | vrsq (o : VArgs)
  | vsqrt (o : VArgs) | vexp2 (o : VArgs) | vlog2 (o : VArgs) | vdiv (o : VArgs)
  | viadd (o : VArgs) | visub (o : VArgs) | vimul (o : VArgs) | vimad (o : VArgs) | vimin (o : VArgs) | vimax (o : VArgs)
  | vand (o : VArgs) | vor (o : VArgs) | vxor (o : VArgs) | vnot (o : VArgs) | vshl (o : VArgs) | vshr (o : VArgs)
  | vsar (o : VArgs) | vclz (o : VArgs) | vpopc (o : VArgs)
  | vcmpeq (o : VArgs) | vcmpne (o : VArgs) | vcmplt (o : VArgs) | vcmple (o : VArgs) | vsel (o : VArgs)
  | vkand (o : VArgs) | vkor (o : VArgs) | vknot (o : VArgs) | vkmov (o : VArgs)
  | vcvt (o : VArgs) | vcvtc (o : VArgs) | vqnt (o : VArgs) | vdqnt (o : VArgs) | vpack (o : VArgs) | vunpk (o : VArgs)
  | vrsum (o : VArgs) | vrmax (o : VArgs) | vrmin (o : VArgs) | vrsumm (o : VArgs) | vrscl (o : VArgs)
  | vperm (o : VArgs) | vbcst (o : VArgs) | vrot (o : VArgs) | vmov (o : VArgs) | viota (o : VArgs)
  | vrng (o : VArgs) | vdrop (o : VArgs)
  -- S slot (R60, R164)
  | prd (p : BitVec 5) (line : BitVec 10)
  | pwr (p : BitVec 5) (line : BitVec 10)
  | prw (p : BitVec 5) (port : BitVec 2) (line : BitVec 8)
  | padv (p : BitVec 5) (n : BitVec 8)
  | ptagc (p : BitVec 5) (j : BitVec 8)
  | ldt (g : BitVec 3) (adv : Bool) (off : BitVec 8)
  | stt (g : BitVec 3) (adv : Bool) (off : BitVec 8)
  | sin (port : BitVec 2) (lane : BitVec 4)
  | sout (port : BitVec 2) (lane : BitVec 4)
  | tap (st : Bool) (inl outl : BitVec 4)
  | aggo (g : BitVec 3) (res : Bool)
  | agstop (g : BitVec 3)
  | agld (g : BitVec 3) (lane : BitVec 4)
  | kedge (k : BitVec 3) (col : BitVec 6)
  | slck (p : BitVec 5) (k : BitVec 3)
  | slfwd (p : BitVec 5) (port : BitVec 2) (remote : Bool)
  | twprm (p : BitVec 5) (twe : BitVec 2) (drain : Bool) (n : BitVec 8)
  | poisk (k : BitVec 3)
  -- FL words (R60, R159, R171, R178, R130)
  | vimm (st : Bool) (vd : BitVec 4) (value : BitVec 32)
  | vimm64 (value : BitVec 64)
  | vsetm (etype : BitVec 4) (rm : BitVec 3) (sat w0 w1 : Bool)
  | kset (k : BitVec 3) (mode : BitVec 2) (value : BitVec 32)
  | rngkey (part : BitVec 2) (value : BitVec 48)
  | sclset (value : BitVec 32)
  | agcfg (g : BitVec 3) (base : BitVec 11) (str : BitVec 12) (cnt : BitVec 12)
  | agcfg2 (g : BitVec 3) (str cnt : BitVec 12) (bank : BitVec 3) (lane : BitVec 4) (mode : BitVec 3) (pond : BitVec 5)
  | hdrset (hd : BitVec 2) (fmt : BitVec 5) (swz : BitVec 4) (vlim : BitVec 5) (sbase : BitVec 9)
  | dropcfg (thr scale : BitVec 32)
  | mxcfg (efmt : BitVec 5) (eswz : BitVec 4) (een plink : Bool)
  -- C-ALU (R61, R188)
  | add (d a b : BitVec 6) | sub (d a b : BitVec 6) | mul (d a b : BitVec 6) | mulh (d a b : BitVec 6)
  | mulhu (d a b : BitVec 6) | div (d a b : BitVec 6) | divu (d a b : BitVec 6) | rem (d a b : BitVec 6)
  | remu (d a b : BitVec 6) | and (d a b : BitVec 6) | or (d a b : BitVec 6) | xor (d a b : BitVec 6)
  | andn (d a b : BitVec 6) | shl (d a b : BitVec 6) | shr (d a b : BitVec 6) | sar (d a b : BitVec 6)
  | rotl (d a b : BitVec 6) | min (d a b : BitVec 6) | max (d a b : BitVec 6) | minu (d a b : BitVec 6)
  | maxu (d a b : BitVec 6) | clz (d a : BitVec 6) | ctz (d a : BitVec 6) | popc (d a : BitVec 6)
  | bswap (d a : BitVec 6) | sext (d a b : BitVec 6) | zext (d a b : BitVec 6) | cmpeq (d a b : BitVec 6)
  | cmpne (d a b : BitVec 6) | cmplt (d a b : BitVec 6) | cmpltu (d a b : BitVec 6) | sel (d a b : BitVec 6)
  | mov (d a : BitVec 6)
  -- C-IMM (R62, R190)
  | addi (d a : BitVec 6) (i : BitVec 32) | muli (d a : BitVec 6) (i : BitVec 32) | andi (d a : BitVec 6) (i : BitVec 32)
  | ori (d a : BitVec 6) (i : BitVec 32) | xori (d a : BitVec 6) (i : BitVec 32) | shli (d a : BitVec 6) (i : BitVec 32)
  | shri (d a : BitVec 6) (i : BitVec 32) | sari (d a : BitVec 6) (i : BitVec 32) | rotli (d a : BitVec 6) (i : BitVec 32)
  | cmpeqi (d a : BitVec 6) (i : BitVec 32) | cmpnei (d a : BitVec 6) (i : BitVec 32)
  | cmplti (d a : BitVec 6) (i : BitVec 32) | cmpltui (d a : BitVec 6) (i : BitVec 32)
  | mini (d a : BitVec 6) (i : BitVec 32) | maxi (d a : BitVec 6) (i : BitVec 32)
  -- C-WIDE (R62, R191)
  | limm (d : BitVec 6) (i : BitVec 48) | limmz (d : BitVec 6) (i : BitVec 48) | limmh (d : BitVec 6) (i : BitVec 48)
  -- C-BR (R62, R192)
  | beq (a b : BitVec 6) (off : BitVec 32) | bne (a b : BitVec 6) (off : BitVec 32) | blt (a b : BitVec 6) (off : BitVec 32)
  | bge (a b : BitVec 6) (off : BitVec 32) | bltu (a b : BitVec 6) (off : BitVec 32) | bgeu (a b : BitVec 6) (off : BitVec 32)
  | bz (a : BitVec 6) (off : BitVec 32) | bnz (a : BitVec 6) (off : BitVec 32) | jmp (off : BitVec 32)
  | jal (d : BitVec 6) (off : BitVec 32) | jalr (d a : BitVec 6) (off : BitVec 32)
  -- C-MEM (R62, R193 to R200)
  | ld (m : MemArgs) | lds (m : MemArgs) | st (m : MemArgs) | amo (m : MemArgs) | cas (m : MemArgs) | fence (m : MemArgs)
  | enq (m : MemArgs) | seqw (m : MemArgs)
  -- what comes about in the memory system (R183, R237, R198, R200)
  | memoryReply (t n : Nat) (ext : BitVec 128)
  | homeWritePerform (id : Nat)
  | writeAck (id : Nat) (denied : Bool) (ext : BitVec 128)
  | fenceComplete (t : Nat)
  | seqwRelease (t : Nat)
  | seqwTimeout (t : Nat)
  -- C-SYS (R63, R202)
  | trap (code : BitVec 32)
  | svc (code : BitVec 32)
  | hend
  | getcr (d : BitVec 6) (cr : BitVec 12)
  | setcr (a : BitVec 6) (cr : BitVec 12)
  | rdcyc (d : BitVec 6)
  | waitev (d a : BitVec 6) (mask : BitVec 9)
  | waitevRelease (t : Nat)
  | tlsig (a b : BitVec 6) (add : Bool)
  | tlwt (d a b : BitVec 6) (timeout : BitVec 32)
  | tlwtRelease (t : Nat)
  | tlwtTimeout (t : Nat)
  | tlset (a b : BitVec 6)
  | depdec (d a : BitVec 6)
  | depset (a b : BitVec 6)
  | launch (d a : BitVec 6)
  | publ (d a : BitVec 6)
  | snap (d a : BitVec 6)
  | unsnap (d a : BitVec 6)
  | foldComplete (p n : Nat)
  | finsp (d a b : BitVec 6)
  | fpatch (d a b : BitVec 6)
  | fres (a : BitVec 6)
  | fkill (a : BitVec 6) (relocate : Bool)
  | fstep (d a : BitVec 6)
  | fclrp (a b : BitVec 6)
  | hcapq (d a : BitVec 6)
  | hcapdrop (a : BitVec 6)
  | condset (a : BitVec 6)
  | condsetRelease (t : Nat)
  | iterwt (d a : BitVec 6)
  | iterwtRelease (t : Nat)
  | kickscan (d a : BitVec 6)
  | kickscanClear (d a : BitVec 6)
  | jrnl (d a b : BitVec 6) (tag : BitVec 32)
  | wdog (a : BitVec 6)
  | halt
  | sluice (d a b : BitVec 6)
  | rngc (d a b : BitVec 6)
  | shpfence (a : BitVec 6) (all : Bool)
  | pagepl (d a b : BitVec 6)
  -- regions and frames (R17 to R32, R260)
  | popCondition (r : Nat)
  | firingDone (r : Nat)
  | weirFire (p : Nat)
  | commSuperstepStart (p : Nat)
  | retirement (p : Nat)
  | frameStart (p : Nat)
  | arcWaitTimeout (p : Nat)
  -- timeline records (R291, R295, R300)
  | act (c : Nat) (bank : BitVec 6) (row : BitVec 14)
  | pre (c : Nat) (bank : BitVec 6)
  | prea (c : Nat)
  | rd (c : Nat) (bank : BitVec 6) (col : BitVec 5) (step : BitVec 8)
  | wr (c : Nat) (bank : BitVec 6) (col : BitVec 5) (step : BitVec 8)
  | wrc (c : Nat) (bank : BitVec 6) (col : BitVec 5)
  | ref (c : Nat)
  | repair (c : Nat)
  | openRec (c : Nat) (len : BitVec 14)
  | twstep (c : Nat) (step : BitVec 8)
  | timelineEnd (c : Nat)
  -- host writes and stores with behaviour of their own
  | kick (q : Nat)
  | recgo (len : Nat)
  | endrWrite (v : BitVec 32)
  | pctlEval (p : Nat) (newtok : BitVec 16)
  | pctlKill (p : Nat)
  | pctlCheckpoint (p : Nat)
  | restore (p : Nat)
  | restorePerformed (p : Nat)
  | drainlimExpiry (p : Nat)
  | preemptKill (p : Nat)
  | checkpoint (p : Nat)
  | thermalFreeze (p : Nat)
  | killall (p : Nat)
  | endgraph (p : Nat)
  | redispatch (p : Nat)
  | arm (p n : Nat)
  | close (p n : Nat)
  | windowDeadline (p n : Nat)
  | resume (p e : Nat)
  | skip (p e : Nat)
  | cool
  | warm
  | off
  | trainingReadTest (c : Nat)
  | trainingWriteTest (c : Nat)
  | trainingTestDone (c : Nat)
  | lrepWrite (c : Nat) (v : Word)
  | degrClear (c : Nat)
  | rangeEntryWrite (p n w : Nat) (v : Word)
  | imageTableEdit (i : Nat) (ver : BitVec 16) (pa : BitVec 52)
  | routeEntryWrite (d : Nat) (v : Word)
  | ridxWrite (q : Nat) (v : BitVec 32)
  | migctlWrite (p : Nat) (v : Word)
  | queueLimitWrite (pa : Nat) (v : Word)
  | registerWrite (pa : Nat) (v : Word)
  -- security engine, host, boot, thermal (R207, R368 to R378)
  | quote (nonce : BitVec 256)
  | keyload (slot : BitVec 6) (wrapped : BitVec 832)
  | keyclr (slot : BitVec 6)
  | hostMailboxWrite (p : Nat)
  | powerOnReset
  | thermalSample (temps : List (BitVec 16 × Bool))
  | settleComplete
  | cdrateWindow
  | watchdogExpiry (core : Nat)
  | takeoverSpawn
  -- faults (R337 to R350)
  | handlerSpawn (die : Nat)
  | faultRecordGrant (serial : Nat)
  | poolFull (serial : Nat)
  | reportDeadline (serial : Nat)
  -- copy engines (R303 to R305, R363)
  | copyEntryStart (p e : Nat)
  | copyEntryComplete (p e : Nat)
  | requestRecordResend (id : Nat)
  -- Byiraer (R354 to R366)
  | orderedLineArrival (l : LineIn)
  | lineGiveUp (id : Nat) (why : LineTrouble)
  | runoffBlockArrival (src part owner addr : Nat) (way : LineWay) (lines : List RunLine)
  | arcCommit (l : LineIn)
  | arcAbort (l : LineIn)
  | arcDenial (id : Nat) (gateway : Bool)
  | creditRecord (arc : Nat) (l : LineIn)
  | requestRecordArrival (src part owner addr : Nat) (l : LineWay × RunLine)
  | remoteAtomicArrival (src part owner queue addr : Nat) (sz : BitVec 3) (op : BitVec 5) (way : LineWay) (l : RunLine)
  | laneRepairStart (port lane : Nat)
  | laneRetrainDone (port : Nat)
  | gatewayRefill
  | scrubPass (marks : List (Nat × Nat))
  | powerStateEnter
  | powerStateWake
  | imageLoad (index pa part : Nat) (img : ImageDecl)
  | pageRemoval (r : Nat)
  | serviceThreadSpawn (task : Nat)
  | portUp (port : Nat)
  | powerLoss
  | flashWrite (bytes : List Byte)
  | versionFuseBlow
  | remapTableReload (stack : Nat)
  | repairRecordWrite (c : Nat) (v : Word)
  | dynamicModeRefresh (c : Nat)
  deriving DecidableEq, Repr

end Sys2Proof
end

