-- ==== Sys2Proof/WellFormed.lean ====
section
/-! DEFINITION. Which instructions have a word: the operand values that the encoding tables admit (R48 to R53,
R56, R57, R122, R139, R143, R159, R164, R170, R178, R190, R191, R194, R202). An operation or event of the table
that has no word is well formed whatever its operands are. -/

namespace Sys2Proof.WellFormed

/-- A lane-set code (R53): 0 to 7 or 15. -/
def laneSet (c : BitVec 4) : Bool := decide (c.toNat ≤ 7) || decide (c.toNat = 15)

/-- A lane code that names a lane or none (R52). -/
def laneOrNone (c : BitVec 4) : Bool := decide (c.toNat ≤ 7) || decide (c.toNat = 15)

/-- A control register number that names a register (R56). -/
def reg (r : BitVec 6) : Bool := decide (r.toNat ≤ 35)

/-- A register number of a capability field (R202): h0 to h3. -/
def cap (r : BitVec 6) : Bool := decide (32 ≤ r.toNat) && decide (r.toNat ≤ 35)

/-- The destination of a D, D + 1 pair (R57, R197): even and at most 30. -/
def pair (r : BitVec 6) : Bool := decide (r.toNat % 2 = 0) && decide (r.toNat ≤ 30)

/-! ## V slot (R143) -/

/-- VD 0 to 13 or 15: every destination but the feed rows. -/
def vdNoFeed (o : VArgs) : Bool := decide (o.vd.toNat ≠ 14)
/-- A twin instruction: no feed, and no twin word to POUT (R139). -/
def vTwin (o : VArgs) : Bool := vdNoFeed o && !(o.x && decide (o.vd.toNat = 13))
def vTwinReg (o : VArgs) : Bool := decide (o.vd.toNat ≤ 11)
def vUnaryB (o : VArgs) : Bool := decide (o.vb.toNat = 0)
/-- A k destination (kd): VD 1 to 7. -/
def vKd (o : VArgs) : Bool := decide (1 ≤ o.vd.toNat) && decide (o.vd.toNat ≤ 7)
def vCompare (o : VArgs) : Bool := vKd o && !o.x
def vMask2 (o : VArgs) : Bool :=
  vKd o && decide (o.va.toNat ≤ 7) && decide (o.vb.toNat ≤ 7) && decide (o.k.toNat = 0) && !o.x
def vMask1 (o : VArgs) : Bool :=
  vKd o && decide (o.va.toNat ≤ 7) && vUnaryB o && decide (o.k.toNat = 0) && !o.x
def vKmov (o : VArgs) : Bool := vKd o && (o.x || decide (o.va.toNat ≤ 7)) && vUnaryB o && decide (o.k.toNat = 0)
/-- X is the feed row, and zero unless VD = feed. -/
def vFeedRow (o : VArgs) : Bool := decide (o.vd.toNat = 14) || !o.x
def vPairReg (r : BitVec 4) : Bool := decide (r.toNat % 2 = 0) && decide (r.toNat ≤ 10)
def vReduce (o : VArgs) : Bool := vdNoFeed o && (o.x || vUnaryB o)

/-! ## C-MEM (R57, R194) -/

/-- With ORD 0 the SCOPE is THREAD, unless FORD gives it a use (R194). -/
def memScope (m : MemArgs) : Bool :=
  decide (m.scope.toNat ≤ 5) && (decide (m.ord.toNat ≠ 0) || decide (m.ford.toNat = 1) || decide (m.scope.toNat = 0))
def memRegs (m : MemArgs) : Bool :=
  reg m.d && reg m.a && reg m.b && (decide (m.sz.toNat ≠ 4) || pair m.d)
def memLd (m : MemArgs) : Bool :=
  memRegs m && decide (m.b.toNat = 0) && decide (m.sz.toNat ≤ 4) && decide (m.ord.toNat ≤ 1) && memScope m &&
    decide (m.aop.toNat = 0) && decide (m.ford.toNat = 0)
def memSt (m : MemArgs) : Bool :=
  memRegs m && decide (m.b.toNat = 0) && decide (m.sz.toNat ≤ 4) &&
    (decide (m.ord.toNat = 0) || decide (m.ord.toNat = 2)) && memScope m &&
    decide (m.aop.toNat = 0) && decide (m.ford.toNat = 0)
def memAmo (m : MemArgs) : Bool :=
  memRegs m && memScope m && decide (m.aop.toNat ≤ 10) && decide (m.ford.toNat = 0) &&
    (match m.aop.toNat with
      | 9 => decide (m.sz.toNat = 2)
      | 10 => decide (m.sz.toNat = 3)
      | _ => decide (m.sz.toNat = 2) || decide (m.sz.toNat = 3))
def memCas (m : MemArgs) : Bool :=
  memRegs m && memScope m && decide (2 ≤ m.sz.toNat) && decide (m.sz.toNat ≤ 4) && decide (m.aop.toNat = 0) &&
    decide (m.ford.toNat ≤ 1) && (decide (m.sz.toNat ≠ 4) || pair m.b)
def memFence (m : MemArgs) : Bool :=
  decide (m.d.toNat = 0) && decide (m.a.toNat = 0) && decide (m.b.toNat = 0) && decide (m.off.toNat = 0) &&
    decide (m.sz.toNat = 0) && decide (1 ≤ m.ord.toNat) && decide (m.scope.toNat ≤ 5) &&
    decide (m.aop.toNat = 0) && decide (m.ford.toNat = 0)
/-- ENQ and SEQW: only D, A, B and OFF32; for SEQW a negative timeout is no word (R200). -/
def memQueue (m : MemArgs) : Bool :=
  reg m.d && reg m.a && reg m.b && decide (m.sz.toNat = 0) && decide (m.scope.toNat = 0) &&
    decide (m.aop.toNat = 0) && decide (m.ord.toNat = 0) && decide (m.ford.toNat = 0)

/-! ## Control registers (R203) -/

/-- The numbers that R203 lists. -/
def crListed (n : Nat) : Bool :=
  decide (n ≤ 4) || (decide (8 ≤ n) && decide (n ≤ 10)) || (decide (0x10 ≤ n) && decide (n ≤ 0x13)) ||
    (decide (0x20 ≤ n) && decide (n ≤ 0x2B)) || (decide (0x30 ≤ n) && decide (n ≤ 0x35))
/-- The numbers that have a write column. -/
def crWritable (n : Nat) : Bool :=
  decide (n = 0x13) || (decide (0x20 ≤ n) && decide (n ≤ 0x2B)) || (decide (0x30 ≤ n) && decide (n ≤ 0x35))

def shiftImm (i : BitVec 32) : Bool := decide (i.toNat ≤ 63)

end Sys2Proof.WellFormed

namespace Sys2Proof

open WellFormed in
/-- Whether an instruction's operands are such as its encoding admits. -/
def wellFormed : Instr → Bool
  | .mxhdr _ opnd src st hd => if opnd then decide (hd.toNat = 0) else decide (src.toNat = 0) && !st
  | .mxldb sc side ls n => laneSet ls && (if sc then decide (n.toNat ≤ 7) else !side)
  | .mxldbt ls _ => laneSet ls
  | .mxfeed _ ls _ _ => laneSet ls
  | .mxdrn _ lane _ _ => laneOrNone lane
  | .mxdrnc _ lane _ _ => laneOrNone lane
  | .mxaccf _ rm _ _ drain => decide (rm.toNat ≤ 5) && decide (drain.toNat ≤ 11)
  | .mxstat _ form dst st =>
    if form.toNat = 3 then decide (dst.toNat ≤ 11)
    else decide (1 ≤ dst.toNat) && decide (dst.toNat ≤ 7) && !st
  | .vadd o | .vsub o | .vmul o | .vmin o | .vmax o | .vdiv o => vTwin o
  | .vfma o | .vfms o | .vfnma o | .vimad o => vTwinReg o
  | .vabs o | .vneg o | .vrcp o | .vrsq o | .vsqrt o | .vexp2 o | .vlog2 o => vTwin o && vUnaryB o
  | .viadd o | .visub o | .vimul o | .vimin o | .vimax o | .vand o | .vor o | .vxor o | .vshl o | .vshr o | .vsar o =>
    vTwin o
  | .vnot o | .vclz o | .vpopc o => vTwin o && vUnaryB o
  | .vcmpeq o | .vcmpne o | .vcmplt o | .vcmple o => vCompare o
  | .vsel o => vTwin o
  | .vkand o | .vkor o => vMask2 o
  | .vknot o => vMask1 o
  | .vkmov o => vKmov o
  | .vcvt o | .vcvtc o => vdNoFeed o && decide (o.vb.toNat ≤ 11)
  | .vqnt o => vdNoFeed o && decide (o.vb.toNat ≤ 7) && decide (o.k.toNat = 0)
  | .vdqnt o => vdNoFeed o && decide (o.vb.toNat ≤ 7)
  | .vpack o => vFeedRow o
  | .vunpk o => vdNoFeed o && vUnaryB o
  | .vrsum o | .vrmax o | .vrmin o => vReduce o
  | .vrsumm o => vPairReg o.vd && vUnaryB o
  | .vrscl o => vFeedRow o && vPairReg o.va
  | .vperm o | .vbcst o | .vrot o => vdNoFeed o
  | .vmov o | .viota o => vFeedRow o && vUnaryB o
  | .vrng o | .vdrop o => vTwin o
  | .padv _ n => decide (n.toNat ≠ 0)
  | .sin _ lane => laneOrNone lane
  | .sout _ lane => laneOrNone lane
  | .tap _ inl outl => laneOrNone inl && laneOrNone outl
  | .agld _ lane => decide (lane.toNat ≤ 7)
  | .slck _ k => decide (k.toNat ≠ 0)
  | .slfwd _ port remote => remote || decide (port.toNat = 0)
  | .twprm _ _ _ n => decide (n.toNat ≠ 0)
  | .poisk k => decide (k.toNat ≠ 0)
  | .vimm _ vd _ => decide (vd.toNat ≤ 11)
  | .vsetm etype rm _ w0 w1 => decide (etype.toNat ≤ 11) && decide (rm.toNat ≤ 5) && (w0 || w1)
  | .kset k mode _ => decide (k.toNat ≠ 0) && decide (mode.toNat ≤ 2)
  | .rngkey part v =>
    match part.toNat with
    | 0 | 1 => decide (v.toNat < 2 ^ 32)
    | 2 => decide (v.toNat < 2 ^ 15)
    | _ => true
  | .agcfg _ base _ _ => decide (base.toNat ≤ 1535)
  | .agcfg2 _ _ _ _ lane mode pond =>
    laneOrNone lane && decide (mode.toNat ≤ 4) && (decide (3 ≤ mode.toNat) || decide (pond.toNat = 0))
  | .add d a b | .sub d a b | .mul d a b | .mulh d a b | .mulhu d a b | .div d a b | .divu d a b | .rem d a b
  | .remu d a b | .and d a b | .or d a b | .xor d a b | .andn d a b | .shl d a b | .shr d a b | .sar d a b
  | .rotl d a b | .min d a b | .max d a b | .minu d a b | .maxu d a b | .sext d a b | .zext d a b | .cmpeq d a b
  | .cmpne d a b | .cmplt d a b | .cmpltu d a b | .sel d a b => reg d && reg a && reg b
  | .clz d a | .ctz d a | .popc d a | .bswap d a | .mov d a => reg d && reg a
  | .addi d a _ | .muli d a _ | .andi d a _ | .ori d a _ | .xori d a _ | .cmpeqi d a _ | .cmpnei d a _
  | .cmplti d a _ | .cmpltui d a _ | .mini d a _ | .maxi d a _ => reg d && reg a
  | .shli d a i | .shri d a i | .sari d a i | .rotli d a i => reg d && reg a && shiftImm i
  | .limm d _ | .limmz d _ => reg d
  | .limmh d i => reg d && decide (i.toNat < 2 ^ 16)
  | .beq a b _ | .bne a b _ | .blt a b _ | .bge a b _ | .bltu a b _ | .bgeu a b _ => reg a && reg b
  | .bz a _ | .bnz a _ => reg a
  | .jal d _ => reg d
  | .jalr d a _ => reg d && reg a
  | .ld m => memLd m
  | .lds m => memLd m && decide (m.sz.toNat ≤ 3)
  | .st m => memSt m
  | .amo m => memAmo m
  | .cas m => memCas m
  | .fence m => memFence m
  | .enq m => memQueue m
  | .seqw m => memQueue m && decide (m.off.toNat < 2 ^ 31)
  | .getcr d cr => reg d && crListed cr.toNat
  | .setcr a cr => reg a && crWritable cr.toNat
  | .rdcyc d => reg d
  | .waitev d a mask => reg d && reg a && decide (mask.toNat ≠ 0)
  | .tlsig a b _ => reg a && reg b
  | .tlwt d a b t => reg d && reg a && reg b && decide (t.toNat < 2 ^ 31)
  | .tlset a b | .depset a b => reg a && reg b
  | .depdec d a | .launch d a | .publ d a | .snap d a | .unsnap d a => reg d && reg a
  | .finsp d a b | .fpatch d a b => reg d && cap a && reg b
  | .fres a | .fkill a _ | .hcapdrop a => cap a
  | .fstep d a | .hcapq d a => reg d && cap a
  | .fclrp a b => cap a && reg b
  | .condset a | .wdog a => reg a
  | .iterwt d a | .kickscan d a | .kickscanClear d a => reg d && reg a
  | .jrnl d a b _ | .sluice d a b | .rngc d a b | .pagepl d a b => reg d && reg a && reg b
  | .shpfence a all => reg a && (!all || decide (a.toNat = 0))
  | _ => true

end Sys2Proof
end

