-- ==== Sys2Proof/Decode.lean ====
section
/-! DEFINITION. Words and instructions (R43 to R63, R122, R143, R159, R164, R170, R171, R178, R188 to R203). A word is
read field by field from the encoding tables; it is an instruction only if the fields are such as the tables admit
and every other bit is zero, which the decoder tests by encoding again. -/

namespace Sys2Proof

/-! ## Layouts -/

/-- Where an instruction stands and what its fields are: an M, V or S slot (R47), an FL word (R55), a control word
(R56: class, OP, D and bits [61:0]), one of the two words of R44, or none (operations and events). -/
inductive Form where
  | m (op acc src md imm : Nat)
  | v (op : Nat) (o : VArgs)
  | s (op pd sp simm : Nat)
  | long (lop payload : Nat)
  | ctl (cls op d rest : Nat)
  | nul
  | guard
  | none
  deriving DecidableEq, Repr

/-- Bits [61:0] of a C-ALU word. -/
def restAlu (a b : BitVec 6) : Nat := pack [(50, 0), (6, b.toNat), (6, a.toNat)]
/-- Bits [61:0] of a C-IMM, C-BR or C-SYS word. -/
def restImm (a b : BitVec 6) (i : Nat) : Nat := pack [(18, 0), (32, i), (6, b.toNat), (6, a.toNat)]
/-- Bits [61:0] of a C-WIDE word. -/
def restWide (i : BitVec 48) : Nat := pack [(8, 0), (48, i.toNat), (6, 0)]
/-- Bits [61:0] of a C-MEM word. -/
def restMem (m : MemArgs) : Nat :=
  pack [(4, 0), (32, m.off.toNat), (2, m.ford.toNat), (2, m.ord.toNat), (4, m.aop.toNat), (3, m.scope.toNat),
    (3, m.sz.toNat), (6, m.b.toNat), (6, m.a.toNat)]

def genPd (g : BitVec 3) : Nat := g.toNat

/-- The fields of an instruction (R58 to R63 for the opcodes). -/
def form : Instr → Form
  | .nop => .nul
  | .guard => .guard
  | .mxhdr stat opnd src st hd =>
    .m 1 0 src.toNat (stat.toNat + 2 * opnd.toNat + 8 * st.toNat) hd.toNat
  | .mxldb sc side ls n => .m 2 0 ls.toNat (sc.toNat + 2 * side.toNat) n.toNat
  | .mxldbt ls slot => .m 3 0 ls.toNat 0 slot.toNat
  | .mxfeed acc ls first slot => .m 4 acc.toNat ls.toNat first.toNat slot.toNat
  | .mxbub acc => .m 5 acc.toNat 0 0 0
  | .mxclr acc => .m 6 acc.toNat 0 0 0
  | .mxdrn acc lane row part => .m 7 acc.toNat lane.toNat 0 (row.toNat + 32 * part.toNat)
  | .mxdrnc acc lane row part => .m 8 acc.toNat lane.toNat 0 (row.toNat + 32 * part.toNat)
  | .mxpair => .m 9 0 0 0 0
  | .mxsolo => .m 10 0 0 0 0
  | .mxaccf acc rm sat if32 drain => .m 11 acc.toNat rm.toNat (sat.toNat + 2 * if32.toNat) drain.toNat
  | .mxstat acc form dst st => .m 12 acc.toNat dst.toNat (form.toNat + 8 * st.toNat) 0
  | .mxswapb => .m 13 0 0 0 0
  | .vadd o => .v 1 o
  | .vsub o => .v 2 o
  | .vmul o => .v 3 o
  | .vfma o => .v 4 o
  | .vfms o => .v 5 o
  | .vfnma o => .v 6 o
  | .vmin o => .v 7 o
  | .vmax o => .v 8 o
  | .vabs o => .v 9 o
  | .vneg o => .v 10 o
  | .vrcp o => .v 11 o
  | .vrsq o => .v 12 o
  | .vsqrt o => .v 13 o
  | .vexp2 o => .v 14 o
  | .vlog2 o => .v 15 o
  | .vdiv o => .v 16 o
  | .viadd o => .v 17 o
  | .visub o => .v 18 o
  | .vimul o => .v 19 o
  | .vimad o => .v 20 o
  | .vimin o => .v 21 o
  | .vimax o => .v 22 o
  | .vand o => .v 23 o
  | .vor o => .v 24 o
  | .vxor o => .v 25 o
  | .vnot o => .v 26 o
  | .vshl o => .v 27 o
  | .vshr o => .v 28 o
  | .vsar o => .v 29 o
  | .vclz o => .v 30 o
  | .vpopc o => .v 31 o
  | .vcmpeq o => .v 32 o
  | .vcmpne o => .v 33 o
  | .vcmplt o => .v 34 o
  | .vcmple o => .v 35 o
  | .vsel o => .v 36 o
  | .vkand o => .v 37 o
  | .vkor o => .v 38 o
  | .vknot o => .v 39 o
  | .vkmov o => .v 40 o
  | .vcvt o => .v 41 o
  | .vcvtc o => .v 42 o
  | .vqnt o => .v 43 o
  | .vdqnt o => .v 44 o
  | .vpack o => .v 45 o
  | .vunpk o => .v 46 o
  | .vrsum o => .v 47 o
  | .vrmax o => .v 48 o
  | .vrmin o => .v 49 o
  | .vrsumm o => .v 50 o
  | .vrscl o => .v 51 o
  | .vperm o => .v 52 o
  | .vbcst o => .v 53 o
  | .vrot o => .v 54 o
  | .vmov o => .v 55 o
  | .viota o => .v 56 o
  | .vrng o => .v 57 o
  | .vdrop o => .v 58 o
  | .prd p line => .s 1 p.toNat (line.toNat / 256) (line.toNat % 256)
  | .pwr p line => .s 2 p.toNat (line.toNat / 256) (line.toNat % 256)
  | .prw p port line => .s 3 p.toNat port.toNat line.toNat
  | .padv p n => .s 4 p.toNat 0 n.toNat
  | .ptagc p j => .s 5 p.toNat 0 j.toNat
  | .ldt g adv off => .s 6 (genPd g) adv.toNat off.toNat
  | .stt g adv off => .s 7 (genPd g) adv.toNat off.toNat
  | .sin port lane => .s 8 0 port.toNat lane.toNat
  | .sout port lane => .s 9 0 port.toNat lane.toNat
  | .tap st inl outl => .s 10 0 st.toNat (inl.toNat + 16 * outl.toNat)
  | .aggo g res => .s 11 (genPd g) 0 res.toNat
  | .agstop g => .s 12 (genPd g) 0 0
  | .agld g lane => .s 13 (genPd g) lane.toNat 0
  | .kedge k col => .s 14 0 k.toNat col.toNat
  | .slck p k => .s 15 p.toNat k.toNat 0
  | .slfwd p port remote => .s 16 p.toNat port.toNat remote.toNat
  | .twprm p twe drain n => .s 17 p.toNat (twe.toNat + 4 * drain.toNat) n.toNat
  | .poisk k => .s 18 0 k.toNat 0
  | .vimm st vd value => .long 1 (pack [(32, value.toNat), (4, vd.toNat), (1, st.toNat)])
  | .vimm64 value => .long 2 value.toNat
  | .vsetm etype rm sat w0 w1 =>
    .long 3 (pack [(4, etype.toNat), (3, rm.toNat), (1, sat.toNat), (1, w0.toNat), (1, w1.toNat)])
  | .kset k mode value => .long 4 (pack [(32, value.toNat), (3, k.toNat), (2, mode.toNat)])
  | .rngkey part value => .long 8 (pack [(48, value.toNat), (14, 0), (2, part.toNat)])
  | .sclset value => .long 9 value.toNat
  | .agcfg g base str cnt => .long 5 (pack [(3, g.toNat), (11, base.toNat), (12, str.toNat), (12, cnt.toNat)])
  | .agcfg2 g str cnt bank lane mode pond =>
    .long 6 (pack [(3, g.toNat), (12, str.toNat), (12, cnt.toNat), (3, bank.toNat), (4, lane.toNat), (3, mode.toNat),
      (5, pond.toNat)])
  | .hdrset hd fmt swz vlim sbase =>
    .long 7 (pack [(5, fmt.toNat), (4, swz.toNat), (5, vlim.toNat), (9, sbase.toNat), (39, 0), (2, hd.toNat)])
  | .dropcfg thr scale => .long 10 (pack [(32, thr.toNat), (32, scale.toNat)])
  | .mxcfg efmt eswz een plink => .long 11 (pack [(5, efmt.toNat), (4, eswz.toNat), (1, een.toNat), (1, plink.toNat)])
  | .add d a b => .ctl 8 1 d.toNat (restAlu a b)
  | .sub d a b => .ctl 8 2 d.toNat (restAlu a b)
  | .mul d a b => .ctl 8 3 d.toNat (restAlu a b)
  | .mulh d a b => .ctl 8 4 d.toNat (restAlu a b)
  | .mulhu d a b => .ctl 8 5 d.toNat (restAlu a b)
  | .div d a b => .ctl 8 6 d.toNat (restAlu a b)
  | .divu d a b => .ctl 8 7 d.toNat (restAlu a b)
  | .rem d a b => .ctl 8 8 d.toNat (restAlu a b)
  | .remu d a b => .ctl 8 9 d.toNat (restAlu a b)
  | .and d a b => .ctl 8 10 d.toNat (restAlu a b)
  | .or d a b => .ctl 8 11 d.toNat (restAlu a b)
  | .xor d a b => .ctl 8 12 d.toNat (restAlu a b)
  | .andn d a b => .ctl 8 13 d.toNat (restAlu a b)
  | .shl d a b => .ctl 8 14 d.toNat (restAlu a b)
  | .shr d a b => .ctl 8 15 d.toNat (restAlu a b)
  | .sar d a b => .ctl 8 16 d.toNat (restAlu a b)
  | .rotl d a b => .ctl 8 17 d.toNat (restAlu a b)
  | .min d a b => .ctl 8 18 d.toNat (restAlu a b)
  | .max d a b => .ctl 8 19 d.toNat (restAlu a b)
  | .minu d a b => .ctl 8 20 d.toNat (restAlu a b)
  | .maxu d a b => .ctl 8 21 d.toNat (restAlu a b)
  | .clz d a => .ctl 8 22 d.toNat (restAlu a 0)
  | .ctz d a => .ctl 8 23 d.toNat (restAlu a 0)
  | .popc d a => .ctl 8 24 d.toNat (restAlu a 0)
  | .bswap d a => .ctl 8 25 d.toNat (restAlu a 0)
  | .sext d a b => .ctl 8 26 d.toNat (restAlu a b)
  | .zext d a b => .ctl 8 27 d.toNat (restAlu a b)
  | .cmpeq d a b => .ctl 8 28 d.toNat (restAlu a b)
  | .cmpne d a b => .ctl 8 29 d.toNat (restAlu a b)
  | .cmplt d a b => .ctl 8 30 d.toNat (restAlu a b)
  | .cmpltu d a b => .ctl 8 31 d.toNat (restAlu a b)
  | .sel d a b => .ctl 8 32 d.toNat (restAlu a b)
  | .mov d a => .ctl 8 33 d.toNat (restAlu a 0)
  | .addi d a i => .ctl 9 1 d.toNat (restImm a 0 i.toNat)
  | .muli d a i => .ctl 9 2 d.toNat (restImm a 0 i.toNat)
  | .andi d a i => .ctl 9 3 d.toNat (restImm a 0 i.toNat)
  | .ori d a i => .ctl 9 4 d.toNat (restImm a 0 i.toNat)
  | .xori d a i => .ctl 9 5 d.toNat (restImm a 0 i.toNat)
  | .shli d a i => .ctl 9 6 d.toNat (restImm a 0 i.toNat)
  | .shri d a i => .ctl 9 7 d.toNat (restImm a 0 i.toNat)
  | .sari d a i => .ctl 9 8 d.toNat (restImm a 0 i.toNat)
  | .rotli d a i => .ctl 9 9 d.toNat (restImm a 0 i.toNat)
  | .cmpeqi d a i => .ctl 9 10 d.toNat (restImm a 0 i.toNat)
  | .cmpnei d a i => .ctl 9 11 d.toNat (restImm a 0 i.toNat)
  | .cmplti d a i => .ctl 9 12 d.toNat (restImm a 0 i.toNat)
  | .cmpltui d a i => .ctl 9 13 d.toNat (restImm a 0 i.toNat)
  | .mini d a i => .ctl 9 14 d.toNat (restImm a 0 i.toNat)
  | .maxi d a i => .ctl 9 15 d.toNat (restImm a 0 i.toNat)
  | .limm d i => .ctl 13 1 d.toNat (restWide i)
  | .limmz d i => .ctl 13 2 d.toNat (restWide i)
  | .limmh d i => .ctl 13 3 d.toNat (restWide i)
  | .beq a b off => .ctl 11 1 0 (restImm a b off.toNat)
  | .bne a b off => .ctl 11 2 0 (restImm a b off.toNat)
  | .blt a b off => .ctl 11 3 0 (restImm a b off.toNat)
  | .bge a b off => .ctl 11 4 0 (restImm a b off.toNat)
  | .bltu a b off => .ctl 11 5 0 (restImm a b off.toNat)
  | .bgeu a b off => .ctl 11 6 0 (restImm a b off.toNat)
  | .bz a off => .ctl 11 7 0 (restImm a 0 off.toNat)
  | .bnz a off => .ctl 11 8 0 (restImm a 0 off.toNat)
  | .jmp off => .ctl 11 9 0 (restImm 0 0 off.toNat)
  | .jal d off => .ctl 11 10 d.toNat (restImm 0 0 off.toNat)
  | .jalr d a off => .ctl 11 11 d.toNat (restImm a 0 off.toNat)
  | .ld m => .ctl 10 1 m.d.toNat (restMem m)
  | .lds m => .ctl 10 2 m.d.toNat (restMem m)
  | .st m => .ctl 10 3 m.d.toNat (restMem m)
  | .amo m => .ctl 10 4 m.d.toNat (restMem m)
  | .cas m => .ctl 10 5 m.d.toNat (restMem m)
  | .fence m => .ctl 10 6 m.d.toNat (restMem m)
  | .enq m => .ctl 10 7 m.d.toNat (restMem m)
  | .seqw m => .ctl 10 8 m.d.toNat (restMem m)
  | .trap code => .ctl 12 1 0 (restImm 0 0 code.toNat)
  | .svc code => .ctl 12 2 0 (restImm 0 0 code.toNat)
  | .hend => .ctl 12 3 0 (restImm 0 0 0)
  | .getcr d cr => .ctl 12 4 d.toNat (restImm 0 0 cr.toNat)
  | .setcr a cr => .ctl 12 5 0 (restImm a 0 cr.toNat)
  | .rdcyc d => .ctl 12 6 d.toNat (restImm 0 0 0)
  | .waitev d a mask => .ctl 12 7 d.toNat (restImm a 0 mask.toNat)
  | .tlsig a b add => .ctl 12 8 0 (restImm a b add.toNat)
  | .tlwt d a b timeout => .ctl 12 9 d.toNat (restImm a b timeout.toNat)
  | .tlset a b => .ctl 12 10 0 (restImm a b 0)
  | .depdec d a => .ctl 12 11 d.toNat (restImm a 0 0)
  | .depset a b => .ctl 12 12 0 (restImm a b 0)
  | .launch d a => .ctl 12 13 d.toNat (restImm a 0 0)
  | .publ d a => .ctl 12 14 d.toNat (restImm a 0 0)
  | .snap d a => .ctl 12 15 d.toNat (restImm a 0 0)
  | .unsnap d a => .ctl 12 16 d.toNat (restImm a 0 0)
  | .finsp d a b => .ctl 12 17 d.toNat (restImm a b 0)
  | .fpatch d a b => .ctl 12 18 d.toNat (restImm a b 0)
  | .fres a => .ctl 12 19 0 (restImm a 0 0)
  | .fkill a relocate => .ctl 12 20 0 (restImm a 0 relocate.toNat)
  | .fstep d a => .ctl 12 21 d.toNat (restImm a 0 0)
  | .fclrp a b => .ctl 12 22 0 (restImm a b 0)
  | .hcapq d a => .ctl 12 23 d.toNat (restImm a 0 0)
  | .hcapdrop a => .ctl 12 24 0 (restImm a 0 0)
  | .condset a => .ctl 12 25 0 (restImm a 0 0)
  | .iterwt d a => .ctl 12 26 d.toNat (restImm a 0 0)
  | .kickscan d a => .ctl 12 27 d.toNat (restImm a 0 0)
  | .kickscanClear d a => .ctl 12 27 d.toNat (restImm a 0 1)
  | .jrnl d a b tag => .ctl 12 28 d.toNat (restImm a b tag.toNat)
  | .wdog a => .ctl 12 29 0 (restImm a 0 0)
  | .halt => .ctl 12 30 0 (restImm 0 0 0)
  | .sluice d a b => .ctl 12 31 d.toNat (restImm a b 0)
  | .rngc d a b => .ctl 12 32 d.toNat (restImm a b 0)
  | .shpfence a all => .ctl 12 33 0 (restImm a 0 all.toNat)
  | .pagepl d a b => .ctl 12 34 d.toNat (restImm a b 0)
  | _ => .none

/-- The instruction that M-slot fields name, before the check of the fields. -/
def readM (op acc src md imm : Nat) : Option Instr :=
  let ac : BitVec 2 := BitVec.ofNat 2 acc
  let sr : BitVec 4 := BitVec.ofNat 4 src
  let bit (n : Nat) : Bool := decide (md / 2 ^ n % 2 = 1)
  match op with
  | 1 => some (.mxhdr (bit 0) (bit 1) sr (bit 3) (BitVec.ofNat 2 imm))
  | 2 => some (.mxldb (bit 0) (bit 1) sr (BitVec.ofNat 5 imm))
  | 3 => some (.mxldbt sr (BitVec.ofNat 5 imm))
  | 4 => some (.mxfeed ac sr (bit 0) (BitVec.ofNat 5 imm))
  | 5 => some (.mxbub ac)
  | 6 => some (.mxclr ac)
  | 7 => some (.mxdrn ac sr (BitVec.ofNat 5 imm) (BitVec.ofNat 2 (imm / 32)))
  | 8 => some (.mxdrnc ac sr (BitVec.ofNat 5 imm) (BitVec.ofNat 2 (imm / 32)))
  | 9 => some .mxpair
  | 10 => some .mxsolo
  | 11 => some (.mxaccf ac sr (bit 0) (bit 1) (BitVec.ofNat 4 imm))
  | 12 => some (.mxstat ac (BitVec.ofNat 2 md) sr (bit 3))
  | 13 => some .mxswapb
  | _ => none

/-- The instruction that V-slot fields name (R59). -/
def readV (op : Nat) (o : VArgs) : Option Instr :=
  match op with
  | 1 => some (.vadd o)
  | 2 => some (.vsub o)
  | 3 => some (.vmul o)
  | 4 => some (.vfma o)
  | 5 => some (.vfms o)
  | 6 => some (.vfnma o)
  | 7 => some (.vmin o)
  | 8 => some (.vmax o)
  | 9 => some (.vabs o)
  | 10 => some (.vneg o)
  | 11 => some (.vrcp o)
  | 12 => some (.vrsq o)
  | 13 => some (.vsqrt o)
  | 14 => some (.vexp2 o)
  | 15 => some (.vlog2 o)
  | 16 => some (.vdiv o)
  | 17 => some (.viadd o)
  | 18 => some (.visub o)
  | 19 => some (.vimul o)
  | 20 => some (.vimad o)
  | 21 => some (.vimin o)
  | 22 => some (.vimax o)
  | 23 => some (.vand o)
  | 24 => some (.vor o)
  | 25 => some (.vxor o)
  | 26 => some (.vnot o)
  | 27 => some (.vshl o)
  | 28 => some (.vshr o)
  | 29 => some (.vsar o)
  | 30 => some (.vclz o)
  | 31 => some (.vpopc o)
  | 32 => some (.vcmpeq o)
  | 33 => some (.vcmpne o)
  | 34 => some (.vcmplt o)
  | 35 => some (.vcmple o)
  | 36 => some (.vsel o)
  | 37 => some (.vkand o)
  | 38 => some (.vkor o)
  | 39 => some (.vknot o)
  | 40 => some (.vkmov o)
  | 41 => some (.vcvt o)
  | 42 => some (.vcvtc o)
  | 43 => some (.vqnt o)
  | 44 => some (.vdqnt o)
  | 45 => some (.vpack o)
  | 46 => some (.vunpk o)
  | 47 => some (.vrsum o)
  | 48 => some (.vrmax o)
  | 49 => some (.vrmin o)
  | 50 => some (.vrsumm o)
  | 51 => some (.vrscl o)
  | 52 => some (.vperm o)
  | 53 => some (.vbcst o)
  | 54 => some (.vrot o)
  | 55 => some (.vmov o)
  | 56 => some (.viota o)
  | 57 => some (.vrng o)
  | 58 => some (.vdrop o)
  | _ => none

/-- The instruction that S-slot fields name (R60, R164). -/
def readS (op pd sp simm : Nat) : Option Instr :=
  let p : BitVec 5 := BitVec.ofNat 5 pd
  let g : BitVec 3 := BitVec.ofNat 3 pd
  let pt : BitVec 2 := BitVec.ofNat 2 sp
  match op with
  | 1 => some (.prd p (BitVec.ofNat 10 (sp * 256 + simm)))
  | 2 => some (.pwr p (BitVec.ofNat 10 (sp * 256 + simm)))
  | 3 => some (.prw p pt (BitVec.ofNat 8 simm))
  | 4 => some (.padv p (BitVec.ofNat 8 simm))
  | 5 => some (.ptagc p (BitVec.ofNat 8 simm))
  | 6 => some (.ldt g (decide (sp % 2 = 1)) (BitVec.ofNat 8 simm))
  | 7 => some (.stt g (decide (sp % 2 = 1)) (BitVec.ofNat 8 simm))
  | 8 => some (.sin pt (BitVec.ofNat 4 simm))
  | 9 => some (.sout pt (BitVec.ofNat 4 simm))
  | 10 => some (.tap (decide (sp % 2 = 1)) (BitVec.ofNat 4 simm) (BitVec.ofNat 4 (simm / 16)))
  | 11 => some (.aggo g (decide (simm % 2 = 1)))
  | 12 => some (.agstop g)
  | 13 => some (.agld g (BitVec.ofNat 4 sp))
  | 14 => some (.kedge (BitVec.ofNat 3 sp) (BitVec.ofNat 6 simm))
  | 15 => some (.slck p (BitVec.ofNat 3 sp))
  | 16 => some (.slfwd p pt (decide (simm % 2 = 1)))
  | 17 => some (.twprm p pt (decide (sp / 4 % 2 = 1)) (BitVec.ofNat 8 simm))
  | 18 => some (.poisk (BitVec.ofNat 3 sp))
  | _ => none

/-- The instruction that an FL word's LOP and PAYLOAD name (R60, R130, R159, R170, R171, R178). -/
def readLong (lop p : Nat) : Option Instr :=
  match lop with
  | 1 => some (.vimm (decide (bitsOf p 36 1 = 1)) (BitVec.ofNat 4 (bitsOf p 32 4)) (BitVec.ofNat 32 p))
  | 2 => some (.vimm64 (BitVec.ofNat 64 p))
  | 3 => some (.vsetm (BitVec.ofNat 4 p) (BitVec.ofNat 3 (bitsOf p 4 3)) (decide (bitsOf p 7 1 = 1))
      (decide (bitsOf p 8 1 = 1)) (decide (bitsOf p 9 1 = 1)))
  | 4 => some (.kset (BitVec.ofNat 3 (bitsOf p 32 3)) (BitVec.ofNat 2 (bitsOf p 35 2)) (BitVec.ofNat 32 p))
  | 5 => some (.agcfg (BitVec.ofNat 3 p) (BitVec.ofNat 11 (bitsOf p 3 11)) (BitVec.ofNat 12 (bitsOf p 14 12))
      (BitVec.ofNat 12 (bitsOf p 26 12)))
  | 6 => some (.agcfg2 (BitVec.ofNat 3 p) (BitVec.ofNat 12 (bitsOf p 3 12)) (BitVec.ofNat 12 (bitsOf p 15 12))
      (BitVec.ofNat 3 (bitsOf p 27 3)) (BitVec.ofNat 4 (bitsOf p 30 4)) (BitVec.ofNat 3 (bitsOf p 34 3))
      (BitVec.ofNat 5 (bitsOf p 37 5)))
  | 7 => some (.hdrset (BitVec.ofNat 2 (bitsOf p 62 2)) (BitVec.ofNat 5 p) (BitVec.ofNat 4 (bitsOf p 5 4))
      (BitVec.ofNat 5 (bitsOf p 9 5)) (BitVec.ofNat 9 (bitsOf p 14 9)))
  | 8 => some (.rngkey (BitVec.ofNat 2 (bitsOf p 62 2)) (BitVec.ofNat 48 p))
  | 9 => some (.sclset (BitVec.ofNat 32 p))
  | 10 => some (.dropcfg (BitVec.ofNat 32 p) (BitVec.ofNat 32 (bitsOf p 32 32)))
  | 11 => some (.mxcfg (BitVec.ofNat 5 p) (BitVec.ofNat 4 (bitsOf p 5 4)) (decide (bitsOf p 9 1 = 1))
      (decide (bitsOf p 10 1 = 1)))
  | _ => none

/-- The C-ALU instruction of an OP (R61). -/
def readAlu (op : Nat) (d a b : BitVec 6) : Option Instr :=
  match op with
  | 1 => some (.add d a b)
  | 2 => some (.sub d a b)
  | 3 => some (.mul d a b)
  | 4 => some (.mulh d a b)
  | 5 => some (.mulhu d a b)
  | 6 => some (.div d a b)
  | 7 => some (.divu d a b)
  | 8 => some (.rem d a b)
  | 9 => some (.remu d a b)
  | 10 => some (.and d a b)
  | 11 => some (.or d a b)
  | 12 => some (.xor d a b)
  | 13 => some (.andn d a b)
  | 14 => some (.shl d a b)
  | 15 => some (.shr d a b)
  | 16 => some (.sar d a b)
  | 17 => some (.rotl d a b)
  | 18 => some (.min d a b)
  | 19 => some (.max d a b)
  | 20 => some (.minu d a b)
  | 21 => some (.maxu d a b)
  | 22 => some (.clz d a)
  | 23 => some (.ctz d a)
  | 24 => some (.popc d a)
  | 25 => some (.bswap d a)
  | 26 => some (.sext d a b)
  | 27 => some (.zext d a b)
  | 28 => some (.cmpeq d a b)
  | 29 => some (.cmpne d a b)
  | 30 => some (.cmplt d a b)
  | 31 => some (.cmpltu d a b)
  | 32 => some (.sel d a b)
  | 33 => some (.mov d a)
  | _ => none

/-- The C-IMM instruction of an OP (R62). -/
def readImm (op : Nat) (d a : BitVec 6) (i : BitVec 32) : Option Instr :=
  match op with
  | 1 => some (.addi d a i)
  | 2 => some (.muli d a i)
  | 3 => some (.andi d a i)
  | 4 => some (.ori d a i)
  | 5 => some (.xori d a i)
  | 6 => some (.shli d a i)
  | 7 => some (.shri d a i)
  | 8 => some (.sari d a i)
  | 9 => some (.rotli d a i)
  | 10 => some (.cmpeqi d a i)
  | 11 => some (.cmpnei d a i)
  | 12 => some (.cmplti d a i)
  | 13 => some (.cmpltui d a i)
  | 14 => some (.mini d a i)
  | 15 => some (.maxi d a i)
  | _ => none

/-- The C-BR instruction of an OP (R62, R192). -/
def readBr (op : Nat) (d a b : BitVec 6) (off : BitVec 32) : Option Instr :=
  match op with
  | 1 => some (.beq a b off)
  | 2 => some (.bne a b off)
  | 3 => some (.blt a b off)
  | 4 => some (.bge a b off)
  | 5 => some (.bltu a b off)
  | 6 => some (.bgeu a b off)
  | 7 => some (.bz a off)
  | 8 => some (.bnz a off)
  | 9 => some (.jmp off)
  | 10 => some (.jal d off)
  | 11 => some (.jalr d a off)
  | _ => none

/-- The C-MEM instruction of an OP (R62). -/
def readMem (op : Nat) (m : MemArgs) : Option Instr :=
  match op with
  | 1 => some (.ld m)
  | 2 => some (.lds m)
  | 3 => some (.st m)
  | 4 => some (.amo m)
  | 5 => some (.cas m)
  | 6 => some (.fence m)
  | 7 => some (.enq m)
  | 8 => some (.seqw m)
  | _ => none

/-- The C-SYS instruction of an OP (R63, R202). -/
def readSys (op : Nat) (d a b : BitVec 6) (i : BitVec 32) : Option Instr :=
  match op with
  | 1 => some (.trap i)
  | 2 => some (.svc i)
  | 3 => some .hend
  | 4 => some (.getcr d (i.setWidth 12))
  | 5 => some (.setcr a (i.setWidth 12))
  | 6 => some (.rdcyc d)
  | 7 => some (.waitev d a (i.setWidth 9))
  | 8 => some (.tlsig a b i[0])
  | 9 => some (.tlwt d a b i)
  | 10 => some (.tlset a b)
  | 11 => some (.depdec d a)
  | 12 => some (.depset a b)
  | 13 => some (.launch d a)
  | 14 => some (.publ d a)
  | 15 => some (.snap d a)
  | 16 => some (.unsnap d a)
  | 17 => some (.finsp d a b)
  | 18 => some (.fpatch d a b)
  | 19 => some (.fres a)
  | 20 => some (.fkill a i[0])
  | 21 => some (.fstep d a)
  | 22 => some (.fclrp a b)
  | 23 => some (.hcapq d a)
  | 24 => some (.hcapdrop a)
  | 25 => some (.condset a)
  | 26 => some (.iterwt d a)
  | 27 => some (if i[0] then .kickscanClear d a else .kickscan d a)
  | 28 => some (.jrnl d a b i)
  | 29 => some (.wdog a)
  | 30 => some .halt
  | 31 => some (.sluice d a b)
  | 32 => some (.rngc d a b)
  | 33 => some (.shpfence a i[0])
  | 34 => some (.pagepl d a b)
  | _ => none

/-- The operand fields of C-MEM bits [61:0] (R57). -/
def readMemArgs (d rest : Nat) : MemArgs :=
  ⟨BitVec.ofNat 6 d, BitVec.ofNat 6 (bitsOf rest 56 6), BitVec.ofNat 6 (bitsOf rest 50 6),
    BitVec.ofNat 3 (bitsOf rest 47 3), BitVec.ofNat 3 (bitsOf rest 44 3), BitVec.ofNat 4 (bitsOf rest 40 4),
    BitVec.ofNat 2 (bitsOf rest 38 2), BitVec.ofNat 2 (bitsOf rest 36 2), BitVec.ofNat 32 (bitsOf rest 4 32)⟩

/-- The instruction of a control class, OP, D and bits [61:0] (R56, R57). -/
def readCtl (cls op d rest : Nat) : Option Instr :=
  let dr : BitVec 6 := BitVec.ofNat 6 d
  let a : BitVec 6 := BitVec.ofNat 6 (bitsOf rest 56 6)
  let b : BitVec 6 := BitVec.ofNat 6 (bitsOf rest 50 6)
  let i : BitVec 32 := BitVec.ofNat 32 (bitsOf rest 18 32)
  match cls with
  | 8 => readAlu op dr a b
  | 9 => readImm op dr a i
  | 10 => readMem op (readMemArgs d rest)
  | 11 => readBr op dr a b i
  | 12 => readSys op dr a b i
  | 13 =>
    let w : BitVec 48 := BitVec.ofNat 48 (bitsOf rest 8 48)
    match op with
    | 1 => some (.limm dr w)
    | 2 => some (.limmz dr w)
    | 3 => some (.limmh dr w)
    | _ => none
  | _ => none

/-- The instruction of a layout, before the check of its fields. -/
def readForm : Form → Option Instr
  | .m op acc src md imm => readM op acc src md imm
  | .v op o => readV op o
  | .s op pd sp simm => readS op pd sp simm
  | .long lop p => readLong lop p
  | .ctl cls op d rest => readCtl cls op d rest
  | .nul => some .nop
  | .guard => some .guard
  | .none => none

/-- The instruction of a layout: the fields are such as the tables admit, and no other bit is set (R48). -/
def readChecked (f : Form) : Option Instr :=
  match readForm f with
  | some i => if wellFormed i && decide (form i = f) then some i else none
  | none => none

/-! ## Words -/

/-- Why a word is no instruction (R45, R48). -/
inductive BadWord where
  /-- CLASS 0x0, not all zero -/
  | nullClass
  /-- CLASS 0xF, not all ones -/
  | guardClass
  /-- CLASS 0x3 to 0x7 -/
  | reservedFabric
  /-- CLASS 0xE -/
  | reservedControl
  /-- an M slot with an unlisted opcode or a field that its entry does not admit -/
  | mSlot
  /-- the same of a V slot -/
  | vSlot
  /-- the same of an S slot -/
  | sSlot
  /-- the same of an FL word -/
  | long
  /-- the same of a control word -/
  | control
  deriving DecidableEq, Repr

/-- A decoded word: an FT word with its guard and slots (R46), an FL word (R55), a control word (R56), or a word of
R44. -/
inductive Fetched where
  | nul
  | guard
  | ft (ginv : Bool) (gk : BitVec 3) (m v s : Option Instr)
  | fl (ginv : Bool) (gk : BitVec 3) (i : Instr)
  | ctl (i : Instr)
  deriving DecidableEq, Repr

/-- A slot of 24 bits whose opcode is 0 must be zero as a whole (R48): then no instruction. -/
def slotOf (bad : BadWord) (w : Nat) (f : Form) : Except BadWord (Option Instr) :=
  if w = 0 then .ok none
  else match readChecked f with
    | some i => .ok (some i)
    | none => .error bad

/-- The layout of an M slot (R47). -/
def mForm (w : Nat) : Form := .m (bitsOf w 17 7) (bitsOf w 15 2) (bitsOf w 11 4) (bitsOf w 7 4) (bitsOf w 0 7)
/-- The layout of a V slot (R47). -/
def vForm (w : Nat) : Form :=
  .v (bitsOf w 17 7) ⟨decide (bitsOf w 16 1 = 1), BitVec.ofNat 4 (bitsOf w 12 4), BitVec.ofNat 4 (bitsOf w 8 4),
    BitVec.ofNat 4 (bitsOf w 4 4), BitVec.ofNat 3 (bitsOf w 1 3), decide (bitsOf w 0 1 = 1)⟩
/-- The layout of an S slot (R47). -/
def sForm (w : Nat) : Form := .s (bitsOf w 17 7) (bitsOf w 12 5) (bitsOf w 8 4) (bitsOf w 0 8)
/-- The layout of a control word (R56). -/
def ctlForm (w : Nat) : Form := .ctl (bitsOf w 76 4) (bitsOf w 68 8) (bitsOf w 62 6) (bitsOf w 0 62)

/-- The class of a word (R43). -/
def classOf (w : Nat) : Nat := bitsOf w 76 4

/-- Decode an 80-bit word (R43 to R48, R55, R56). -/
def decode (w : Nat) : Except BadWord Fetched :=
  let ginv := decide (bitsOf w 75 1 = 1)
  let gk : BitVec 3 := BitVec.ofNat 3 (bitsOf w 72 3)
  match classOf w with
  | 0 => if w % 2 ^ 80 = 0 then .ok .nul else .error .nullClass
  | 1 =>
    match slotOf .mSlot (bitsOf w 48 24) (mForm (bitsOf w 48 24)) with
    | .error e => .error e
    | .ok m =>
      match slotOf .vSlot (bitsOf w 24 24) (vForm (bitsOf w 24 24)) with
      | .error e => .error e
      | .ok v =>
        match slotOf .sSlot (bitsOf w 0 24) (sForm (bitsOf w 0 24)) with
        | .error e => .error e
        | .ok s => .ok (.ft ginv gk m v s)
  | 2 =>
    match readChecked (.long (bitsOf w 64 8) (bitsOf w 0 64)) with
    | some i => .ok (.fl ginv gk i)
    | none => .error .long
  | 3 | 4 | 5 | 6 | 7 => .error .reservedFabric
  | 14 => .error .reservedControl
  | 15 => if w % 2 ^ 80 = 2 ^ 80 - 1 then .ok .guard else .error .guardClass
  | _ =>
    match readChecked (ctlForm w) with
    | some i => .ok (.ctl i)
    | none => .error .control

/-- The word of ten bytes, the least significant first (R5). -/
def wordOfBytes : List Byte → Nat
  | [] => 0
  | b :: bs => b.toNat + 256 * wordOfBytes bs

/-- Decode the first ten bytes; a shorter text has no word. -/
def decodeBytes (bs : List Byte) : Option (Except BadWord Fetched × List Byte) :=
  if bs.length < 10 then none else some (decode (wordOfBytes (bs.take 10)), bs.drop 10)

/-! ## The encoder -/

/-- A slot's 24 bits, or an FL or control word's 80 bits without guard. -/
def encodeForm : Form → Nat
  | .m op acc src md imm => pack [(7, imm), (4, md), (4, src), (2, acc), (7, op)]
  | .v op o => pack [(1, o.x.toNat), (3, o.k.toNat), (4, o.vb.toNat), (4, o.va.toNat), (4, o.vd.toNat),
      (1, o.st.toNat), (7, op)]
  | .s op pd sp simm => pack [(8, simm), (4, sp), (5, pd), (7, op)]
  | .long lop p => pack [(64, p), (8, lop), (4, 0), (4, 2)]
  | .ctl cls op d rest => pack [(62, rest), (6, d), (8, op), (4, cls)]
  | .guard => 2 ^ 80 - 1
  | .nul | .none => 0

/-- An empty slot is zero. -/
def encodeSlot : Option Instr → Nat
  | none => 0
  | some i => encodeForm (form i)

/-- An FT word (R46). -/
def encodeFt (ginv : Bool) (gk : BitVec 3) (m v s : Option Instr) : Nat :=
  pack [(24, encodeSlot s), (24, encodeSlot v), (24, encodeSlot m), (3, gk.toNat), (1, ginv.toNat), (4, 1)]

/-- An FL word (R55). -/
def encodeFl (ginv : Bool) (gk : BitVec 3) (i : Instr) : Nat :=
  encodeForm (form i) + 2 ^ 72 * pack [(3, gk.toNat), (1, ginv.toNat)]

/-- The word of an instruction that stands alone and unguarded. -/
def encode (i : Instr) : Nat :=
  match form i with
  | .m .. => encodeFt false 0 (some i) none none
  | .v .. => encodeFt false 0 none (some i) none
  | .s .. => encodeFt false 0 none none (some i)
  | .none => 0
  | f => encodeForm f

/-- Whether an instruction has a word at all (operations and events have none). -/
def hasWord (i : Instr) : Bool :=
  match form i with
  | .none => false
  | _ => true

/-- The PAYLOAD of an FL word, which every FL word copies into the immediate latch (R55). -/
def payload (i : Instr) : Word :=
  match form i with
  | .long _ p => BitVec.ofNat 64 p
  | _ => 0

/-- The one instruction of a decoded word: of an FT word its first slot that is not empty. -/
def Fetched.first : Fetched → Option Instr
  | .nul => some .nop
  | .guard => some .guard
  | .ft _ _ (some m) _ _ => some m
  | .ft _ _ none (some v) _ => some v
  | .ft _ _ none none s => s
  | .fl _ _ i => some i
  | .ctl i => some i

/-- What the decoder reads from an instruction whose bits are w (a word is 80 bits, in the order R5 gives). -/
def decodeTableWord (_nbits w : Nat) : Option Instr :=
  match decode (w % 2 ^ 80) with
  | .ok f => f.first
  | .error _ => none

/-- R56: the register fields of a control word name an h register, which a thread without h registers may not
fetch (R33). -/
def usesH (w : Nat) : Bool :=
  let h (n : Nat) : Bool := decide (32 ≤ n) && decide (n ≤ 35)
  let d := h (bitsOf w 62 6)
  let a := h (bitsOf w 56 6)
  let b := h (bitsOf w 50 6)
  match classOf w with
  | 13 => d
  | 9 => d || a
  | _ => d || a || b

end Sys2Proof
end

