-- ==== Sys2Proof/Config.lean ====
section
/-! DEFINITION. What one package fixes (figures of R4, R277, R308 and the chapters they name) and the free values:
constants with no body for what the spec leaves open or takes from a standard it only names. -/

namespace Sys2Proof.Config

/-! ## Free values -/

/-- A free choice, one for every value of the counter that State holds (log entry 5). -/
opaque freeNat : Nat → Nat

/-- Cycles from a launch packet to the first frame of the graph, a number that no rule gives; R35 bounds the whole launch by
660 cycles (log entry 31). -/
opaque launchDelay : Nat

/-- A free 64-bit value, one for every value of the counter that State holds (log entry 5). -/
opaque freeWord : Nat → Word

/-- A free 512-bit value (log entry 5). -/
opaque freeVec : Nat → Vec

/-- PKGID of this package (R203): its number in the load-store domain. -/
opaque pkgId : BitVec 10

/-- The package's serial number (R378). -/
opaque packageSerial : Word

/-- The SHAKE256 digest of some bytes (R70, R377); the function is FIPS 202's and has no body here (log entry 9). -/
opaque shake256 : List Byte → BitVec 256

/-- Whether an XMSS signature verifies under a public key digest (R375); RFC 8391's, no body (log entry 9). -/
opaque xmssVerify : BitVec 256 → List Byte → List Byte → Bool

/-- The signature that the identity key gives at a one-time index (R377, R378); no body (log entry 9). -/
opaque xmssSign : Nat → List Byte → List Byte

/-- AES Key Wrap's unwrapping (RFC 3394) under the package's wrapping key (R378); none when it fails (log entry 9). -/
opaque keyUnwrap : BitVec 832 → Option (BitVec 768)

/-- XTS-AES-256 of a 128-byte line under a key set and a tweak (R358); no body (log entry 9). -/
opaque xtsEncrypt : BitVec 768 → Nat → BitVec 1024 → BitVec 1024

/-- Its inverse: what a ciphertext line decrypts to; no body (log entry 9). -/
opaque xtsDecrypt : BitVec 768 → Nat → BitVec 1024 → BitVec 1024

/-- The package and the port at the far end of a port's link (R355); wiring, no body (log entry 134). -/
opaque portPeer : Nat → BitVec 10 × BitVec 5

/-- The 64-bit tag of a ciphertext line: key set, source, sequence number, address, ciphertext (R358, log entry 9). -/
opaque gmacTag : BitVec 768 → Nat → Nat → Nat → BitVec 1024 → Word

/-- Whether a command at this cycle on this channel would break a JEDEC HBM4 timing rule (R292); the spec gives no
figures (log entry 10). -/
opaque jedecBreaks : Nat → Nat → Nat → Bool

/-- Whether the records of a timeline of a channel (cold or retreat) break a JEDEC HBM4 timing rule as they stand (R292); the
spec gives no figures (log entry 10). -/
opaque jedecTimeline : Nat → Bool → List Word → Bool

/-- REF records that a channel needs in every window of 256 ms while a retreat timeline runs: the spec gives no figure (R293,
log entry 10). -/
opaque refreshCount : Nat

/-- The lanes of a channel that mismatch in a training test: channel, direction, delays in force, draw (R395). -/
opaque laneMismatch : Nat → Bool → List Nat → Nat → BitVec 72

/-- A bit pattern the array receives in a write test for one burst where a lane failed (R395). -/
opaque laneReceived : Nat → Nat → BitVec 512

/-- Size of a swap area in bytes (R324). -/
def swapBytes : Nat := 2 ^ 21

/-- The bytes of a swap area after a checkpoint, by draw: R325 gives the area no layout (log entry 67). -/
opaque swapImage : Nat → Vector (BitVec 8) swapBytes

/-- The digest of the vendor public key fused in OTP (R375). -/
opaque vendorKeyDigest : BitVec 256

/-! ## Figures (R4) -/

def threadCount : Nat := 650
/-- Threads are numbered: 0 cellar-A, 1 cellar-B, 2 + 32 × die + context, 130 + region id. -/
def ctxBase : Nat := 2
def rauBase : Nat := 130

def hbmBytes : Nat := 0xC000000000

/-! ## Blocks of the register window (R277, R308, R337, R355, R368) -/

def winLo : Nat := 0xFF0000000000
def winHi : Nat := 0xFF4000000000
def prb (p : Nat) : Nat := 0xFF0000000000 + 0x10000 * p
def mat (t : Nat) : Nat := 0xFF1000000000 + 0x40 * t
def hcb (c : Nat) : Nat := 0xFF2000000000 + 0x100 * c
def twb (b n : Nat) : Nat := 0xFF3000000000 + 0x40 * (4 * b + n)
def pool (d e : Nat) : Nat := 0xFF3800000000 + 0x4000 * d + 0x40 * e
def trb : Nat := 0xFF3D00000000
def brb : Nat := 0xFF3E00000000
def crb : Nat := 0xFF3F00000000

/-- 256 ms in cycles (R293). -/
def refreshWindow : Nat := 140800000

/-- 10 ms in cycles (R38). -/
def tenMs : Nat := 11000000

end Sys2Proof.Config
end

