-- ==== Sys2Proof/Machine/Tab.lean ====
section
/-! DEFINITION. Sparse tables: lists of (key, value) with keys strictly rising. In the canonical form no entry
equals what an unlisted key reads as, so equal tables are equal data. Memory is such a table of bytes. -/

namespace Sys2Proof.Machine

/-- A sparse table. -/
abbrev Tab (α : Type) := List (Nat × α)

/-- The value at a key; `d` where the table lists none. -/
def tget {α : Type} (d : α) : Tab α → Nat → α
  | [], _ => d
  | (k, v) :: t, n => if n = k then v else tget d t n

/-- Write an entry, keeping the keys rising. -/
def tput {α : Type} : Tab α → Nat → α → Tab α
  | [], n, v => [(n, v)]
  | (k, w) :: t, n, v =>
    if n = k then (n, v) :: t else if n < k then (n, v) :: (k, w) :: t else (k, w) :: tput t n v

/-- Remove the entry of a key. -/
def tdel {α : Type} : Tab α → Nat → Tab α
  | [], _ => []
  | (k, w) :: t, n => if n = k then tdel t n else (k, w) :: tdel t n

/-- Write a value, keeping the canonical form for the default `d`. -/
def tset {α : Type} [DecidableEq α] (d : α) (t : Tab α) (n : Nat) (v : α) : Tab α :=
  if v = d then tdel t n else tput t n v

/-- Every key of the table lies above `lo`, and the keys rise. -/
def tabove {α : Type} (lo : Nat) : Tab α → Bool
  | [] => true
  | (k, _) :: t => decide (lo < k) && tabove k t

/-- The keys rise strictly. -/
def trising {α : Type} : Tab α → Bool
  | [] => true
  | (k, _) :: t => tabove k t

/-- The canonical form: keys strictly rising, and no entry equal to the default. -/
def twf {α : Type} [DecidableEq α] (d : α) (t : Tab α) : Bool :=
  trising t && t.all fun e => decide (e.2 ≠ d)

/-- Apply a function to the value of every listed key. -/
def tmap {α : Type} (f : Nat → α → α) (t : Tab α) : Tab α := t.map fun e => (e.1, f e.1 e.2)

/-- The keys listed. -/
def tkeys {α : Type} (t : Tab α) : List Nat := t.map (·.1)

end Sys2Proof.Machine
end

