-- ==== Sys2Proof/Machine/FabricState.lean ====
section
/-! DEFINITION. The state of tiles, regions and partitions (R23, R39, R40, R114 to R116, R160 to R162, R170, R252
to R258, R266), and what is on its way inside the fabric. -/

namespace Sys2Proof.Machine

/-- A 512-bit value with its byte poison and the origin of the poison (R141; the origin is laid out as in R339). -/
structure Line where
  bits : Vec
  pois : BitVec 64
  org : Word
  deriving DecidableEq, Repr

/-- All zero, no poison. -/
def Line.zero : Line := ⟨0, 0, 0⟩

/-- A token sent to a region, which freezes it at the end of the cycle (R45, R335): the record's CAUSE, ORIGIN, SINK,
DETAIL and AUX. -/
structure Token where
  cause : Nat
  origin : Word
  sink : Word
  detail : Nat
  aux : Word
  deriving DecidableEq, Repr

/-- Where a delivery on its way inside a tile ends (R137, R165, R167, R168, R172). -/
inductive Dest where
  /-- a vector register of a station -/
  | vreg (st : Nat) (r : Nat)
  /-- a mask register -/
  | kreg (k : Nat)
  | pin
  | pout
  | aout
  /-- feed row n of the vat -/
  | feed (n : Nat)
  /-- a drive of a lane at a ring position; the value then travels (R74) -/
  | lane (l pos : Nat)
  /-- the line that arrives at a stream port -/
  | port (p : Nat)
  /-- a bank line -/
  | bank (b line : Nat)
  /-- the closing of the slot at index x of pond p, a sluice slot or one whose last line is written (R161, R175, R181): the
  rate set, the stamp -/
  | close (p x : Nat) (sluice : Bool) (nrs swz fmt : Nat)
  /-- a poison sink met when the write is due (R141) -/
  | sink (t : Token)
  deriving DecidableEq, Repr

/-- A delivery: the region cycle it is due in (unfrozen cycles, R142), its place, its value, the bytes it writes. -/
structure Deliv where
  at_ : Nat
  dst : Dest
  line : Line
  mask : BitVec 64
  deriving DecidableEq, Repr

/-- An address generator (R170): image, image latched at AGGO, run-state word. -/
structure Gen where
  img : BitVec 128
  lat : BitVec 128
  run : Word
  deriving DecidableEq, Repr

def Gen.zero : Gen := ⟨0, 0, 0⟩

/-- A pond descriptor: table entry (R252), committed and working indices (R160), rate monitor (R266). -/
structure Pond where
  entry : Word
  cr : BitVec 32
  cw : BitVec 32
  wr : BitVec 32
  ww : BitVec 32
  mon : Word
  deriving DecidableEq, Repr

def Pond.zero : Pond := ⟨0, 0, 0, 0, 0, 0⟩

/-- A remote write pointer (R162, R259): the producer's output pond, consumer tile and pond, its table entry, indices,
the producer's stamp. -/
structure RPtr where
  valid : Bool
  spond : Nat
  tile : Nat
  pond : Nat
  entry : Word
  swz : Nat
  fmt : Nat
  work : BitVec 32
  comm : BitVec 32
  deriving DecidableEq, Repr

def RPtr.zero : RPtr := ⟨false, 0, 0, 0, 0, 0, 0, 0, 0⟩

/-- A 2,048-bit column image with a poison bit for each byte and the origin of each poisoned byte (R119, R134). -/
structure Col where
  bits : BitVec 2048
  pois : BitVec 256
  orgs : Tab Word
  deriving DecidableEq, Repr

def Col.zero : Col := ⟨0, 0, []⟩

/-- The origin of the first poisoned byte, 0 where there is none. -/
def Col.org (c : Col) : Word := (c.orgs.head?.map (·.2)).getD 0

/-- What the vat takes from the feed rows at an MXFEED (R125): the image, which rows were delivered, the header, the
scale words of its blocks, the poison of those words, the depth and the interval of the column (R118). -/
structure Fed where
  img : Col
  rows : BitVec 4
  hdr : Word
  scales : List (BitVec 32)
  spois : List Word
  kc : Nat
  cyc : Nat
  deriving DecidableEq, Repr

/-- Accumulators and B buffers: what R31 saves. Cells are keyed 1,024 × acc + 32 × row + column; B slots
32 × buffer + slot. -/
structure VatCore where
  acc : Tab (BitVec 32)
  /-- origin of the poison of each marked cell -/
  accPois : Tab Word
  /-- cells whose mod-3 residue mismatches (R134) -/
  resid : List Nat
  accst : Tab Word
  bbuf : Tab Col
  deriving DecidableEq, Repr

def VatCore.empty : VatCore := ⟨[], [], [], [], []⟩

/-- A pair instruction of the west partner under way (R130, R133). -/
inductive PairOp where
  /-- MXPAIR of the west partner -/
  | bind
  /-- MXSOLO of the west partner -/
  | unbind
  /-- MXFEED of the west partner: its accumulator, FIRST and B slot, the accumulators it acts on, the column it decoded,
  whether the vat found a fault, the origin of such a fault, the vat before and after the column -/
  | feed (acc : Nat) (first : Bool) (slot : Nat) (accs : List Nat) (fed : Fed) (bad : Bool) (org : Word)
      (before after : VatCore)
  /-- MXPAIR or MXSOLO of both partners, not usable yet -/
  | met (on : Bool)
  /-- MXPAIR or MXSOLO of the east partner alone -/
  | missed
  deriving DecidableEq, Repr

/-- The rest of a vat (R115, R116). `hdr` holds hd0 to hd3 at 0 to 3, FH at 4, SH at 5, the buffer headers at 6 and 7;
an unlisted header has VLIM 0x1F. `scl` holds the feed scale store at 0 and the stationary one at 512. -/
structure VatCtl where
  vatst : Word
  hdr : Tab Word
  scl : Tab (BitVec 32)
  sclPois : Tab Word
  /-- pair instructions of the west partner under way, the oldest first, each with its region cycle -/
  pend : List (Nat × PairOp)
  deriving DecidableEq, Repr

def VatCtl.zero : VatCtl := ⟨0, [], [], [], []⟩

/-- What a tile records at the first cycle of a firing (R142, R180). -/
structure TileStart where
  vmode0 : BitVec 32
  vmode1 : BitVec 32
  scale : BitVec 32
  rngkey : BitVec 128
  dropthr : Word
  tap0 : BitVec 8
  tap1 : BitVec 8
  gens : Tab Gen
  /-- the copy of R31 in the shadow store, when one was made -/
  vat : Option VatCore
  vatst : Word
  /-- poison of the scale words: the rerun of a killed firing writes the words, but over a poisoned one it could not (R135,
  R136) -/
  sclPois : Tab Word
  deriving DecidableEq, Repr

def TileStart.zero : TileStart := ⟨0, 0, 0, 0, 0, 0, 0, [], none, 0, []⟩

/-- A tile (R39). Banks are keyed 1,536 × bank + line, slots 256 × pond + slot, remote pointers 32 × port + pond,
vector registers 12 × station + register. -/
structure Tile where
  v : Tab Line
  k : Tab Word
  vmode0 : BitVec 32
  vmode1 : BitVec 32
  tap0 : BitVec 8
  tap1 : BitVec 8
  rngkey : BitVec 128
  scale : BitVec 32
  dropthr : Word
  /-- the immediate latch, when an FL word has executed in this iteration (R55) -/
  imm : Option (Nat × Word)
  gens : Tab Gen
  ponds : Tab Pond
  slots : Tab Word
  /-- slots already read in this firing: 2^32 × pond + index -/
  seen : List Nat
  /-- slots that a writer has begun in this firing and that have not left STAGED: 256 × pond + slot (R161) -/
  staged : List Nat
  /-- slots of timeline output ponds drained in this frame: 256 × pond + slot (R265) -/
  drained : List Nat
  rptr : Tab RPtr
  vat : VatCore
  vctl : VatCtl
  banks : Tab Vec
  /-- bank lines with an uncorrectable error (R275) -/
  bankUe : List Nat
  /-- bank lines with one bit in error, which reads correct (R275), and corrections not yet counted -/
  bankCe : List Nat
  ceReads : Nat
  /-- the 256 KiB shadow store: its lines (R276) -/
  shadow : Tab (Option Vec)
  /-- the vat state that its first 512 lines hold, where no line says otherwise (R31) -/
  shadowVat : Option VatCore
  /-- lines of the shadow store with an uncorrectable error, and with one bit in error (R379) -/
  shUe : List Nat
  shCe : List Nat
  /-- mask registers with a parity error, 8 standing for the immediate latch (R379) -/
  kUe : List Nat
  dels : List Deliv
  start : TileStart
  deriving DecidableEq, Repr

def Tile.zero : Tile where
  v := []
  k := []
  vmode0 := 0
  vmode1 := 0
  tap0 := 0
  tap1 := 0
  rngkey := 0
  scale := 0
  dropthr := 0
  imm := none
  gens := []
  ponds := []
  slots := []
  seen := []
  staged := []
  drained := []
  rptr := []
  vat := VatCore.empty
  vctl := VatCtl.zero
  banks := []
  bankUe := []
  bankCe := []
  ceReads := 0
  shadow := []
  shadowVat := none
  shUe := []
  shCe := []
  kUe := []
  dels := []
  start := TileStart.zero

/-- What a tile keeps when its other state goes: banks, generator key, shadow store (R39). -/
def Tile.vacate (T : Tile) : Tile :=
  { Tile.zero with rngkey := T.rngkey, banks := T.banks, bankUe := T.bankUe, bankCe := T.bankCe, shadow := T.shadow,
                   shadowVat := T.shadowVat, shUe := T.shUe, shCe := T.shCe, ceReads := T.ceReads }

/-- The 512 lines that a vat state fills in a shadow store: the spec gives no layout (R31; log entry 100). -/
opaque vatLine : VatCore → Nat → Vec

/-- A line of the shadow store. -/
def Tile.shadowLine (T : Tile) (i : Nat) : Vec :=
  match tget none T.shadow i with
  | some v => v
  | none => match T.shadowVat with
    | some a => if i < 512 then vatLine a i else 0
    | none => 0

/-- The vat state goes into the first 32 KiB of the shadow store. -/
def Tile.saveVat (T : Tile) : Tile :=
  { T with shadow := T.shadow.filter fun e => decide (512 ≤ e.1), shadowVat := some T.vat,
           shUe := T.shUe.filter (512 ≤ ·), shCe := T.shCe.filter (512 ≤ ·) }

/-- A line is read and a line is written: a mark of the first goes with its value to the second place, whose own goes. -/
def moveMark (k i : Nat) (own other : List Nat) : List Nat :=
  let rest := own.filter (· ≠ k)
  if other.any (· == i) then rest ++ [k] else rest

/-- Bank lines and the lines of the shadow store from number i on change places; what is uncorrectable stays so, and one
bit in error is corrected (R275, R276, R379). -/
def Tile.exchange (T : Tile) : List Nat → Nat → Tile
  | [], _ => T
  | k :: ks, i =>
    Tile.exchange { T with
      banks := tset 0 T.banks k (T.shadowLine i)
      shadow := tset none T.shadow i (some (tget 0 T.banks k))
      bankUe := moveMark k i T.bankUe T.shUe
      shUe := moveMark i k T.shUe T.bankUe
      ceReads := T.ceReads + (T.bankCe.filter (· == k)).length + (T.shCe.filter (· == i)).length
      bankCe := T.bankCe.filter (· ≠ k)
      shCe := T.shCe.filter (· ≠ i) } ks (i + 1)

/-- A read of a bank line: one with a single bit in error is corrected, and the correction counts (R275). -/
def Tile.noteRead (T : Tile) (b l : Nat) : Tile :=
  if T.bankCe.any (· == 1536 * b + l) then { T with ceReads := T.ceReads + 1 } else T

/-- A bank line takes a value, and with it sound check bits. -/
def Tile.putLine (T : Tile) (k : Nat) (v : Vec) : Tile :=
  { T with banks := tset 0 T.banks k v
           bankUe := T.bankUe.filter (· ≠ k)
           bankCe := T.bankCe.filter (· ≠ k) }

/-- A route of a page (R258) resolved to absolute places (R259): the 128-bit entry, the producing and the consumer
tile, whether resolved, the cycles of its path, and how far it has sent. -/
structure Route where
  raw : BitVec 128
  prod : Nat
  cons : Nat
  resolved : Bool
  hops : Nat
  /-- slots and lines of the current slot already sent in this superstep -/
  sent : Nat
  line : Nat
  /-- working and committed write index of an arc endpoint, and the slot count of its consumer pond (R259, R264) -/
  work : BitVec 32
  comm : BitVec 32
  slots : Nat
  deriving DecidableEq, Repr

/-- Permits granted by TWPRM, held with the firing (R176), and, once passed at the weir, the permits the TWE held
before. -/
structure Grant where
  tile : Nat
  twe : Nat
  pond : Nat
  drain : Bool
  n : Nat
  before : Option Nat
  deriving DecidableEq, Repr

/-- A tile image that TWEs write to its destinations, one line a cycle (R300): from which cycle, the lines, the next line
index, the destinations (tile, pond, slot index), the stamp. -/
structure TweJob where
  from_ : Nat
  lines : List Line
  line : Nat
  dests : List (Nat × Nat × Nat)
  swz : Nat
  fmt : Nat
  deriving DecidableEq, Repr

/-- A drain tile under way (R300): its shape record, its TWE, the lines read from its slot (none for a permit miss), the
WRs done. -/
structure Drain where
  shape : Nat
  twe : Nat
  lines : Option (List Line)
  done : Nat
  deriving DecidableEq, Repr

/-- The kind of a firing (R270). -/
inductive FKind where
  | normal
  | sluice
  /-- no firing is running (between frames, or killed) -/
  | idle
  deriving DecidableEq, Repr

/-- A region (R11, R40) and the page it runs (R22, R23). -/
structure Region where
  /-- a page is placed -/
  placed : Bool
  part : Nat
  actor : Nat
  page : Nat
  serial : Nat
  w : Nat
  h : Nat
  hdr : BitVec 128
  rows : Tab W80
  /-- row-store words with an uncorrectable error: 32 × tile row + word (R351, R379) -/
  rowUe : List Nat
  /-- row-store words with one bit in error, which a fetch corrects (R379) -/
  rowCe : List Nat
  rates : Tab Byte
  routes : List Route
  /-- range entries that the page has locked, and those its sink writes (R286) -/
  locks : List Nat
  sinks : List Nat
  /-- row counter: iteration, position in the schedule, schedule, bubbles left, last word issued -/
  iter : Nat
  pos : Nat
  sel : Bool
  nextSel : Option Bool
  bub : Nat
  ended : Bool
  endAt : Option Nat
  /-- words handed east: row and iteration selected in the last cycles, the newest first -/
  sels : List (Option (Nat × Nat))
  /-- cycles in which the region was not frozen -/
  rcyc : Nat
  done : Bool
  frozen : Bool
  /-- the freeze accepted the rate check (R267) -/
  rateOk : Bool
  phase : Nat
  rset : Nat
  stage : Nat
  condq : List Bool
  /-- conditions that KEDGE delivers to the queue in this region cycle (R174) -/
  kedges : List (Nat × Bool)
  disc : Nat
  tokens : List Token
  sealed : Bool
  pendSet : Nat
  kind : FKind
  grants : List Grant
  /-- killed in this frame, so that nothing retires and the firing reruns -/
  killed : Bool
  /-- cycles of the communication superstep in which the region was not frozen -/
  ccyc : Nat
  /-- retired or killed in this frame (R20) -/
  fin : Bool
  /-- frozen at frame cycle 0, so that it classifies and checks its arcs again (R260) -/
  recheck : Bool
  /-- firing-start record: condition queue (R32) -/
  startCond : List Bool
  /-- firings that have retired since the page was placed -/
  fired : Nat
  /-- fills under way, drains under way, WRs held while the region is frozen (channel, step entry), range entries that the
  firing has written (R287, R300) -/
  jobs : List TweJob
  drains : List Drain
  heldWr : List (Nat × BitVec 128)
  wrote : List Nat
  deriving DecidableEq, Repr

def Region.zero : Region where
  placed := false
  part := 0
  actor := 0
  page := 0
  serial := 0
  w := 1
  h := 1
  hdr := 0
  rows := []
  rowUe := []
  rowCe := []
  rates := []
  routes := []
  locks := []
  sinks := []
  iter := 0
  pos := 0
  sel := false
  nextSel := none
  bub := 0
  ended := true
  endAt := none
  sels := []
  rcyc := 0
  done := false
  frozen := false
  rateOk := false
  phase := 0
  rset := 0
  stage := 0
  condq := []
  kedges := []
  disc := 0
  tokens := []
  sealed := false
  pendSet := 0
  kind := .idle
  grants := []
  killed := false
  ccyc := 0
  fin := false
  recheck := false
  startCond := []
  fired := 0
  jobs := []
  drains := []
  heldWr := []
  wrote := []

end Sys2Proof.Machine
end

