-- ==== Sys2Proof/Machine/ThreadState.lean ====
section
/-! DEFINITION. The state of a control thread (R33, R34, R41, R183 to R187) and of what it waits for. -/

namespace Sys2Proof.Machine

/-- The four kinds of control thread (R33). -/
inductive Kind where
  | service
  | runAhead
  | handler
  | cellar
  deriving DecidableEq, Repr

/-- What a thread that is held waits for (R184): an instruction whose effect is not complete. -/
inductive Wait where
  /-- FENCE: earlier loads (acq), earlier accesses (rel), at a scope -/
  | fence (acq rel : Bool) (scope : Nat)
  | seqw (d : Nat) (chain : Nat) (target : Word) (deadline : Option Nat)
  | tlwt (d : Nat) (idx : Nat) (target : Word) (deadline : Option Nat)
  | waitev (d : Nat) (mask : Nat) (until_ : Word)
  | condset (v : Bool)
  | iterwt (d : Nat) (iter : Nat)
  /-- FSTEP: until the stepped thread has run one instruction -/
  | fstep (d : Nat) (target : Nat)
  deriving DecidableEq, Repr

/-- What a thread does (R34, R206, R347). -/
inductive TStatus where
  /-- no thread: a free context, a run-ahead unit with no page, a stopped cellar core -/
  | none
  /-- an idle run-ahead thread or an ended one -/
  | idle
  | running
  | waiting (w : Wait)
  | frozen
  deriving DecidableEq, Repr

/-- The reply to a load: a value, or the cause that it raises. -/
inductive Reply where
  | ok (v : BitVec 128)
  | bad (cause : Nat)
  deriving DecidableEq, Repr

/-- An outstanding load, AMO or CAS (R183): its destination, its place, and the reply once it has come. -/
structure PLoad where
  id : Nat
  d : Nat
  sz : Nat
  signed : Bool
  ea : Word
  pa : Nat
  pc : Word
  /-- the earliest read instant that the issue allows (R238) -/
  lo : Nat
  acq : Bool
  scope : Nat
  /-- a read of the register window, or an atomic: the reply is the home's -/
  atomic : Bool
  /-- its home has taken it and answered without fault; the value is still to come (R183; log entry 98) -/
  clean : Bool
  /-- the value of an atomic once its home has performed it -/
  val : Option (BitVec 128)
  /-- the reply has come: a value, or a cause -/
  got : Option Reply
  deriving DecidableEq, Repr

/-- A control thread. -/
structure Thread where
  kind : Kind
  /-- the take-over thread of cellar-B is of kind C as well (R186) -/
  takeover : Bool
  status : TStatus
  part : Nat
  priv : Nat
  nest : Nat
  regs : Tab Word
  h : Tab Word
  htag : Tab Bool
  pc : Word
  code : Tab W80
  codeLen : Nat
  /-- indices of code words with an uncorrectable error (R351, R379) -/
  codeUe : List Nat
  /-- code words with one bit in error, which a fetch corrects (R379) -/
  codeCe : List Nat
  /-- registers with a parity error (R379) -/
  regUe : List Nat
  cause : Nat
  faddr : Word
  funit : Word
  lattol : BitVec 32
  loads : List PLoad
  /-- cycle from which a register's result is usable (R184); registers 0 to 35 -/
  ready : Tab Nat
  /-- cycle from which the next instruction may start -/
  nextAt : Nat
  /-- its instruction could not complete when it was last tried (R184) -/
  held : Bool
  /-- cycle from which the divider is free (R184) -/
  divAt : Nat
  /-- what a frozen thread did before, for its resumption -/
  saved : TStatus
  /-- lower bound that the last acquire or fence sets for the read instants of later loads (R238) -/
  acqAt : Nat
  /-- a denied acknowledgement: cause, address, whether a release at DEVICE waits for it; the thread freezes at its
  next instruction that does (R285) -/
  denied : Option (Nat × Word × Bool)
  /-- stepped under FSTEP by this handler (R228) -/
  stepBy : Option Nat
  /-- freeze serial of the record a handler was spawned for -/
  serving : Nat
  /-- task it runs for (R313) -/
  task : Nat
  /-- serial of the firing it stood in when ITERWT or WAITEV began -/
  mark : Nat
  /-- registers and PC at the firing's first cycle, of a run-ahead thread (R32) -/
  startRegs : Tab Word
  startPc : Word
  startStatus : TStatus
  deriving DecidableEq, Repr

/-- An unlisted code word is GUARD (R34, R187). -/
def guardWord : W80 := BitVec.allOnes 80

def Thread.zero : Thread where
  kind := .service
  takeover := false
  status := .none
  part := 0
  priv := 0
  nest := 0
  regs := []
  h := []
  htag := []
  pc := 0
  code := []
  codeLen := 0
  codeUe := []
  codeCe := []
  regUe := []
  cause := 0
  faddr := 0
  funit := 0
  lattol := BitVec.allOnes 32
  loads := []
  ready := []
  nextAt := 0
  held := false
  divAt := 0
  saved := .none
  acqAt := 0
  denied := none
  stepBy := none
  serving := 0
  task := 0
  mark := 0
  startRegs := []
  startPc := 0
  startStatus := .idle

end Sys2Proof.Machine
end

