-- ==== Sys2Proof/Machine/State.lean ====
section
/-! DEFINITION. The state of the package: plain data, holding every piece of state that INVENTORY.md lists, the
reasons a step can stop, and the state right after reset. -/

namespace Sys2Proof.Machine

/-- Why the machine stops. No constructor stands for a fault of the spec: those freeze a unit and the machine goes
on (R334). -/
inductive Fault where
  /-- Raised by a meaning that is executed for a kind of unit that cannot hold its word: a fabric word while the
  executing unit is no tile, a control word while it is no thread. `step` never does this. Safe. -/
  | wrongUnit
  deriving DecidableEq, Repr

/-- Why the model gives no answer. -/
inductive Refusal where
  /-- Raised by an arm of `exec` whose instruction has no meaning yet. Safe. -/
  | notModelled (mnemonic : String)
  deriving DecidableEq, Repr

/-- The unit that executes. -/
inductive Agent where
  | hub
  | thread (t : Nat)
  /-- a tile of a region, the row-store index and the iteration of its word -/
  | tile (r t word iter : Nat)
  deriving DecidableEq, Repr

/-- One turn of the agenda: an input, a control thread's next instruction, a slot of a tile's word (M, V, S as 0, 1, 2;
an FL word, NOP or GUARD is its slot 0), the parts of a cycle that execute no instruction, and the events that come about
in the package, each with the operands of its opcode-table row. -/
inductive Turn where
  | event (i : Instr)
  | thread (t : Nat)
  | slot (r t word iter which : Nat)
  | regionTick (r : Nat)
  | regionSelect (r : Nat)
  | regionEnd (r : Nat)
  | partTick (p : Nat)
  | channel (c : Nat)
  -- memory
  | reply (t n ext : Nat)
  | clear (t n : Nat)
  | take (t : Nat)
  | home (id : Nat)
  | ack (id : Nat)
  | fence (t : Nat)
  | seqw (t : Nat)
  | seqwOut (t : Nat)
  | waitev (t : Nat)
  | tlwt (t : Nat)
  | tlwtOut (t : Nat)
  | condset (t : Nat)
  | iterwt (t : Nat)
  | fold (p n : Nat)
  -- frames
  | popCond (r : Nat)
  | firingDone (r : Nat)
  | weir (p : Nat)
  | comm (p : Nat)
  | retire (p : Nat)
  | frame (p : Nat)
  | arcOut (p : Nat)
  | drainlim (p : Nat)
  | killYield (p : Nat)
  | ckptYield (p : Nat)
  | heatYield (p : Nat)
  | restore (p : Nat)
  -- the rest
  | windowOut (p n : Nat)
  | testDone (c : Nat)
  | refresh (c : Nat)
  | watchdog (c : Nat)
  | takeover
  | spawn (die : Nat)
  | grant (serial : Nat)
  | poolFull (serial : Nat)
  | report (serial : Nat)
  | copyStart (p e : Nat)
  | copyDone (p e : Nat)
  | resend (id : Nat)
  | giveUp (id : Nat)
  | service (id : Nat)
  | repair (port lane : Nat)
  | retrained (port : Nat)
  | refill
  -- what the surroundings do: a host write of memory, of the recovery buffer, an error of a memory cell
  | hostWrite (link part pa : Nat) (data : List Byte)
  | hostRead (link part pa n : Nat)
  | recWrite (off : Nat) (data : List Byte)
  | barWrite (link off : Nat) (v : Word)
  | barRead (link off : Nat)
  | upset (kind unit key : Nat)
  -- inputs that wait for their turn: held by link credit, behind an earlier line, for their channel (R359, R364)
  | line (l : LineIn)
  | arcRec (l : LineIn) (abort : Bool)
  | credit (l : LineIn)
  | request (l : LineIn)
  | atomic (l : LineIn) (queue sz op : Nat)
  | block (b : BlockIn)
  deriving DecidableEq, Repr

/-- The agent of an access to off-core memory (R231). -/
inductive Master where
  | thread (t : Nat)
  | engine (chain : Nat)
  | twe (id : Nat)
  | remote (src : Nat)
  | hub
  /-- a host link -/
  | host (link : Nat)
  /-- the endpoint of a cross-package arc: partition, arc (R262) -/
  | arc (part arc : Nat)
  deriving DecidableEq, Repr

/-- What a write does at its home (R237, R241). -/
inductive WKind where
  | store
  /-- an AMO: the operation of R62, and the load entry its old value answers -/
  | amo (op : Nat) (load : Nat)
  | cas (expect : BitVec 128) (load : Nat) (ford : Bool)
  /-- a timeline counter update on another package (R209) -/
  | tlsig (counter : Nat) (add : Bool)
  /-- the data stage of a copy entry: source address and length (R304) -/
  | copy (chain src : Nat)
  /-- traffic of an arc endpoint: 0 a line, 1 a sluice marker, 2 a commit, 3 an abort, 4 a credit (R262, R264) -/
  | arc (what line : Nat)
  deriving DecidableEq, Repr

/-- A write or atomic that has been issued and is not yet acknowledged (R237). -/
structure PWrite where
  id : Nat
  by_ : Master
  part : Nat
  pa : Nat
  ea : Word
  len : Nat
  data : List Byte
  kind : WKind
  ord : Nat
  scope : Nat
  performed : Bool
  /-- the cause of a denial that the acknowledgement carries; 0 for none (R285, R297, R359) -/
  deny : Nat
  /-- answered RETRY_LATER: the cycle it is sent again in (R363) -/
  retryAt : Option Nat
  /-- the cycle it was issued in (R359) -/
  issued : Nat
  /-- the sequence number, ciphertext and tag that its line keeps once it has been sent (R358) -/
  sealed_ : List Nat
  /-- tag failures that its destination has reported (R359) -/
  fails : Nat
  /-- that a gateway holds it has been counted (R364) -/
  counted : Bool
  deriving DecidableEq, Repr

/-- A byte changed at its home: where, what it held before, when, by whom (for the read instants of R238). -/
structure HistEntry where
  at_ : Nat
  pa : Nat
  old : Byte
  by_ : Master
  deriving DecidableEq, Repr

/-- The unit of a freeze (R340). -/
inductive FUnit where
  | region (r : Nat)
  | rau (r : Nat)
  | handler (t : Nat)
  | service (t : Nat)
  | cellar (c : Nat)
  | chain (c : Nat)
  | remote (src : Nat)
  | partition (p : Nat)
  deriving DecidableEq, Repr

/-- A frozen unit with its record (R337 to R350). -/
structure Freeze where
  serial : Nat
  unit : FUnit
  part : Nat
  die : Nat
  /-- the eight words of the record -/
  rec_ : List Word
  cause : Nat
  at_ : Nat
  nest : Nat
  /-- the pool entry the record stands in, once granted -/
  entry : Option Nat
  handler : Option Nat
  spent : Bool
  reported : Bool
  /-- the capability was dropped and the record is back at the head of its queue (R229) -/
  dropped : Bool
  /-- 1: reported at HEND and passed over until REDISPATCH; 2: no handler section, never dispatched (R347) -/
  pass : Nat
  deriving DecidableEq, Repr

/-- What a partition's frame engine is doing (R17 to R20). -/
inductive PStage where
  /-- no graph -/
  | idle
  /-- frame start pending: the checks of R260 hold frame cycle 0 -/
  | arcWait
  | compute
  /-- the weir window, cycles left -/
  | weir (left : Nat)
  | comm
  /-- retired; the next frame starts in this cycle -/
  | boundary
  /-- held at a yield point: swapped out, or frozen by a thermal state -/
  | held
  deriving DecidableEq, Repr

/-- A running graph (R212, R268, R320). -/
structure Graph where
  image : Nat
  /-- the address of the accepted image it was launched from, which an edit of the image table leaves alone (R311) -/
  pa : Nat
  /-- the task that it runs, 0 where no task of the work pool was launched -/
  task : Nat
  serial : Nat
  queue : Nat
  launched : Nat
  token : Nat
  frames : Nat
  argBlock : Nat
  nrates : Nat
  regions : List Nat
  decl : Option GraphDecl
  /-- each actor's phase count -/
  phases : List Nat
  deriving DecidableEq, Repr

/-- A sluice in progress (R217, R269). -/
structure Sluice where
  rset : Nat
  frame : Nat
  injected : Bool
  deriving DecidableEq, Repr

/-- A fill tile in an assembly buffer (R300): its shape record, its pieces, the entry of its LAST step while a piece is
held for repair. -/
structure AsmTile where
  shape : Nat
  pieces : Tab Line
  last : Option (BitVec 128)
  deriving DecidableEq, Repr

/-- An operand-cache slot (R300, R301): its tag (HANDLE, GEN, ORGROW, ORGCOL) and its eight lines. -/
structure CacheSlot where
  tag : Nat × Nat × Nat × Nat
  lines : List Line
  deriving DecidableEq, Repr

def CacheSlot.zero : CacheSlot := ⟨(0, 0, 0, 0), []⟩

/-- A tile-walk engine (R176, R299 to R302): permits keyed by tile, pond and kind, the assembly buffer and operand cache,
the record cache, locked translations. -/
structure Twe where
  permits : Tab Nat
  asm : List AsmTile
  cache : Tab CacheSlot
  /-- VA and bytes -/
  recs : List (Nat × List Byte)
  /-- locked translations: region, VA base, size, PA base, rights (R286) -/
  xlat : List (Nat × Nat × Nat × Nat × Nat)
  deriving DecidableEq, Repr

def Twe.zero : Twe := ⟨[], [], [], [], []⟩

/-- A partition (R12, R17, R320 to R325). -/
structure Part where
  stage : PStage
  fc : Nat
  fm : Nat
  /-- compiled frame cycle within the current stage -/
  fcyc : Nat
  /-- cycles of pause still to run in this superstep (R295) -/
  pause : Nat
  /-- 1 + the compiled cycle of the last repair slot used in this frame -/
  repairs : Nat
  arcLen : Nat
  /-- this frame has been counted as held by an arc wait (R260) -/
  arcHeld : Bool
  /-- the first cycle in which a launched graph's frame 0 may start (log entry 31) -/
  notBefore : Nat
  frame : Nat
  trem : Nat
  graph : Option Graph
  sluice : Option Sluice
  rset : Nat
  /-- the request that waits for a yield point: 1 EVAL, 2 kill, 3 checkpoint (R323, R324) -/
  req : Option Nat
  /-- NEWTOK of a waiting EVAL -/
  newtok : Nat
  /-- the last choice: 0 none, 1 drain, 2 kill, 3 checkpoint -/
  choice : Nat
  /-- a drained victim's limit -/
  drainAt : Option Nat
  /-- a request held behind a freeze: REQ and NEWTOK (R352) -/
  preheld : Option (Nat × Nat)
  restorePend : Bool
  /-- the final retirement is held by a full end queue (R320) -/
  endHeld : Bool
  /-- sink generations and translations in force for this frame: entry, PLIVE, PSHD, GEN (R247) -/
  locked : List (Nat × Word × Word × Word)
  /-- the swapped context: regions, tiles and threads of the partition as they were -/
  swapRegions : Tab Region
  swapTiles : Tab Tile
  swapThreads : Tab Thread
  swapTwes : Tab Twe
  /-- FRAME, TREM, FC, FM and rate set of the swapped graph -/
  swapNums : List Nat
  swapGraph : Option Graph
  /-- a sluice that it had accepted and not yet placed (R269) -/
  swapSluice : Option Sluice
  /-- edge events 3, 4 and 8 of WAITEV -/
  events : Nat
  /-- those that came in the present cycle -/
  fresh : Nat
  thermal : Bool
  deriving DecidableEq, Repr

def Part.zero : Part where
  stage := .idle
  fc := 0
  fm := 0
  fcyc := 0
  pause := 0
  repairs := 0
  arcLen := 0
  arcHeld := false
  notBefore := 0
  frame := 0
  trem := 0
  graph := none
  sluice := none
  rset := 0
  req := none
  newtok := 0
  choice := 0
  drainAt := none
  preheld := none
  restorePend := false
  endHeld := false
  locked := []
  swapRegions := []
  swapTiles := []
  swapThreads := []
  swapTwes := []
  swapNums := []
  swapGraph := none
  swapSluice := none
  events := 0
  fresh := 0
  thermal := false

/-- An entry of a copy-engine chain that has been linked (R199, R303): its address, its number, who linked it. -/
structure ChainEntry where
  va : Word
  num : Word
  by_ : Nat
  deriving DecidableEq, Repr

/-- A copy-engine chain (R199, R303 to R306): chain 16 × partition + engine. -/
structure Chain where
  seq : Word
  tail : Word
  last : Word
  ctl : Word
  entries : List ChainEntry
  /-- the entry that moves its lines, when one does -/
  busy : Bool
  halted : Bool
  frozen : Bool
  split : Nat
  /-- the STATUS with which the entry fails, until it can be written -/
  ending : Option Nat
  /-- the first watchpoint match of the entry: VA, watchpoint, matched writes (R353) -/
  watch : Option (Word × Nat × Nat)
  deriving DecidableEq, Repr

def Chain.zero : Chain := ⟨0, 0, 0, 0, [], false, false, false, 0, none, none⟩

/-- A timeline read whose CRC failed, held for a repair slot (R295): when it was detected, the TWE, the step entry, the
parts of its piece: address and length. -/
structure HeldRead where
  at_ : Nat
  twe : Nat
  step : BitVec 128
  parts : List (Nat × Nat)
  /-- the bytes of the line when it was read, as a repair delivers them, and whether its check line corrects it (R246) -/
  data : List Byte
  err : Nat
  deriving DecidableEq, Repr

/-- An HBM channel (R289 to R297, R394, R395). -/
structure Chan where
  steps : List (BitVec 128)
  records : List Word
  retreatSteps : List (BitVec 128)
  retreatRecords : List Word
  part : Nat
  retreat : Bool
  pos : Nat
  open_ : Tab Nat
  held : List HeldRead
  /-- a training test under way: 1 read, 2 write -/
  test : Nat
  /-- stores deferred while a test runs: storing thread, register, value (R395) -/
  deferred : List (Nat × Nat × Word)
  /-- the cycle the running test ends in -/
  testEnd : Nat
  /-- what stood at the GO: direction, bank, row, bursts, seed (R395) -/
  latch : List Nat
  /-- dynamic requests are served before this cycle (OPEN, R291) -/
  openUntil : Nat
  /-- cycles of the REF records of the last 256 ms, the cycle the retreat timeline has run from, and whether some window
  has missed its count since the last RD (R293) -/
  refs : List Nat
  refFrom : Option Nat
  refMiss : Bool
  deriving DecidableEq, Repr

def Chan.zero : Chan := ⟨[], [], [], [], 0, false, 0, [], [], 0, [], 0, [], 0, [], none, false⟩

/-- A runoff window (R360 to R362): 8 × partition + window. -/
structure Window where
  filled : List Nat
  deadline : Option Nat
  armed : Bool
  deriving DecidableEq, Repr

def Window.zero : Window := ⟨[], none, false⟩

/-- A Byiraer port (R355, R359, R365, R366). -/
structure Port where
  /-- cycles of the CRC errors of each lane -/
  errs : Tab (List Nat)
  /-- the lane under repair and the cycle the repair began in -/
  repair : Option (Nat × Nat)
  /-- lines sent here that wait for a port change or a repair: identifiers of writes -/
  waiting : List Nat
  deriving DecidableEq, Repr

def Port.zero : Port := ⟨[], none, []⟩

/-- A key slot (R358, R378). -/
structure KeySlot where
  cur : Option (BitVec 768)
  prev : Option (BitVec 768)
  seq : Nat
  deriving DecidableEq, Repr

def KeySlot.zero : KeySlot := ⟨none, none, 0⟩

/-- What the tag area holds of a line of HBM that came from another package (R358): key slot, source, sequence number, tag,
and the ciphertext that the tag covers. -/
structure Cipher where
  slot : Nat
  src : Nat
  seq : Nat
  tag : BitVec 64
  data : BitVec 1024
  deriving DecidableEq, Repr

/-- An ordered line that has arrived and not passed: its check failed and its replay is awaited, or it is held by link
credit (R249, R359, R364). -/
structure RxWait where
  src : Nat
  dst : Nat
  vc : Nat
  seq : Nat
  arc : Option Nat
  at_ : Nat
  /-- that a gateway holds it has been counted -/
  counted : Bool
  deriving DecidableEq, Repr

/-- A task entry of the cellar's work pool (R307, R312 to R316, R327): its serial, its queue, the copy of its record,
whether the record was refused. -/
structure Task where
  id : Nat
  queue : Nat
  rec_ : List Byte
  refused : Bool
  /-- its dependence counter has reached zero, or it has none -/
  ready : Bool
  /-- the timeline waits not yet met: counter and threshold (R314) -/
  waits : List (Nat × Word)
  /-- its service thread runs, or its graph was launched -/
  started : Bool
  /-- how a service task ended (R313) -/
  ended : Option Nat
  /-- it has ended and counts no longer in the REFS of its version (R311) -/
  released : Bool
  /-- its rerun waits for COLD_RUN (R372) -/
  cold : Bool
  /-- GEN of the range entry of each working-set descriptor when the record was read (R307, R313) -/
  gens : List Nat
  deriving DecidableEq, Repr

/-- The state of a package. -/
structure State where
  -- the model's own
  free : Nat
  cur : Agent
  agenda : List Turn
  inbox : List (Nat × Turn)
  outbox : List (List Nat)
  irqs : List Nat
  hist : List HistEntry
  nextId : Nat
  -- package and memory
  now : Nat
  mem : List Host.Cell
  win : Tab Word
  writes : List PWrite
  cipher : Tab (Option Cipher)
  /-- HBM lines whose CRC fails, and whether the check line corrects them (R295) -/
  hbmErr : Tab Nat
  -- units
  threads : Tab Thread
  rr : Tab Nat
  tiles : Tab Tile
  regions : Tab Region
  parts : Tab Part
  chains : Tab Chain
  twes : Tab Twe
  chans : Tab Chan
  windows : Tab Window
  ports : Tab Port
  keys : Tab KeySlot
  gwAllow : Tab Nat
  /-- the last read index received from the consumer of an arc, keyed by 4096 × partition + arc (R264) -/
  credits : Tab Word
  /-- tag failures of an ordered line: source and sequence number (R359) -/
  tagFails : List (Nat × Nat × Nat)
  /-- lines that later lines of their source and virtual channel wait for -/
  rx : List RxWait
  /-- for a source and virtual channel, keyed by 4 × source + channel, the next sequence number under each of the latest keys:
  an earlier one has been performed (R359) -/
  rxSeq : Tab (List (BitVec 768 × Nat))
  /-- arcs, as 4096 × partition + arc, with a line given up at its consumer here (R359) -/
  arcBad : List Nat
  /-- arcs with a line of the present firing given up at its producer here: the commit is withheld (R359) -/
  arcLost : List Nat
  /-- route entries: the port that lines sent before a change of PORT still use (R357) -/
  oldPort : Tab Nat
  -- hub
  counters : Tab Word
  deps : Tab (BitVec 32)
  depTask : Tab Nat
  tasks : List Task
  /-- queues from which a record was read since their kick bit was last cleared (R310) -/
  qread : List Nat
  /-- queues that the host has kicked in the present cycle (R214) -/
  kicked : List Nat
  events : Nat
  /-- edge events that came in the present cycle: the next cycle finds them pending (R207) -/
  fresh : Nat
  launchSerial : Nat
  freezeSerial : Nat
  taskSerial : Nat
  journalSerial : Nat
  watchdog : Tab Nat
  freezes : List Freeze
  heldAcc : List PWrite
  /-- accepted images, by the address they stand at (R72, R311) -/
  images : Tab ImageDecl
  /-- a CURPA stored to a sealed image entry, until CURVER is stored (R311) -/
  stagedPa : Tab Nat
  folds : List (Nat × Nat)
  /-- a SNAP that holds writes at translation: thread, partition, entry (R248) -/
  snaps : List (Nat × Nat × Nat)
  /-- Ts of a pinned entry, keyed by 64 × partition + entry (R248) -/
  snapAt : Tab Nat
  remap : Tab Word
  repairRec : Tab Word
  -- thermal, power, boot
  settle : Nat
  powerState : Nat
  powered : Bool
  flash : List Byte
  recovery : List Byte
  recoveryWait : Bool
  /-- accesses of the host that met a Completer Abort (R285) -/
  hostAborts : Nat
  fuseVersion : Nat
  xmssIndex : Nat
  /-- digests, each with its image-table index; the firmware's own first (R377) -/
  measLog : List (BitVec 256 × Nat)
  /-- boot has not yet led to a thermal state (R372) -/
  booting : Bool
  /-- security version of the firmware that runs (R376) -/
  svn : Nat
  /-- hottest sensor at the start of the 60 s window (R373) -/
  cdHot : Nat
  /-- samples taken in that window -/
  cdSamples : Nat
  /-- the cycle a flash write under way ends in (R375) -/
  flashEnd : Nat
  deriving DecidableEq, Repr

namespace State

/-- The machine right after reset: nothing placed, nothing running, the boot ROM about to run (R375; log entry 21). -/
def reset : State where
  free := 0
  cur := .hub
  agenda := [.event .powerOnReset]
  inbox := []
  outbox := []
  irqs := []
  hist := []
  nextId := 0
  now := 0
  mem := []
  win := []
  writes := []
  cipher := []
  hbmErr := []
  threads := []
  rr := []
  tiles := []
  regions := []
  parts := []
  chains := []
  twes := []
  chans := []
  windows := []
  ports := []
  keys := []
  gwAllow := []
  credits := []
  tagFails := []
  rx := []
  rxSeq := []
  arcBad := []
  arcLost := []
  oldPort := []
  counters := []
  deps := []
  depTask := []
  tasks := []
  qread := []
  kicked := []
  events := 0
  fresh := 0
  launchSerial := 0
  freezeSerial := 0
  taskSerial := 0
  journalSerial := 0
  watchdog := []
  freezes := []
  heldAcc := []
  images := []
  stagedPa := []
  folds := []
  snaps := []
  snapAt := []
  remap := []
  repairRec := []
  settle := 0
  powerState := 0
  powered := true
  flash := []
  recovery := []
  recoveryWait := false
  hostAborts := 0
  fuseVersion := 0
  xmssIndex := 0
  measLog := []
  booting := true
  svn := 0
  cdHot := 0
  cdSamples := 0
  flashEnd := 0

def thread (s : State) (t : Nat) : Thread := tget Thread.zero s.threads t
def setThread (s : State) (t : Nat) (x : Thread) : State := { s with threads := tset Thread.zero s.threads t x }
def tile (s : State) (t : Nat) : Tile := tget Tile.zero s.tiles t
def setTile (s : State) (t : Nat) (x : Tile) : State := { s with tiles := tset Tile.zero s.tiles t x }
def region (s : State) (r : Nat) : Region := tget Region.zero s.regions r
def setRegion (s : State) (r : Nat) (x : Region) : State := { s with regions := tset Region.zero s.regions r x }
def part (s : State) (p : Nat) : Part := tget Part.zero s.parts p
def setPart (s : State) (p : Nat) (x : Part) : State := { s with parts := tset Part.zero s.parts p x }

end State

end Sys2Proof.Machine
end

