-- ==== Sys2Proof/Machine/Num.lean ====
section
/-! DEFINITION. Number formats and exact arithmetic (R78 to R101, R105 to R108, R110, R111): decoded values, one
rounding function for every format and mode, IEEE operations on decoded values, the functions of R144, and the
Plohan generator. -/

namespace Sys2Proof.Machine

/-! ## Values -/

/-- A decoded value: NaN, an infinity, or (-1)^neg × mag × 2^exp. -/
inductive FVal where
  | nan
  | inf (neg : Bool)
  | fin (neg : Bool) (mag : Nat) (exp : Int)
  deriving DecidableEq, Repr

/-- What a floating format does beyond its finite values (R80, R83, R96). -/
inductive Specials where
  | ieee
  | e4m3
  | none
  deriving DecidableEq, Repr

/-- A floating format: exponent bits, stored mantissa bits, bias, zero bits below the mantissa (F19), specials. -/
structure Fmt where
  ebits : Nat
  mbits : Nat
  bias : Int
  low : Nat
  specials : Specials
  deriving DecidableEq, Repr

namespace Fmt

def fp64 : Fmt := ⟨11, 52, 1023, 0, .ieee⟩
def fp32 : Fmt := ⟨8, 23, 127, 0, .ieee⟩
def f19 : Fmt := ⟨8, 10, 127, 13, .ieee⟩
def bf16 : Fmt := ⟨8, 7, 127, 0, .ieee⟩
def fp16 : Fmt := ⟨5, 10, 15, 0, .ieee⟩
def e4m3 : Fmt := ⟨4, 3, 7, 0, .e4m3⟩
def e5m2 : Fmt := ⟨5, 2, 15, 0, .ieee⟩
def e2m3 : Fmt := ⟨2, 3, 1, 0, .none⟩
def e3m2 : Fmt := ⟨3, 2, 3, 0, .none⟩
def e2m1 : Fmt := ⟨2, 1, 1, 0, .none⟩

def width (f : Fmt) : Nat := 1 + f.ebits + f.mbits + f.low
/-- Exponent of the least significant bit of the smallest subnormal. -/
def qmin (f : Fmt) : Int := 1 - f.bias - f.mbits
/-- Largest biased exponent field of a finite value. -/
def emax (f : Fmt) : Nat := match f.specials with
  | .ieee => 2 ^ f.ebits - 2
  | _ => 2 ^ f.ebits - 1
/-- Largest mantissa field at the largest exponent (E4M3 keeps all ones for NaN, R83). -/
def mmax (f : Fmt) : Nat := match f.specials with
  | .e4m3 => 2 ^ f.mbits - 2
  | _ => 2 ^ f.mbits - 1
/-- The canonical NaN (R82); 0 where the format has none (R97). -/
def nanBits (f : Fmt) : Nat := match f.specials with
  | .ieee => ((2 ^ f.ebits - 1) * 2 ^ f.mbits + 2 ^ (f.mbits - 1)) * 2 ^ f.low
  | .e4m3 => 2 ^ (f.ebits + f.mbits) - 1
  | .none => 0
def signBit (f : Fmt) : Nat := 2 ^ (f.ebits + f.mbits + f.low)
def infBits (f : Fmt) (neg : Bool) : Nat :=
  (2 ^ f.ebits - 1) * 2 ^ f.mbits * 2 ^ f.low + if neg then f.signBit else 0
def maxBits (f : Fmt) (neg : Bool) : Nat :=
  (f.emax * 2 ^ f.mbits + f.mmax) * 2 ^ f.low + if neg then f.signBit else 0

/-- The value of a pattern (R80 to R83). -/
def decode (f : Fmt) (bits : Nat) : FVal :=
  let b := bits / 2 ^ f.low
  let m := b % 2 ^ f.mbits
  let e := b / 2 ^ f.mbits % 2 ^ f.ebits
  let neg := b / 2 ^ (f.ebits + f.mbits) % 2 = 1
  if f.specials = .ieee ∧ e = 2 ^ f.ebits - 1 then (if m = 0 then .inf neg else .nan)
  else if f.specials = .e4m3 ∧ e = 2 ^ f.ebits - 1 ∧ m = 2 ^ f.mbits - 1 then .nan
  else if e = 0 then .fin neg m f.qmin
  else .fin neg (2 ^ f.mbits + m) (f.qmin + (e - 1 : Int))

end Fmt

/-- Rounding modes (R90): 0 RNE, 1 RTZ, 2 RUP, 3 RDN, 4 RNA, 5 SR; the reserved codes act as SR (log entry 110). -/
inductive RMode where
  | rne | rtz | rup | rdn | rna | sr
  deriving DecidableEq, Repr

def RMode.ofCode : Nat → RMode
  | 0 => .rne | 1 => .rtz | 2 => .rup | 3 => .rdn | 4 => .rna | _ => .sr

/-- A magnitude mag × 2^exp, or strictly between it and (mag + 1) × 2^exp when sticky. -/
structure Approx where
  neg : Bool
  mag : Nat
  exp : Int
  sticky : Bool
  deriving DecidableEq, Repr

/-- What a rounding did, for the flags of R109. -/
structure Rounded where
  bits : Nat
  nx : Bool
  uf : Bool
  ovf : Bool
  deriving DecidableEq, Repr

def bitLen (n : Nat) : Nat := if n = 0 then 0 else Nat.log2 n + 1

/-- Round the magnitude to a whole number of units 2^q (R94): the count of units, and whether it is inexact. -/
def roundUnits (x : Approx) (q : Int) (mode : RMode) (draw : Nat) : Nat × Bool :=
  -- more bits below the unit, so that a sticky value lies inside one step of the draw
  let up := if x.sticky then 64 + (max 0 (x.exp - q)).toNat else (max 0 (x.exp - q)).toNat
  let mag := x.mag * 2 ^ up
  let exp := x.exp - up
  let sh := (q - exp).toNat
  let a := mag / 2 ^ sh
  let r := mag % 2 ^ sh
  let inexact := decide (r ≠ 0) || x.sticky
  let twice := 2 * r
  let whole := 2 ^ sh
  let aboveHalf := decide (twice > whole) || (decide (twice = whole) && x.sticky)
  let tie := decide (twice = whole) && !x.sticky
  let inc := match mode with
    | .rne => aboveHalf || (tie && decide (a % 2 = 1))
    | .rna => aboveHalf || tie
    | .rtz => false
    | .rup => inexact && !x.neg
    | .rdn => inexact && x.neg
    | .sr => inexact && decide (draw < 2 ^ 32 * r / whole)
  (if inc then a + 1 else a, inexact)

/-- The result of an overflow (R96). -/
def overflowBits (f : Fmt) (neg : Bool) (mode : RMode) (sat : Bool) : Nat :=
  let toMax := match mode with
    | .rtz => true
    | .rup => neg
    | .rdn => !neg
    | _ => false
  if sat || toMax || f.specials = .none then f.maxBits neg
  else if f.specials = .e4m3 then f.nanBits else f.infBits neg

/-- round(x, fmt, mode) of a nonzero approximated magnitude (R94, R96). -/
def roundApprox (f : Fmt) (mode : RMode) (sat : Bool) (draw : Nat) (x : Approx) : Rounded :=
  let lead : Int := (bitLen x.mag : Int) - 1 + x.exp
  let q := max (lead - f.mbits) f.qmin
  let (a, nx) := roundUnits x q mode draw
  -- a may have become 2^(mbits + 1)
  let (a, q) := if a = 2 ^ (f.mbits + 1) then (2 ^ f.mbits, q + 1) else (a, q)
  let e : Int := if a < 2 ^ f.mbits then 0 else q - f.qmin + 1
  let m := if a < 2 ^ f.mbits then a else a - 2 ^ f.mbits
  let big := decide (e > f.emax) || (decide (e = f.emax) && decide (m > f.mmax))
  -- tininess after rounding with an unbounded exponent range (R109)
  let (ua, _) := roundUnits x (lead - f.mbits) mode draw
  let tiny := decide (bitLen ua + (lead - f.mbits) ≤ f.mbits + f.qmin)
  if big then ⟨overflowBits f x.neg mode sat, true, false, true⟩
  else ⟨(e.toNat * 2 ^ f.mbits + m) * 2 ^ f.low + (if x.neg then f.signBit else 0), nx, nx && tiny, false⟩

/-- round of a decoded value into a floating format (R94, R96, R97). A format with no negative zero, or none at
all, is decided by its caller. -/
def roundF (f : Fmt) (mode : RMode) (sat : Bool) (draw : Nat) : FVal → Rounded
  | .nan => ⟨f.nanBits, false, false, false⟩
  | .inf neg =>
    if f.specials = .ieee then ⟨f.infBits neg, false, false, false⟩
    else if f.specials = .e4m3 ∧ !sat then ⟨f.nanBits, false, false, false⟩
    else ⟨f.maxBits neg, false, false, false⟩
  | .fin neg 0 _ => ⟨if neg then f.signBit else 0, false, false, false⟩
  | .fin neg mag exp => roundApprox f mode sat draw ⟨neg, mag, exp, false⟩

/-! ## Exact operations under IEEE 754-2019 (R93, R144) -/

/-- The integer a finite value is at a common exponent not above its own. -/
def FVal.atExp (neg : Bool) (mag : Nat) (exp base : Int) : Int :=
  let n : Int := mag * 2 ^ (exp - base).toNat
  if neg then -n else n

/-- The sign of an exact zero sum of values that cancel: minus under RDN (IEEE 754-2019), else plus. -/
def zeroSign (mode : RMode) : Bool := mode = .rdn

def FVal.neg : FVal → FVal
  | .nan => .nan
  | .inf n => .inf (!n)
  | .fin n m e => .fin (!n) m e

def FVal.abs : FVal → FVal
  | .nan => .nan
  | .inf _ => .inf false
  | .fin _ m e => .fin false m e

/-- a + b, exact; the sign of an exact zero follows IEEE under the mode. -/
def FVal.add (mode : RMode) : FVal → FVal → FVal
  | .nan, _ => .nan
  | _, .nan => .nan
  | .inf a, .inf b => if a = b then .inf a else .nan
  | .inf a, _ => .inf a
  | _, .inf b => .inf b
  | .fin na ma ea, .fin nb mb eb =>
    if ma = 0 ∧ mb = 0 then .fin (if na = nb then na else zeroSign mode) 0 0
    else
      let e := min ea eb
      let s := FVal.atExp na ma ea e + FVal.atExp nb mb eb e
      if s = 0 then .fin (zeroSign mode) 0 0 else .fin (decide (s < 0)) s.natAbs e

/-- a × b, exact. -/
def FVal.mul : FVal → FVal → FVal
  | .nan, _ => .nan
  | _, .nan => .nan
  | .inf a, .inf b => .inf (a != b)
  | .inf a, .fin nb mb _ => if mb = 0 then .nan else .inf (a != nb)
  | .fin na ma _, .inf b => if ma = 0 then .nan else .inf (na != b)
  | .fin na ma ea, .fin nb mb eb => .fin (na != nb) (ma * mb) (ea + eb)

/-- An exact value, or a nonzero magnitude known to lie strictly inside an interval. -/
inductive XVal where
  | exact (v : FVal)
  | near (x : Approx)
  deriving DecidableEq, Repr

/-- Round an exact or an approximated value once. -/
def XVal.round (f : Fmt) (mode : RMode) (sat : Bool) (draw : Nat) : XVal → Rounded
  | .exact v => roundF f mode sat draw v
  | .near x => roundApprox f mode sat draw x

/-- A quotient of magnitudes with enough bits for every format and draw. -/
def quotApprox (neg : Bool) (n d : Nat) (e : Int) : XVal :=
  let k := 160 + bitLen d
  let q := n * 2 ^ k / d
  if n * 2 ^ k % d = 0 then .exact (.fin neg q (e - k)) else .near ⟨neg, q, e - k, true⟩

/-- a ÷ b (IEEE 754-2019). -/
def FVal.div : FVal → FVal → XVal
  | .nan, _ => .exact .nan
  | _, .nan => .exact .nan
  | .inf _, .inf _ => .exact .nan
  | .inf a, .fin nb _ _ => .exact (.inf (a != nb))
  | .fin na _ _, .inf b => .exact (.fin (na != b) 0 0)
  | .fin na ma ea, .fin nb mb eb =>
    if mb = 0 then (if ma = 0 then .exact .nan else .exact (.inf (na != nb)))
    else if ma = 0 then .exact (.fin (na != nb) 0 0)
    else quotApprox (na != nb) ma mb (ea - eb)

/-- √a (IEEE 754-2019: √−0 = −0, negative operands NaN). -/
def FVal.sqrt : FVal → XVal
  | .nan => .exact .nan
  | .inf neg => .exact (if neg then .nan else .inf false)
  | .fin neg mag exp =>
    if mag = 0 then .exact (.fin neg 0 0)
    else if neg then .exact .nan
    else
      let (m, e) := if exp % 2 = 0 then (mag, exp) else (mag * 2, exp - 1)
      let k : Nat := 160
      let r := Nat.sqrt (m * 2 ^ (2 * k))
      if r * r = m * 2 ^ (2 * k) then .exact (.fin false r (e / 2 - (k : Int)))
      else .near ⟨false, r, e / 2 - (k : Int), true⟩

/-- 1 ÷ √a, with the special results of R144. -/
def FVal.rsqrt : FVal → XVal
  | .nan => .exact .nan
  | .inf neg => .exact (if neg then .nan else .fin false 0 0)
  | .fin neg mag exp =>
    if mag = 0 then .exact (.inf neg)
    else if neg then .exact .nan
    else
      -- 1/√(m·2^e) with e even is √(2^(2k)/m) · 2^(-k - e/2)
      let (m, e) := if exp % 2 = 0 then (mag, exp) else (mag * 2, exp - 1)
      let k : Nat := 200 + bitLen m
      let r := Nat.sqrt (2 ^ (2 * k) / m)
      if r * r * m = 2 ^ (2 * k) then .exact (.fin false r (-(k : Int) - e / 2))
      else .near ⟨false, r, -(k : Int) - e / 2, true⟩

/-- A lower bound of 2^f × 2^prec for a fraction f = num / 2^prec in [0, 1), and a bound of what it misses: square
roots of 2 are multiplied in, bit by bit, each rounded down. -/
def exp2Frac (prec : Nat) : Nat → Nat → Nat → Nat → Nat
  | 0, _, _, acc => acc
  | n + 1, num, root, acc =>
    -- the next bit of the fraction has weight of this root: root = ⌊2^(2^-i) · 2^prec⌋
    let bit := num / 2 ^ (prec - 1) % 2
    let acc := if bit = 1 then acc * root / 2 ^ prec else acc
    exp2Frac prec n (num * 2 % 2 ^ prec) (Nat.sqrt (root * 2 ^ prec)) acc

/-- Working precision of VEXP2 in fraction bits (log entry 11). -/
def exp2Prec : Nat := 1300

/-- 2^a, with the special results of R144: exact at integers, else a magnitude inside a narrow interval (log
entry 11). -/
def FVal.exp2 : FVal → XVal
  | .nan => .exact .nan
  | .inf neg => .exact (if neg then .fin false 0 0 else .inf false)
  | .fin neg mag exp =>
    if mag = 0 then .exact (.fin false 1 0)
    else if bitLen mag + exp > 20 then
      -- beyond every format: overflow or underflow, decided by the rounding
      .near ⟨false, 1, if neg then -1000000 else 1000000, true⟩
    else
      let p := exp2Prec
      let v : Int := if neg then -(mag : Int) else mag
      -- the operand as an integer number of 2^-p, exact since exp ≥ -1074
      let fx : Int := v * 2 ^ (exp + p).toNat
      let n := fx / 2 ^ p
      let fr := (fx % 2 ^ p).toNat
      if fr = 0 then .exact (.fin false 1 n)
      else
        let pp := p + 64
        let m := exp2Frac pp p (fr * 2 ^ 64) (Nat.sqrt (2 * 2 ^ (2 * pp))) (2 ^ pp)
        -- the errors of p roundings stay below 2^12 units: drop them and 20 bits more
        .near ⟨false, m / 2 ^ 32, n - (pp - 32 : Nat), true⟩

/-- Bits of log2 of m / 2^prec in [1, 2): repeated squaring. -/
def log2Frac (prec : Nat) : Nat → Nat → Nat → Nat
  | 0, _, acc => acc
  | n + 1, m, acc =>
    let s := m * m / 2 ^ prec
    if s ≥ 2 ^ (prec + 1) then log2Frac prec n (s / 2) (2 * acc + 1) else log2Frac prec n s (2 * acc)

/-- log2 a, with the special results of R144: exact at powers of two, else inside a narrow interval (log entry 11). -/
def FVal.log2 : FVal → XVal
  | .nan => .exact .nan
  | .inf neg => .exact (if neg then .nan else .inf false)
  | .fin neg mag exp =>
    if mag = 0 then .exact (.inf true)
    else if neg then .exact .nan
    else
      let l := Nat.log2 mag
      let n : Int := l + exp
      if mag = 2 ^ l then .exact (.fin (decide (n < 0)) n.natAbs 0)
      else
        let k : Nat := 320
        let prec : Nat := 800
        let fr := log2Frac prec k (mag * 2 ^ (prec - l)) 0
        let v : Int := n * 2 ^ k + fr
        if v ≥ 0 then .near ⟨false, v.toNat, -(k : Int), true⟩
        else .near ⟨true, (-v - 1).toNat, -(k : Int), true⟩

/-- Comparison of decoded values: none when a NaN takes part; −0 equals +0 (R146). -/
def FVal.cmp : FVal → FVal → Option Ordering
  | .nan, _ => none
  | _, .nan => none
  | .inf a, .inf b => some (if a = b then .eq else if a then .lt else .gt)
  | .inf a, .fin _ _ _ => some (if a then .lt else .gt)
  | .fin _ _ _, .inf b => some (if b then .gt else .lt)
  | .fin na ma ea, .fin nb mb eb =>
    let e := min ea eb
    some (compare (FVal.atExp na ma ea e) (FVal.atExp nb mb eb e))

/-- The sign of a zero or finite value, for −0 < +0 (R144). -/
def FVal.signed : FVal → Bool
  | .nan => false
  | .inf n => n
  | .fin n _ _ => n

/-- minimumNumber of IEEE 754-2019 (R144). -/
def FVal.minNum (a b : FVal) : FVal :=
  match FVal.cmp a b with
  | some .lt => a
  | some .gt => b
  | some .eq => if a.signed then a else b
  | none => if a = .nan then b else a

/-- maximumNumber of IEEE 754-2019 (R144). -/
def FVal.maxNum (a b : FVal) : FVal :=
  match FVal.cmp a b with
  | some .lt => b
  | some .gt => a
  | some .eq => if a.signed then b else a
  | none => if a = .nan then b else a

/-- Round to an integer under a mode (R98): infinities and NaN are the caller's. -/
def roundInt (mode : RMode) (draw : Nat) (neg : Bool) (mag : Nat) (exp : Int) : Int :=
  let (a, _) := roundUnits ⟨neg, mag, exp, false⟩ 0 mode draw
  if neg then -(a : Int) else a

/-! ## Integers -/

/-- The value of a w-bit pattern. -/
def intOf (signed : Bool) (w n : Nat) : Int :=
  let m : Int := (n % 2 ^ w : Nat)
  if signed ∧ m ≥ 2 ^ (w - 1) then m - 2 ^ w else m

def intMin (signed : Bool) (w : Nat) : Int := if signed then -(2 ^ (w - 1)) else 0
def intMax (signed : Bool) (w : Nat) : Int := if signed then 2 ^ (w - 1) - 1 else 2 ^ w - 1

/-- Low w bits of an integer. -/
def patOf (w : Nat) (v : Int) : Nat := (v % (2 ^ w : Nat)).toNat

def clampInt (signed : Bool) (w : Nat) (v : Int) : Int := max (intMin signed w) (min (intMax signed w) v)

/-- The pattern of an exact integer result under SAT (R98). -/
def fitInt (signed sat : Bool) (w : Nat) (v : Int) : Nat :=
  patOf w (if sat then clampInt signed w v else v)

/-! ## Element types (R91) -/

/-- What an element type holds. -/
inductive EKind where
  | flt (f : Fmt)
  | int (signed : Bool)
  deriving DecidableEq, Repr

structure EType where
  code : Nat
  kind : EKind
  w : Nat
  deriving DecidableEq, Repr

/-- Element types by code (R91); the reserved codes act as INT64 (log entry 110). -/
def EType.ofCode : Nat → EType
  | 0 => ⟨0, .flt .fp32, 32⟩
  | 1 => ⟨1, .flt .fp64, 64⟩
  | 2 => ⟨2, .flt .bf16, 16⟩
  | 3 => ⟨3, .flt .fp16, 16⟩
  | 4 => ⟨4, .flt .f19, 32⟩
  | 5 => ⟨5, .int true, 32⟩
  | 6 => ⟨6, .int false, 32⟩
  | 7 => ⟨7, .int true, 16⟩
  | 8 => ⟨8, .int false, 16⟩
  | 9 => ⟨9, .int true, 8⟩
  | 10 => ⟨10, .int false, 8⟩
  | _ => ⟨11, .int true, 64⟩

/-- Elements in a 512-bit register. -/
def EType.n (t : EType) : Nat := 512 / t.w

def EType.isFlt (t : EType) : Bool := match t.kind with
  | .flt _ => true
  | .int _ => false

/-- The value an element stands for as a decoded number. -/
def EType.val (t : EType) (bits : Nat) : FVal :=
  match t.kind with
  | .flt f => f.decode bits
  | .int s => let v := intOf s t.w bits; .fin (decide (v < 0)) v.natAbs 0

/-- Convert an exact value into an element (R97, R98): the pattern and what the rounding did. -/
def EType.ofX (t : EType) (mode : RMode) (sat : Bool) (draw : Nat) (x : XVal) : Rounded :=
  match t.kind with
  | .flt f => x.round f mode sat draw
  | .int s =>
    match x with
    | .exact .nan => ⟨0, false, false, false⟩
    | .exact (.inf neg) => ⟨patOf t.w (if neg then intMin s t.w else intMax s t.w), true, false, true⟩
    | .exact (.fin neg mag exp) =>
      let v := roundInt mode draw neg mag exp
      let c := clampInt s t.w v
      ⟨patOf t.w c, (roundUnits ⟨neg, mag, exp, false⟩ 0 mode draw).2, false, decide (c ≠ v)⟩
    | .near y =>
      let (a, _) := roundUnits y 0 mode draw
      let v : Int := if y.neg then -(a : Int) else a
      let c := clampInt s t.w v
      ⟨patOf t.w c, true, false, decide (c ≠ v)⟩

def EType.ofF (t : EType) (mode : RMode) (sat : Bool) (draw : Nat) (v : FVal) : Nat :=
  (t.ofX mode sat draw (.exact v)).bits

/-! ## The Plohan generator (R111) -/

def plohanRound (c0 c1 q0 q1 : Nat) : Nat × Nat :=
  let p := c0 * 0xB5297A4D
  (((p / 2 ^ 32) ^^^ c1) ^^^ q0, (p % 2 ^ 32) ^^^ q1)

def plohanLoop : Nat → Nat → Nat → Nat → Nat → Nat
  | 0, c0, _, _, _ => c0
  | n + 1, c0, c1, q0, q1 =>
    let (d0, d1) := plohanRound c0 c1 q0 q1
    plohanLoop n d0 d1 ((q0 + 0x68E31DA4) % 2 ^ 32) ((q1 + 0x1B56C4E9) % 2 ^ 32)

/-- plohan(c0, c1, q0, q1) (R111). -/
def plohan (c0 c1 q0 q1 : Nat) : Nat :=
  plohanLoop 4 (c0 % 2 ^ 32) (c1 % 2 ^ 32) (q0 % 2 ^ 32) (q1 % 2 ^ 32)

end Sys2Proof.Machine
end

