-- ==== Sys2Proof/Machine/Operands.lean ====
section
/-! DEFINITION. Operand forms of the fabric (R47 to R53, R55, R74, R75, R137 to R141): where a word executes, what its
operand codes, lanes, masks and latches hold in its cycle, and how a result is delivered. -/

namespace Sys2Proof.Machine

/-- Where and when a word executes in a tile: tile key (64 × row + column), region, row-store index, iteration of the
word, the region's iteration counter, region cycle, compiled frame cycle, the region's north-west tile and its size in
tiles, whether the firing is a sluice firing. -/
structure FabCtx where
  t : Nat
  r : Nat
  word : Nat
  iter : Nat
  riter : Nat
  cyc : Nat
  fcyc : Nat
  west : Nat
  w : Nat
  h : Nat
  sluice : Bool
  deriving DecidableEq, Repr

/-- Slots of an origin (R339). -/
def slotWord : Nat := 0
def slotM : Nat := 1
def slotV : Nat := 2
def slotS : Nat := 3

/-- An ORIGIN or SINK word (R339). -/
def originWord (t word slot cause fcyc : Nat) : Word :=
  BitVec.ofNat 64 (pack [(6, t % 64), (5, t / 64), (5, word), (3, slot), (5, 0), (8, cause), (21, fcyc)])

def FabCtx.origin (c : FabCtx) (slot cause : Nat) : Word := originWord c.t c.word slot cause c.fcyc

/-- OCAUSE of an origin. -/
def ocause (o : Word) : Nat := bitsOf o.toNat 24 8

/-- A token that goes directly to the region (R45): SINK equals ORIGIN. -/
def FabCtx.direct (c : FabCtx) (slot cause : Nat) : Token :=
  ⟨cause, c.origin slot cause, c.origin slot cause, 0, 0⟩

/-- A token of a poison sink (R141, R351): the cause the poison carries, its origin, the sink's place and kind. -/
def FabCtx.sinkTok (c : FabCtx) (slot : Nat) (org : Word) (kind : Nat) (delay : Nat := 0) : Token :=
  ⟨ocause org, org, originWord c.t c.word slot (ocause org) (c.fcyc + delay), kind, 0⟩

/-- Sink kinds of R351. -/
def skPond : Nat := 1
def skStt : Nat := 2
def skGen : Nat := 3
def skTwe : Nat := 4
def skHbm : Nat := 5
def skRemote : Nat := 6
def skK : Nat := 7
def skVat : Nat := 8
def skAgld : Nat := 9

/-! ## Ring positions (R75) -/

def posBank (b : Nat) : Nat := 2 * b
def posVat : Nat := 1
def posStation (st : Nat) : Nat := 3 + 2 * st
def posPort (p : Nat) : Nat := 7 + 2 * p

/-- Position of a lane value n hops from where it was driven: lanes 0 to 3 run clockwise, 4 to 7 anticlockwise. -/
def lanePos (l p0 n : Nat) : Nat := if l < 4 then (p0 + n) % 16 else (p0 + 16 - n % 16) % 16

/-- The value on a lane at a ring position in a cycle (R74): it leaves the lane after 8 hops. -/
def laneAt (ds : List Deliv) (l pos cyc : Nat) : Option Line :=
  match ds with
  | [] => none
  | d :: ds =>
    match d.dst with
    | .lane l' p0 =>
      if l' = l ∧ d.at_ ≤ cyc ∧ cyc - d.at_ ≤ 8 ∧ lanePos l p0 (cyc - d.at_) = pos then some d.line
      else laneAt ds l pos cyc
    | _ => laneAt ds l pos cyc

/-- The value that a latch, a feed row or a port holds in a cycle, and in that cycle only (R137). -/
def latchAt (ds : List Deliv) (w : Dest) (cyc : Nat) : Option Line :=
  match ds with
  | [] => none
  | d :: ds => if d.dst = w ∧ d.at_ = cyc then some d.line else latchAt ds w cyc

/-! ## Registers of a tile -/

def Tile.vreg (T : Tile) (st r : Nat) : Line := tget Line.zero T.v (12 * st + r)
/-- k0 reads as all ones (R39). -/
def Tile.kreg (T : Tile) (k : Nat) : Word := if k = 0 then BitVec.allOnes 64 else tget 0 T.k k
/-- A write of k0 has no effect (R39: read only). -/
def Tile.setKreg (T : Tile) (k : Nat) (v : Word) : Tile :=
  if k = 0 then T else { T with k := tset 0 T.k k v, kUe := T.kUe.filter (· ≠ k) }
def Tile.vmode (T : Tile) (st : Nat) : Nat := if st = 0 then T.vmode0.toNat else T.vmode1.toNat
def Tile.tap (T : Tile) (st : Nat) : Nat := if st = 0 then T.tap0.toNat else T.tap1.toNat
def Tile.etype (T : Tile) (st : Nat) : EType := EType.ofCode (bitsOf (T.vmode st) 0 4)
def Tile.rm (T : Tile) (st : Nat) : RMode := RMode.ofCode (bitsOf (T.vmode st) 4 3)
def Tile.sat (T : Tile) (st : Nat) : Bool := decide (bitsOf (T.vmode st) 7 1 = 1)

/-- Bit 0 of a mask register decides a guard (R46). -/
def Tile.guard (T : Tile) (gk : Nat) (ginv : Bool) : Bool := (decide ((T.kreg gk).toNat % 2 = 1)) != ginv

/-- Bit i of an element mask; K = 0 selects every element (R138). -/
def Tile.maskBit (T : Tile) (k i : Nat) : Bool := (T.kreg k).toNat.testBit i

/-- The immediate latch: the PAYLOAD of an FL word of this iteration, else zero (R55). -/
def Tile.immVal (T : Tile) (iter : Nat) : Nat :=
  match T.imm with
  | some (i, v) => if i = iter then v.toNat else 0
  | none => 0

/-- n copies of the low w bits. -/
def replicate (w v : Nat) : Nat → Nat
  | 0 => 0
  | n + 1 => v % 2 ^ w + 2 ^ w * replicate w v n

/-- zimm as elements of width w read it (R55). -/
def zimmLine (p w : Nat) : Line :=
  ⟨BitVec.ofNat 512 (if w = 64 then replicate 64 p 8 else replicate w (p % 2 ^ 32) (512 / w)), 0, 0⟩

/-- The value of an operand code (R50) in station `st` for elements of width w. A lane or latch with nothing in this
cycle reads as zero without poison (R168; log entry 26); an immediate latch with a parity error reads poisoned (R379). -/
def Tile.operand (T : Tile) (c : FabCtx) (st code w : Nat) : Line :=
  if code ≤ 11 then T.vreg st code
  else if code = 12 then (laneAt T.dels (T.tap st % 16) (posStation st) c.cyc).getD Line.zero
  else if code = 13 then (latchAt T.dels .aout c.cyc).getD Line.zero
  else if code = 14 then (latchAt T.dels .pin c.cyc).getD Line.zero
  else
    let l := zimmLine (T.immVal c.iter) w
    if T.imm.isSome && T.kUe.any (· == 8) then ⟨l.bits, BitVec.allOnes 64, c.origin slotV 0x23⟩ else l

/-! ## Elements -/

/-- Element i of width w (R92). -/
def elem (bits w i : Nat) : Nat := bitsOf bits (w * i) w

/-- Whether a byte of element i is poisoned (R141); for widths below a byte, the bytes it lies in. -/
def elemPois (pois w i : Nat) : Bool :=
  let lo := w * i / 8
  let hi := (w * i + w - 1) / 8
  decide (bitsOf pois lo (hi - lo + 1) ≠ 0)

def Line.elem (l : Line) (w i : Nat) : Nat := Machine.elem l.bits.toNat w i
def Line.epois (l : Line) (w i : Nat) : Bool := elemPois l.pois.toNat w i
/-- Poison in bytes [lo + len - 1 : lo]. -/
def Line.bytePois (l : Line) (lo len : Nat) : Bool := decide (bitsOf l.pois.toNat lo len ≠ 0)

/-- Result elements of width w: a pattern and its poison, or nothing for an element not written. -/
structure VOut where
  w : Nat
  els : List (Option (Nat × Bool))
  org : Word
  deriving DecidableEq, Repr

def VOut.bits (w : Nat) : List (Option (Nat × Bool)) → Nat
  | [] => 0
  | e :: es => (match e with | some (v, _) => v % 2 ^ w | none => 0) + 2 ^ w * VOut.bits w es

/-- One bit for each byte of the elements that satisfy a test. -/
def VOut.marks (w : Nat) (f : Option (Nat × Bool) → Bool) : List (Option (Nat × Bool)) → Nat
  | [] => 0
  | e :: es => (if f e then 2 ^ (w / 8) - 1 else 0) + 2 ^ (w / 8) * VOut.marks w f es

def VOut.line (o : VOut) : Line :=
  let p := VOut.marks o.w (fun e => match e with | some (_, b) => b | none => false) o.els
  ⟨BitVec.ofNat 512 (VOut.bits o.w o.els), BitVec.ofNat 64 p, if p = 0 then 0 else o.org⟩

/-- The bytes of the elements written. -/
def VOut.mask (o : VOut) : BitVec 64 := BitVec.ofNat 64 (VOut.marks o.w Option.isSome o.els)

/-! ## Pond table entries (R252) -/

def peValid (e : Word) : Bool := decide (bitsOf e.toNat 0 1 = 1)
def peBank (e : Word) : Nat := bitsOf e.toNat 1 3
def peOffset (e : Word) : Nat := bitsOf e.toNat 4 11
def peSlog (e : Word) : Nat := bitsOf e.toNat 15 4
def peClog (e : Word) : Nat := bitsOf e.toNat 19 4
def peSwz (e : Word) : Nat := bitsOf e.toNat 23 4
def peFmt (e : Word) : Nat := bitsOf e.toNat 27 5
def peInit (e : Word) : Nat := bitsOf e.toNat 32 9
def peDir (e : Word) : Nat := bitsOf e.toNat 41 2
def peKind (e : Word) : Nat := bitsOf e.toNat 43 2
/-- Lines of a slot. -/
def peLines (e : Word) : Nat := 2 ^ (peSlog e - 6)
/-- Slots of the ring. -/
def peCount (e : Word) : Nat := 2 ^ peClog e
/-- The bank line of line l of the slot at index x (R160). -/
def peLine (e : Word) (x l : Nat) : Nat := peOffset e + x % peCount e * peLines e + l

def Tile.pond (T : Tile) (p : Nat) : Pond := tget Pond.zero T.ponds p
def Tile.setPond (T : Tile) (p : Nat) (q : Pond) : Tile := { T with ponds := tset Pond.zero T.ponds p q }

/-- A number added to a list that does not hold it. -/
def addNew (n : Nat) (l : List Nat) : List Nat := if l.any (· == n) then l else l ++ [n]

/-! ## Slot metadata (R255) -/

def slotKey (p x : Nat) (e : Word) : Nat := 256 * p + x % peCount e
def smState (m : Word) : Nat := bitsOf m.toNat 0 2
def smClosed (m : Word) : Bool := decide (bitsOf m.toNat 2 1 = 1)
def smPois (m : Word) : Bool := decide (bitsOf m.toNat 3 1 = 1)
def smSluice (m : Word) : Bool := decide (bitsOf m.toNat 4 1 = 1)
def smNrs (m : Word) : Nat := bitsOf m.toNat 5 3
def smTag (m : Word) : Nat := bitsOf m.toNat 8 16
def smSwz (m : Word) : Nat := bitsOf m.toNat 24 4
def smFmt (m : Word) : Nat := bitsOf m.toNat 28 5
def smSet (m : Word) (lo len v : Nat) : Word := BitVec.ofNat 64 (setBits m.toNat lo len v)

/-- A metadata word of its fields. -/
def smMake (state : Nat) (closed pois sluice : Bool) (nrs tag swz fmt : Nat) : Word :=
  BitVec.ofNat 64 (pack [(2, state), (1, closed.toNat), (1, pois.toNat), (1, sluice.toNat), (3, nrs), (16, tag),
    (4, swz), (5, fmt)])

def Tile.slot (T : Tile) (p x : Nat) : Word := tget 0 T.slots (slotKey p x (T.pond p).entry)
def Tile.setSlot (T : Tile) (p x : Nat) (m : Word) : Tile :=
  { T with slots := tset 0 T.slots (slotKey p x (T.pond p).entry) m }

/-! ## Rate monitors (R266) -/

def monCons (m : Word) : Nat := bitsOf m.toNat 0 10
def monProd (m : Word) : Nat := bitsOf m.toNat 10 10
def monSlfw (m : Word) : Nat := bitsOf m.toNat 20 2
def monRipe (m : Word) : Bool := decide (bitsOf m.toNat 22 1 = 1)
def monSet (m : Word) (lo len v : Nat) : Word := BitVec.ofNat 64 (setBits m.toNat lo len v)
def Pond.countProd (q : Pond) : Pond := { q with mon := monSet q.mon 10 10 (min (monProd q.mon + 1) 1023) }
def Pond.countCons (q : Pond) (n : Nat) : Pond := { q with mon := monSet q.mon 0 10 (min (monCons q.mon + n) 1023) }
def Pond.countSlfw (q : Pond) : Pond := { q with mon := monSet q.mon 20 2 (min (monSlfw q.mon + 1) 3) }

/-- A slot's metadata once it is closed: its tag is its index, its stamp the writer's (R161). -/
def smClose (m : Word) (x swz fmt : Nat) : Word := smSet (smSet (smSet (smSet m 2 1 1) 8 16 x) 24 4 swz) 28 5 fmt

/-- Advance a pond's working write index. -/
def Tile.bumpWrite (T : Tile) (p : Nat) : Tile := T.setPond p { T.pond p with ww := (T.pond p).ww + 1 }

/-- The slot at index x closes: a sluice slot, whose index has moved already, or one whose last line is written, which
counts one token and moves the index (R161, R175). -/
def Tile.closeSlot (T : Tile) (p x : Nat) (sluice : Bool) (nrs swz fmt : Nat) : Tile :=
  if sluice then T.setSlot p x (smMake 1 true (smPois (T.slot p x)) true nrs x swz fmt)
  else
    let T1 := T.setSlot p x (smClose (T.slot p x) x swz fmt)
    (T1.setPond p (T1.pond p).countProd).bumpWrite p

/-! ## Delivering -/

def Tile.send (T : Tile) (at_ : Nat) (dst : Dest) (l : Line) (mask : BitVec 64 := BitVec.allOnes 64) : Tile :=
  { T with dels := T.dels ++ [⟨at_, dst, l, mask⟩] }

/-- Deliver a vector result (R51, R137), to the lane that TAP names in this cycle (log entry 107): in a register the elements not written keep their value, elsewhere they
carry zero (R138). -/
def Tile.emit (T : Tile) (c : FabCtx) (st vd : Nat) (x : Bool) (lat : Nat) (o : VOut) : Tile :=
  if vd ≤ 11 then T.send (c.cyc + lat) (.vreg st vd) o.line o.mask
  else if vd = 12 then
    let l := T.tap st / 16
    if l ≤ 7 then T.send (c.cyc + lat + 1) (.lane l (posStation st)) o.line else T
  else if vd = 13 then T.send (c.cyc + lat) .pout o.line
  else if vd = 14 then T.send (c.cyc + lat) (.feed (2 * st + x.toNat)) o.line
  else T

/-- Deliver a mask register (R137), or meet a poison sink in its place (R141). -/
def Tile.emitK (T : Tile) (c : FabCtx) (slot k lat : Nat) (v : Nat) (pois : Option Word) : Tile :=
  match pois with
  | none => T.send (c.cyc + lat) (.kreg k) ⟨BitVec.ofNat 512 (v % 2 ^ 64), 0, 0⟩
  | some org => T.send (c.cyc + lat) (.sink (c.sinkTok slot org skK lat)) Line.zero

/-- Bytes of `new` where the mask says so, else of `old`. -/
def mergeBytes (old new : Nat) (mask : Nat) : Nat → Nat
  | 0 => 0
  | n + 1 => (if mask % 2 = 1 then new else old) % 256 + 256 * mergeBytes (old / 256) (new / 256) (mask / 2) n

/-- Write the masked bytes of a line over a line; poison follows the bytes, and the origin is that of the bytes written
where they carry poison (R141). -/
def Line.merge (old new : Line) (mask : BitVec 64) : Line :=
  if mask = BitVec.allOnes 64 then new
  else
    let p := (old.pois &&& ~~~mask) ||| (new.pois &&& mask)
    ⟨BitVec.ofNat 512 (mergeBytes old.bits.toNat new.bits.toNat mask.toNat 64), p,
      if p = 0 then 0 else if new.pois &&& mask ≠ 0 then new.org else old.org⟩

/-- One effect of a delivery on the registers, banks and slots of its tile, when it is due. -/
def Tile.land (T : Tile) (d : Deliv) : Tile :=
  match d.dst with
  | .vreg st r =>
    { T with v := tset Line.zero T.v (12 * st + r) ((T.vreg st r).merge d.line d.mask) }
  | .kreg k => T.setKreg k (d.line.bits.setWidth 64)
  | .bank b l => T.putLine (1536 * b + l) d.line.bits
  | .close p x sluice nrs swz fmt => T.closeSlot p x sluice nrs swz fmt
  | _ => T

/-- Whether a delivery lands at the start of a cycle: a bank line at the start of the cycle after its own, so that a read
in the cycle of the write finds the old line (R165, R179, R232), all others in their own. -/
def Deliv.landsAt (cyc : Nat) (d : Deliv) : Bool :=
  match d.dst with
  | .bank _ _ => decide (d.at_ + 1 = cyc)
  | _ => decide (d.at_ = cyc)

/-- Make every register, mask, bank and closing delivery that lands at the start of this cycle. -/
def Tile.landDue (cyc : Nat) : List Deliv → Tile → Tile
  | [], T => T
  | d :: ds, T => Tile.landDue cyc ds (if d.landsAt cyc then T.land d else T)

/-- Tokens of the poison sinks met in this cycle. -/
def dueSinks (cyc : Nat) : List Deliv → List Token
  | [] => []
  | d :: ds =>
    match d.dst with
    | .sink t => if d.at_ = cyc then t :: dueSinks cyc ds else dueSinks cyc ds
    | _ => dueSinks cyc ds

/-- Whether a delivery can still be read or made at or after a cycle. -/
def Deliv.alive (cyc : Nat) (d : Deliv) : Bool :=
  match d.dst with
  | .lane _ _ => decide (cyc ≤ d.at_ + 8)
  | _ => decide (cyc ≤ d.at_)

/-- The start of a cycle in a tile: deliveries due land, spent ones are dropped. -/
def Tile.tick (T : Tile) (cyc : Nat) : Tile :=
  let T' := Tile.landDue cyc T.dels T
  { T' with dels := T.dels.filter (Deliv.alive cyc) }

end Sys2Proof.Machine
end

