-- ==== Sys2Proof/Machine/Flags.lean ====
section
/-! DEFINITION. The sticky flags of an accumulator (R109): NX, UF, OF, NV, SAT as bits 0 to 4. -/

namespace Sys2Proof.Machine

def flNX : Nat := 1
def flUF : Nat := 2
def flOF : Nat := 4
def flNV : Nat := 8
def flSAT : Nat := 16

/-- Both sets of flags. -/
def flOr (a b : Nat) : Nat := Nat.lor a b

/-- NX, UF and OF of one rounding (R109). -/
def Rounded.flags (r : Rounded) : Nat :=
  (if r.nx then flNX else 0) + (if r.uf then flUF else 0) + (if r.ovf then flOF else 0)

/-- NV: a NaN that arose from operands that were not NaN. -/
def nvFlag (operandNan : Bool) (v : FVal) : Nat := if v = .nan ∧ !operandNan then flNV else 0

end Sys2Proof.Machine
end

