-- ==== Sys2Proof/Machine/VecOps.lean ====
section
/-! DEFINITION. Shared operations of the V slot (R137 to R158): element-wise forms, comparison, conversion,
quantisation, reductions and lane operations, each on one tile. A meaning of the V slot is one of these with its
element function. -/

namespace Sys2Proof.Machine

/-! ## Element types that instructions accept (R140) -/

def accFlt (t : EType) : Bool := t.isFlt
def accInt (t : EType) : Bool := !t.isFlt
def accAny (_ : EType) : Bool := true
def accQt (t : EType) : Bool := decide (t.code = 0) || decide (t.code = 2) || decide (t.code = 3) || decide (t.code = 4)
def accMs (t : EType) : Bool := decide (t.code = 0) || decide (t.code = 4) || decide (t.code = 1) || decide (t.code = 5)
def accW32 (t : EType) : Bool := decide (t.code = 0) || decide (t.code = 5) || decide (t.code = 6)
def accPack (t : EType) : Bool :=
  decide (t.code = 7) || decide (t.code = 8) || decide (t.code = 5) || decide (t.code = 6) || decide (t.code = 11)
def accUnpk (t : EType) : Bool := decide (5 ≤ t.code) && decide (t.code ≤ 10)

/-- Latency of the arithmetic of R74: 4, on FP64 6. -/
def latFlt (t : EType) : Nat := if t.code = 1 then 6 else 4

/-- The stations a word runs in (R139). -/
def stations (twin : Bool) (o : VArgs) : List Nat := if twin && o.x then [0, 1] else [o.st.toNat]

/-- Run in each station in turn. -/
def overStations (twin : Bool) (o : VArgs) (f : Nat → Tile → Tile) (T : Tile) : Tile :=
  (stations twin o).foldl (fun T st => f st T) T

/-! ## Random draws (R112) -/

def Tile.key0 (T : Tile) : Nat := bitsOf T.rngkey.toNat 0 32
def Tile.key1 (T : Tile) : Nat := bitsOf T.rngkey.toNat 32 32
def Tile.layer (T : Tile) : Nat := bitsOf T.rngkey.toNat 64 15
def Tile.srbase (T : Tile) : Nat := bitsOf T.rngkey.toNat 80 48

/-- The draw of stochastic rounding for element i of station st. -/
def Tile.srDraw (T : Tile) (c : FabCtx) (st i : Nat) : Nat :=
  plohan (T.srbase % 2 ^ 32 + 64 * c.riter + i) (2 ^ 31 + st * 2 ^ 29 + T.srbase / 2 ^ 32 * 256 + c.word) T.key0 T.key1

/-- The draw where the mode is SR; the other modes use none. -/
def Tile.draw (T : Tile) (c : FabCtx) (st i : Nat) : Nat := if T.rm st = .sr then T.srDraw c st i else 0

/-- The dropout draw of an element with a 48-bit linear index. -/
def Tile.dropDraw (T : Tile) (idx : Nat) : Nat :=
  plohan (idx % 2 ^ 32) (T.layer * 2 ^ 16 + idx / 2 ^ 32 % 2 ^ 16) T.key0 T.key1

/-- Clear what a type does not hold: bits [12:0] of an F19 pattern (R81). -/
def EType.clean (t : EType) (p : Nat) : Nat := if t.code = 4 then p / 2 ^ 13 * 2 ^ 13 else p

/-! ## Results -/

/-- The origin of a result (R141): that of the first operand that contributes poison, else a new one. -/
def pickOrg (fresh : Word) : List (Bool × Word) → Word
  | [] => fresh
  | (b, o) :: r => if b then o else pickOrg fresh r

/-- Elements 0 to n − 1 of a function. -/
def elems (n : Nat) (f : Nat → Option (Nat × Bool)) : List (Option (Nat × Bool)) := (List.range n).map f

def anyPois (n : Nat) (f : Nat → Bool) : Bool := (List.range n).any f

/-- Every unmasked element poison with cause HDR over zero bits (R140). -/
def hdrOut (c : FabCtx) (w n : Nat) (sel : Nat → Bool) : VOut :=
  ⟨w, elems n fun i => if sel i then some (0, true) else none, c.origin slotV 0x16⟩

/-- An element-wise result of one operand (R138, R141). -/
def map1 (T : Tile) (c : FabCtx) (st : Nat) (o : VArgs) (t : EType) (f : Nat → Nat → Nat) : VOut :=
  let a := T.operand c st o.va.toNat t.w
  let m := T.maskBit o.k.toNat
  ⟨t.w, elems t.n fun i => if m i then some (f i (a.elem t.w i), a.epois t.w i) else none,
    pickOrg (c.origin slotV 0) [(anyPois t.n fun i => m i && a.epois t.w i, a.org)]⟩

/-- An element-wise result of two operands. -/
def map2 (T : Tile) (c : FabCtx) (st : Nat) (o : VArgs) (t : EType) (f : Nat → Nat → Nat → Nat) : VOut :=
  let a := T.operand c st o.va.toNat t.w
  let b := T.operand c st o.vb.toNat t.w
  let m := T.maskBit o.k.toNat
  ⟨t.w,
    elems t.n fun i =>
      if m i then some (f i (a.elem t.w i) (b.elem t.w i), a.epois t.w i || b.epois t.w i) else none,
    pickOrg (c.origin slotV 0)
      [(anyPois t.n fun i => m i && a.epois t.w i, a.org), (anyPois t.n fun i => m i && b.epois t.w i, b.org)]⟩

/-- An element-wise result of two operands and the old element of register VD. -/
def map3 (T : Tile) (c : FabCtx) (st : Nat) (o : VArgs) (t : EType) (f : Nat → Nat → Nat → Nat → Nat) : VOut :=
  let a := T.operand c st o.va.toNat t.w
  let b := T.operand c st o.vb.toNat t.w
  let d := T.vreg st o.vd.toNat
  let m := T.maskBit o.k.toNat
  ⟨t.w,
    elems t.n fun i =>
      if m i then
        some (f i (a.elem t.w i) (b.elem t.w i) (d.elem t.w i), a.epois t.w i || b.epois t.w i || d.epois t.w i)
      else none,
    pickOrg (c.origin slotV 0)
      [(anyPois t.n fun i => m i && a.epois t.w i, a.org), (anyPois t.n fun i => m i && b.epois t.w i, b.org),
        (anyPois t.n fun i => m i && d.epois t.w i, d.org)]⟩

/-- One station's run of an instruction that accepts some types: the result, or HDR poison (R140). -/
def vStation (T0 : Tile) (c : FabCtx) (o : VArgs) (acc : EType → Bool) (lat : EType → Nat) (st : Nat)
    (f : EType → VOut) (T : Tile) : Tile :=
  let t := T0.etype st
  T.emit c st o.vd.toNat o.x (lat t)
    (if acc t then f t else hdrOut c t.w t.n (T0.maskBit o.k.toNat))

/-! ## Floating forms (R144) -/

/-- Round an exact result into the element type of a station. -/
def Tile.rnd (T : Tile) (c : FabCtx) (st i : Nat) (t : EType) (x : XVal) : Nat :=
  (t.ofX (T.rm st) (T.sat st) (T.draw c st i) x).bits

def vFlt1 (f : FVal → XVal) (lat : EType → Nat) (c : FabCtx) (o : VArgs) (T : Tile) : Tile :=
  overStations true o (fun st => vStation T c o accFlt lat st fun t =>
    map1 T c st o t fun i a => T.rnd c st i t (f (t.val a))) T

def vFlt2 (f : RMode → FVal → FVal → XVal) (lat : EType → Nat) (c : FabCtx) (o : VArgs) (T : Tile) : Tile :=
  overStations true o (fun st => vStation T c o accFlt lat st fun t =>
    map2 T c st o t fun i a b => T.rnd c st i t (f (T.rm st) (t.val a) (t.val b))) T

def vFlt3 (f : RMode → FVal → FVal → FVal → FVal) (c : FabCtx) (o : VArgs) (T : Tile) : Tile :=
  overStations true o (fun st => vStation T c o accFlt latFlt st fun t =>
    map3 T c st o t fun i a b d => T.rnd c st i t (.exact (f (T.rm st) (t.val a) (t.val b) (t.val d)))) T

/-! ## Integer and logic forms (R145) -/

def lat2 (_ : EType) : Nat := 2

def EType.int (t : EType) (p : Nat) : Int :=
  match t.kind with
  | .int s => intOf s t.w p
  | .flt _ => intOf false t.w p

def EType.signed (t : EType) : Bool :=
  match t.kind with
  | .int s => s
  | .flt _ => false

/-- An exact integer result, clamped or wrapped (R98). -/
def vInt2 (f : Int → Int → Int) (c : FabCtx) (o : VArgs) (T : Tile) : Tile :=
  overStations true o (fun st => vStation T c o accInt lat2 st fun t =>
    map2 T c st o t fun _ a b => fitInt t.signed (T.sat st) t.w (f (t.int a) (t.int b))) T

def vInt3 (f : Int → Int → Int → Int) (c : FabCtx) (o : VArgs) (T : Tile) : Tile :=
  overStations true o (fun st => vStation T c o accInt lat2 st fun t =>
    map3 T c st o t fun _ a b d => fitInt t.signed (T.sat st) t.w (f (t.int a) (t.int b) (t.int d))) T

/-- A result on bit patterns of two operands. -/
def vBits2 (acc : EType → Bool) (f : EType → Nat → Nat → Nat) (c : FabCtx) (o : VArgs) (T : Tile) : Tile :=
  overStations true o (fun st => vStation T c o acc lat2 st fun t =>
    map2 T c st o t fun _ a b => t.clean (f t (t.clean a) (t.clean b))) T

def vBits1 (acc : EType → Bool) (f : EType → Nat → Nat) (c : FabCtx) (o : VArgs) (T : Tile) : Tile :=
  overStations true o (fun st => vStation T c o acc lat2 st fun t =>
    map1 T c st o t fun _ a => t.clean (f t (t.clean a))) T

/-- Shift right arithmetically; a count of the width or more gives all sign bits. -/
def sarBits (w a b : Nat) : Nat := patOf w (intOf true w a / 2 ^ min b w)

def clzBits (w a : Nat) : Nat := w - bitLen (a % 2 ^ w)

def popCount : Nat → Nat → Nat
  | 0, _ => 0
  | n + 1, a => a % 2 + popCount n (a / 2)

/-! ## Comparison and masks (R146 to R148) -/

/-- Comparison under the type: none when a NaN takes part. -/
def EType.cmp (t : EType) (a b : Nat) : Option Ordering :=
  match t.kind with
  | .flt f => FVal.cmp (f.decode a) (f.decode b)
  | .int s => some (compare (intOf s t.w a) (intOf s t.w b))

/-- Bits 0 to n − 1 of a function. -/
def bitsFrom (f : Nat → Bool) : Nat → Nat
  | 0 => 0
  | n + 1 => bitsFrom f n + (if f n then 2 ^ n else 0)

/-- A comparison: bits of masked-off elements are 0; poison of an element compared is a sink (R141). -/
def vCmp (p : Option Ordering → Bool) (c : FabCtx) (o : VArgs) (T : Tile) : Tile :=
  let st := o.st.toNat
  let t := T.etype st
  let a := T.operand c st o.va.toNat t.w
  let b := T.operand c st o.vb.toNat t.w
  let m := T.maskBit o.k.toNat
  let pa := anyPois t.n fun i => m i && a.epois t.w i
  let pb := anyPois t.n fun i => m i && b.epois t.w i
  T.emitK c slotV o.vd.toNat 2 (bitsFrom (fun i => m i && p (t.cmp (a.elem t.w i) (b.elem t.w i))) t.n)
    (if pa then some a.org else if pb then some b.org else none)

/-- A mask operation; bits at or above the element count of the station are 0. -/
def vMask (f : Nat → Nat → Nat) (c : FabCtx) (o : VArgs) (T : Tile) : Tile :=
  let n := (T.etype o.st.toNat).n
  T.emitK c slotV o.vd.toNat 2
    (f (T.kreg o.va.toNat).toNat (T.kreg (o.vb.toNat % 8)).toNat % 2 ^ n) none

/-- VKMOV (R148): a mask register, or the low 64 bits of an operand. -/
def vMaskMov (c : FabCtx) (o : VArgs) (T : Tile) : Tile :=
  let st := o.st.toNat
  let t := T.etype st
  if o.x then
    let a := T.operand c st o.va.toNat t.w
    T.emitK c slotV o.vd.toNat 2 (a.bits.toNat % 2 ^ t.n) (if a.bytePois 0 8 then some a.org else none)
  else T.emitK c slotV o.vd.toNat 2 ((T.kreg o.va.toNat).toNat % 2 ^ t.n) none

/-- VSEL (R147): only the selected operand's poison passes; a NaN is copied as it is (log entry 108). -/
def vSelect (c : FabCtx) (o : VArgs) (T : Tile) : Tile :=
  overStations true o (fun st T' =>
    let t := T.etype st
    let a := T.operand c st o.va.toNat t.w
    let b := T.operand c st o.vb.toNat t.w
    let m := T.maskBit o.k.toNat
    T'.emit c st o.vd.toNat o.x 2
      ⟨t.w, elems t.n fun i => some (if m i then (t.clean (a.elem t.w i), a.epois t.w i) else (t.clean (b.elem t.w i), b.epois t.w i)),
        pickOrg (c.origin slotV 0)
          [(anyPois t.n fun i => m i && a.epois t.w i, a.org), (anyPois t.n fun i => !m i && b.epois t.w i, b.org)]⟩) T

/-! ## Conversion (R149) -/

/-- A conversion of one element between types (R97, R98): its pattern, and whether R99 names it. -/
def convElem (mode : RMode) (sat : Bool) (draw : Nat) (src dst : EType) (p : Nat) : Nat × Bool :=
  match src.kind, dst.kind with
  | .int s, .int d =>
    let v := intOf s src.w p
    (fitInt d sat dst.w v, decide (v < intMin d dst.w) || decide (intMax d dst.w < v))
  | _, _ =>
    let x := src.val p
    let r := dst.ofX mode sat draw (.exact x)
    (r.bits, r.ovf || (match x with | .nan => true | .inf _ => true | .fin .. => false))

/-- The index of the source element that target element i takes, none where i keeps its value (R149). -/
def convIndex (ns nd x i : Nat) : Option Nat :=
  if ns = nd then some i
  else if nd < ns then some (nd * x + i)
  else if ns * x ≤ i ∧ i < ns * x + ns then some (i - ns * x) else none

/-- VCVT, and VCVTC with its overflow check. -/
def vConv (check : Bool) (c : FabCtx) (o : VArgs) (T : Tile) : Tile :=
  let st := o.st.toNat
  let src := EType.ofCode o.vb.toNat
  let t := T.etype st
  let a := T.operand c st o.va.toNat src.w
  let m := T.maskBit o.k.toNat
  let ix := fun i => if m i then convIndex src.n t.n o.x.toNat i else none
  let srcPois := anyPois t.n fun i => match ix i with | some j => a.epois src.w j | none => false
  T.emit c st o.vd.toNat o.x 4
    ⟨t.w,
      elems t.n fun i =>
        match ix i with
        | some j =>
          let r := convElem (T.rm st) (T.sat st) (T.draw c st i) src t (a.elem src.w j)
          some (r.1, a.epois src.w j || (check && r.2))
        | none => none,
      pickOrg (c.origin slotV 0x15) [(srcPois, a.org)]⟩

/-! ## Twin-exponent blocks (R86 to R88, R100 to R102, R150, R151) -/

/-- A TXB format (FMT 12 + code): width, exponent bits (0 for the integer forms), mantissa bits. -/
structure Txb where
  w : Nat
  eb : Nat
  mb : Nat
  deriving DecidableEq, Repr

def Txb.ofCode : Nat → Txb
  | 0 => ⟨8, 0, 6⟩
  | 1 => ⟨8, 3, 3⟩
  | 2 => ⟨6, 0, 4⟩
  | 3 => ⟨6, 2, 2⟩
  | 4 => ⟨4, 0, 2⟩
  | 5 => ⟨4, 1, 1⟩
  | 6 => ⟨3, 0, 1⟩
  | _ => ⟨2, 0, 0⟩

/-- Number of magnitude codes. -/
def Txb.codes (x : Txb) : Nat := 2 ^ (x.w - 2)

/-- mag(M) in units of 2^-8 (R88). -/
def Txb.mag8 (x : Txb) (m : Nat) : Nat :=
  if x.w = 2 then 256
  else if x.eb = 0 then m * 256
  else
    let e := m / 2 ^ x.mb
    let f := m % 2 ^ x.mb
    let b : Nat := 2 ^ (x.eb - 1) - 1
    -- e = 0: 2^(1-b) · f / 2^mb; else 2^(e-b) · (1 + f / 2^mb)
    if e = 0 then f * 2 ^ (9 - b - x.mb) else (2 ^ x.mb + f) * 2 ^ (8 + e - b - x.mb)

/-- The value of an element under a scale word; none where the word breaks R87. -/
def Txb.value (x : Txb) (scale el : Nat) : Option FVal :=
  let f := bitsOf scale 24 8
  let e1 := intOf true 12 (bitsOf scale 12 12)
  let e0 := intOf true 12 (bitsOf scale 0 12)
  if e0 = -2048 then some (.fin false 0 0)
  else if e0 < -1024 ∨ 1023 < e0 ∨ e1 < -1024 ∨ 1023 < e1 then none
  else
    let sel := bitsOf el (x.w - 1) 1
    let neg := decide (bitsOf el (x.w - 2) 1 = 1)
    let m := x.mag8 (bitsOf el 0 (x.w - 2)) * (256 + f)
    some (.fin (neg && decide (m ≠ 0)) m ((if sel = 1 then e1 else e0) - 16))

/-- A finite magnitude as an integer in units of 2^-1090, fine enough for every input and every decoded code. -/
def unitMag (mag : Nat) (exp : Int) : Nat := mag * 2 ^ (exp + 1090).toNat

/-- q(x, e) of R101: the code whose magnitude is nearest, ties to the even code, clamped; `unit` is fs × 2^e in units
of 2^-1098. -/
def txbNearest (x : Txb) (unit v : Nat) : Nat → Nat
  | 0 => 0
  | n + 1 =>
    -- codes rise with the magnitude: the best of the lower codes against code n
    let b := txbNearest x unit v n
    let db := (v * 256 : Int) - (x.mag8 b * unit : Nat)
    let dn := (v * 256 : Int) - (x.mag8 n * unit : Nat)
    if dn.natAbs < db.natAbs ∨ (dn.natAbs = db.natAbs ∧ n % 2 = 0 ∧ b % 2 = 1) then n else b

/-- The error of R101, as a distance squared in common units. -/
def txbErr (x : Txb) (unit v : Nat) : Nat :=
  let d := (v * 256 : Int) - (x.mag8 (txbNearest x unit v x.codes) * unit : Nat)
  d.natAbs * d.natAbs

/-- fs × 2^e for a fraction F, in units of 2^-1090 (exact: F has 8 bits). -/
def txbUnit (f : Nat) (e : Int) : Nat := (256 + f) * 2 ^ (e + 1082).toNat

/-- The least e, counting up from `e`, with m ≤ Vmax × fs × 2^e. -/
def txbE0 (x : Txb) (f m : Nat) : Nat → Int → Int
  | 0, e => e
  | n + 1, e => if m * 256 ≤ x.mag8 (x.codes - 1) * txbUnit f e then e else txbE0 x f m n (e + 1)

/-- The best d of R101 among d, …, 8. -/
def txbBestD (x : Txb) (f : Nat) (e0 : Int) (vs : List Nat) : Nat → Nat → Nat → Nat → Nat
  | 0, _, best, _ => best
  | n + 1, d, best, bestTot =>
    let u0 := txbUnit f e0
    let u1 := txbUnit f (e0 - d)
    let tot := (vs.map fun v => min (txbErr x u0 v) (txbErr x u1 v)).foldl (· + ·) 0
    if best = 0 ∨ tot < bestTot then txbBestD x f e0 vs n (d + 1) d tot
    else txbBestD x f e0 vs n (d + 1) best bestTot

/-- One block's quantisation (R100 to R102): the scale word and the element codes. -/
def txbQuantise (x : Txb) (f : Nat) (vals : List FVal) : Nat × List Nat :=
  let mags := vals.filterMap fun v => match v with
    | .fin _ m e => some (unitMag m e)
    | _ => none
  let m := mags.foldl max 0
  let vmaxCode := x.codes - 1
  if m = 0 then
    (f * 2 ^ 24 + 2048, vals.map fun v => match v with
      | .inf neg => (if neg then 2 ^ (x.w - 2) else 0) + vmaxCode
      | _ => 0)
  else
    let e0 := txbE0 x f m 512 (-200)
    let d := txbBestD x f e0 mags 8 1 0 0
    let e1 := e0 - d
    let u0 := txbUnit f e0
    let u1 := txbUnit f e1
    (f * 2 ^ 24 + patOf 12 e1 * 2 ^ 12 + patOf 12 e0,
      vals.map fun v => match v with
        | .nan => 0
        | .inf neg => (if neg then 2 ^ (x.w - 2) else 0) + vmaxCode
        | .fin neg mg ex =>
          let a := unitMag mg ex
          let sel := decide (txbErr x u1 a < txbErr x u0 a)
          let q := txbNearest x (if sel then u1 else u0) a x.codes
          (if sel then 2 ^ (x.w - 1) else 0) + (if neg ∧ x.mag8 q ≠ 0 then 2 ^ (x.w - 2) else 0) + q)

/-- VQNT (R150). -/
def vQuant (c : FabCtx) (o : VArgs) (T : Tile) : Tile :=
  let st := o.st.toNat
  let t := T.etype st
  let x := Txb.ofCode o.vb.toNat
  let wide := decide (t.w = 32)
  let bad := !accQt t || (wide && (decide (11 < o.va.toNat) || decide (o.va.toNat % 2 = 1)))
  let a := T.operand c st o.va.toNat t.w
  let b := if wide then T.vreg st (o.va.toNat + 1) else Line.zero
  let pois := if wide then decide (a.pois ≠ 0) || decide (b.pois ≠ 0) else decide (a.pois ≠ 0)
  let vals := (List.range 32).map fun i =>
    t.val (if wide then (if i < 16 then a.elem 32 i else b.elem 32 (i - 16)) else a.elem 16 i)
  let r := txbQuantise x (if o.x then bitsOf T.scale.toNat 24 8 else 0) vals
  -- the result as 32-bit pieces: elements, zeros, scale word in [511:480]
  let body := VOut.bits x.w (r.2.map fun v => some (v, false))
  let img := body + r.1 * 2 ^ 480
  let eb := (32 * x.w + 7) / 8
  let pm : BitVec 64 := BitVec.ofNat 64 (2 ^ eb - 1 + 15 * 2 ^ 60)
  let line : Line :=
    if bad then ⟨0, BitVec.allOnes 64, c.origin slotV 0x16⟩
    else if pois then ⟨BitVec.ofNat 512 img, pm, if a.pois ≠ 0 then a.org else b.org⟩
    else ⟨BitVec.ofNat 512 img, 0, 0⟩
  T.emit c st o.vd.toNat o.x 4
    ⟨8, elems 64 fun i => some (line.elem 8 i, line.epois 8 i), line.org⟩

/-- VDQNT (R151). K masks it as R143 says; what a masked element becomes is the model's choice (log entry 131). -/
def vDequant (c : FabCtx) (o : VArgs) (T : Tile) : Tile :=
  let st := o.st.toNat
  let t := T.etype st
  let x := Txb.ofCode o.vb.toNat
  let a := T.operand c st o.va.toNat t.w
  let m := T.maskBit o.k.toNat
  let wide := decide (t.w = 32)
  if !accQt t || (!wide && o.x) then T.emit c st o.vd.toNat o.x 4 (hdrOut c t.w t.n m)
  else
    let scale := elem a.bits.toNat 32 15
    let sp := a.bytePois 60 4
    let src := fun i => if wide then 16 * o.x.toNat + i else i
    T.emit c st o.vd.toNat o.x 4
      ⟨t.w,
        elems t.n fun i =>
          if m i then
            let v := (x.value scale (elem a.bits.toNat x.w (src i))).getD (.fin false 0 0)
            some (T.rnd c st i t (.exact v), sp || a.epois x.w (src i))
          else none,
        pickOrg (c.origin slotV 0) [(true, a.org)]⟩

/-! ## Packing (R152) -/

def vPacked (c : FabCtx) (o : VArgs) (T : Tile) : Tile :=
  let st := o.st.toNat
  let t := T.etype st
  let m := T.maskBit o.k.toNat
  if !accPack t then T.emit c st o.vd.toNat o.x 4 (hdrOut c t.w t.n m)
  else
    let a := T.operand c st o.va.toNat t.w
    let b := T.operand c st o.vb.toNat t.w
    let n := t.n
    let src := fun i => if i < n then (a, i) else (b, i - n)
    T.emit c st o.vd.toNat o.x 4
      ⟨t.w / 2,
        elems (2 * n) fun i =>
          if m i then
            some (fitInt t.signed (T.sat st) (t.w / 2) (t.int ((src i).1.elem t.w (src i).2)),
              (src i).1.epois t.w (src i).2)
          else none,
        pickOrg (c.origin slotV 0)
          [(anyPois n fun i => m i && a.epois t.w i, a.org), (anyPois n fun i => m (n + i) && b.epois t.w i, b.org)]⟩

def vUnpacked (c : FabCtx) (o : VArgs) (T : Tile) : Tile :=
  let st := o.st.toNat
  let t := T.etype st
  let m := T.maskBit o.k.toNat
  if !accUnpk t then T.emit c st o.vd.toNat o.x 4 (hdrOut c t.w t.n m)
  else
    let a := T.operand c st o.va.toNat t.w
    let h := t.n / 2
    let src := fun i => i + o.x.toNat * h
    T.emit c st o.vd.toNat o.x 4
      ⟨2 * t.w,
        elems h fun i =>
          if m i then some (patOf (2 * t.w) (t.int (a.elem t.w (src i))), a.epois t.w (src i)) else none,
        pickOrg (c.origin slotV 0) [(anyPois h fun i => m i && a.epois t.w (src i), a.org)]⟩

/-! ## Reductions (R153 to R155) -/

/-- One level of the tree: a leaf is absent, or a value with the index of its first leaf that is present (log entry 132). -/
def treeLevel (op : Nat → Nat → Nat → Nat) : List (Option (Nat × Nat)) → List (Option (Nat × Nat))
  | x :: y :: r =>
    (match x, y with
      | none, y => y
      | some a, none => some a
      | some (a, i), some (b, _) => some (op i a b, i)) :: treeLevel op r
  | r => r

def treeFold (op : Nat → Nat → Nat → Nat) : Nat → List (Option (Nat × Nat)) → Option (Nat × Nat)
  | 0, l => l.headD none
  | n + 1, l => treeFold op n (treeLevel op l)

/-- The element of a reduction's empty case (R153). -/
inductive RedKind where
  | sum
  | max
  | min
  deriving DecidableEq, Repr

def redEmpty (k : RedKind) (t : EType) : Nat :=
  match k, t.kind with
  | .sum, _ => 0
  | .max, .flt f => f.infBits true
  | .min, .flt f => f.infBits false
  | .max, .int s => patOf t.w (intMin s t.w)
  | .min, .int s => patOf t.w (intMax s t.w)

/-- The operation on two elements; `i` is the element index whose draw SR takes. -/
def redOp (T : Tile) (c : FabCtx) (st : Nat) (k : RedKind) (t : EType) (i a b : Nat) : Nat :=
  match k, t.kind with
  | .sum, .flt _ => T.rnd c st i t (.exact (FVal.add (T.rm st) (t.val a) (t.val b)))
  | .max, .flt _ => T.rnd c st i t (.exact (FVal.maxNum (t.val a) (t.val b)))
  | .min, .flt _ => T.rnd c st i t (.exact (FVal.minNum (t.val a) (t.val b)))
  | .sum, .int _ => patOf t.w (t.int a + t.int b)
  | .max, .int _ => if t.int a < t.int b then b else a
  | .min, .int _ => if t.int b < t.int a then b else a

/-- The exact sum of selected integer elements. -/
def intSum (t : EType) (l : List (Option (Nat × Nat))) : Int :=
  l.foldl (fun acc e => match e with | some (a, _) => acc + t.int a | none => acc) 0

/-- VRSUM, VRMAX, VRMIN. An integer sum is exact, with one wrap or clamp at the end. -/
def vReduceTo (k : RedKind) (c : FabCtx) (o : VArgs) (T : Tile) : Tile :=
  let st := o.st.toNat
  let t := T.etype st
  let a := T.operand c st o.va.toNat t.w
  let b := T.operand c st o.vb.toNat t.w
  let m := T.maskBit o.k.toNat
  let leaves := (List.range t.n).map fun i => if m i then some (a.elem t.w i, i) else none
  let r : Nat :=
    match k, t.kind with
    | .sum, .int _ =>
      fitInt t.signed (T.sat st) t.w (intSum t leaves + if o.x then t.int (b.elem t.w 0) else 0)
    | _, _ =>
      match treeFold (redOp T c st k t) 6 leaves with
      | some (v, i) => if o.x then redOp T c st k t i v (b.elem t.w 0) else v
      | none => if o.x then redOp T c st k t 0 (redEmpty k t) (b.elem t.w 0) else redEmpty k t
  -- a value that passed no operation is written as a result of the type (R81, R82)
  let r := if t.isFlt then T.rnd c st 0 t (.exact (t.val r)) else r
  let pa := anyPois t.n fun i => m i && a.epois t.w i
  let pb := o.x && b.epois t.w 0
  T.emit c st o.vd.toNat o.x 6
    ⟨t.w, elems t.n fun i => some (if i = 0 then (r, pa || pb) else (0, false)),
      pickOrg (c.origin slotV 0) [(pa, a.org), (pb, b.org)]⟩

/-- VRSUMM (R154): one masked sum step; its start form copies the elements (log entry 108). -/
def vMaskedSum (c : FabCtx) (o : VArgs) (T : Tile) : Tile :=
  let st := o.st.toNat
  let t := T.etype st
  let d := o.vd.toNat
  let nc := min t.n 16
  if !accMs t then
    (T.emit c st d false 6 (hdrOut c t.w t.n fun _ => true)).emit c st (d + 1) false 6 (hdrOut c 32 nc fun _ => true)
  else
    let a := T.operand c st o.va.toNat t.w
    let s := T.vreg st d
    let cn := T.vreg st (d + 1)
    let m := T.maskBit o.k.toNat
    let px := fun i => m i && a.epois t.w i
    let sp := fun i => if o.x then px i else px i || s.epois t.w i
    let cp := fun i => if o.x then px i else px i || cn.epois 32 i
    let sum := fun i =>
      if o.x then (if m i then t.clean (a.elem t.w i) else 0)
      else if m i then
        (match t.kind with
          | .flt _ => T.rnd c st i t (.exact (FVal.add (T.rm st) (t.val (s.elem t.w i)) (t.val (a.elem t.w i))))
          | .int _ => fitInt t.signed (T.sat st) t.w (t.int (s.elem t.w i) + t.int (a.elem t.w i)))
      else s.elem t.w i
    let cnt := fun i =>
      if o.x then (if m i then 1 else 0)
      else if m i then min (cn.elem 32 i + 1) (2 ^ 32 - 1) else cn.elem 32 i
    let pa := anyPois t.n px
    (T.emit c st d false 6
      ⟨t.w, elems t.n fun i => some (sum i, sp i), pickOrg (c.origin slotV 0) [(pa, a.org), (true, s.org)]⟩).emit
      c st (d + 1) false 6
      ⟨32, elems nc fun i => some (cnt i, cp i), pickOrg (c.origin slotV 0) [(pa, a.org), (true, cn.org)]⟩

/-- The rescale of R110 for one element: the result and the recorded bit. -/
def rescale (sat : Bool) (t : EType) (s n v : Nat) : Nat × Bool :=
  if v = 0 ∨ n = 0 then (0, true)
  else if v = n then (t.clean s, false)
  else
    match t.kind with
    | .int sg =>
      let p := intOf sg t.w s * n
      let x := quotApprox (decide (p < 0)) p.natAbs v 0
      let x := if p = 0 then XVal.exact (.fin false 0 0) else x
      ((t.ofX .rne sat 0 x).bits, false)
    | .flt f =>
      match f.decode s with
      | .nan => (f.nanBits, false)
      | .inf neg => (f.infBits neg, false)
      | .fin neg mag exp =>
        if mag = 0 then ((roundF f .rne sat 0 (.fin neg 0 0)).bits, false)
        else (((quotApprox neg (mag * n) v exp).round f .rne sat 0).bits, false)

/-- VRSCL (R155). -/
def vRescale (c : FabCtx) (o : VArgs) (T : Tile) : Tile :=
  let st := o.st.toNat
  let t := T.etype st
  if !accMs t then
    let T1 := T.emit c st o.vd.toNat o.x 6 (hdrOut c t.w t.n fun _ => true)
    if o.k.toNat = 0 then T1 else T1.emitK c slotV o.k.toNat 6 0 (some (c.origin slotV 0x16))
  else
    let s := T.vreg st o.va.toNat
    let v := T.vreg st (o.va.toNat + 1)
    let b := T.operand c st o.vb.toNat t.w
    let res := fun i => rescale (T.sat st) t (s.elem t.w i) (b.elem t.w i % 2 ^ 32) (v.elem 32 i)
    let ps := fun i => s.epois t.w i
    let pv := fun i => v.epois 32 i
    let pb := fun i => b.epois t.w i
    let pe := fun i => ps i || pv i || pb i
    let anyS := anyPois t.n ps
    let anyB := anyPois t.n pb
    let org := pickOrg (c.origin slotV 0) [(anyS, s.org), (anyB, b.org), (true, v.org)]
    let T1 := T.emit c st o.vd.toNat o.x 6 ⟨t.w, elems t.n fun i => some ((res i).1, pe i), org⟩
    if o.k.toNat = 0 then T1
    else T1.emitK c slotV o.k.toNat 6 (bitsFrom (fun i => (res i).2) t.n)
      (if anyPois t.n pe then some org else none)

/-! ## Lane operations (R156) -/

/-- A result whose element i takes source element `src i` of operand a (none for zero); `dep i` says whether what the
index depends on is poisoned. A NaN is copied as it is (log entry 108). -/
def gatherOut (T : Tile) (c : FabCtx) (o : VArgs) (t : EType) (a : Line) (src : Nat → Option Nat) (dep : Nat → Bool)
    (depOrg : Word) : VOut :=
  let m := T.maskBit o.k.toNat
  let pa := fun i => match src i with | some j => a.epois t.w j | none => false
  ⟨t.w,
    elems t.n fun i =>
      if m i then some (match src i with | some j => t.clean (a.elem t.w j) | none => 0, pa i || dep i) else none,
    pickOrg (c.origin slotV 0)
      [(anyPois t.n fun i => m i && pa i, a.org), (anyPois t.n fun i => m i && dep i, depOrg)]⟩

def vPermute (c : FabCtx) (o : VArgs) (T : Tile) : Tile :=
  let st := o.st.toNat
  let t := T.etype st
  let a := T.operand c st o.va.toNat t.w
  let b := T.operand c st o.vb.toNat t.w
  let src := fun i =>
    let j := b.elem t.w i
    if o.x then (if j < t.n then some j else none) else some (j % t.n)
  T.emit c st o.vd.toNat o.x 3 (gatherOut T c o t a src (fun i => b.epois t.w i) b.org)

def vBroadcast (c : FabCtx) (o : VArgs) (T : Tile) : Tile :=
  let st := o.st.toNat
  let t := T.etype st
  let a := T.operand c st o.va.toNat t.w
  T.emit c st o.vd.toNat o.x 2
    (gatherOut T c o t a (fun _ => some ((o.vb.toNat + 16 * o.x.toNat) % t.n)) (fun _ => false) 0)

def vRotate (c : FabCtx) (o : VArgs) (T : Tile) : Tile :=
  let st := o.st.toNat
  let t := T.etype st
  let a := T.operand c st o.va.toNat t.w
  let b := T.operand c st o.vb.toNat t.w
  let s := b.elem t.w 0
  let src := fun i => if o.x then (if i + s < t.n then some (i + s) else none) else some ((i + s) % t.n)
  T.emit c st o.vd.toNat o.x 2 (gatherOut T c o t a src (fun _ => b.epois t.w 0) b.org)

def vMove (c : FabCtx) (o : VArgs) (T : Tile) : Tile :=
  let st := o.st.toNat
  let t := T.etype st
  T.emit c st o.vd.toNat o.x 2
    (gatherOut T c o t (T.operand c st o.va.toNat t.w) (fun i => some i) (fun _ => false) 0)

/-- VIOTA: a[0] + i. -/
def vIndex (c : FabCtx) (o : VArgs) (T : Tile) : Tile :=
  let st := o.st.toNat
  let t := T.etype st
  let a := T.operand c st o.va.toNat t.w
  let m := T.maskBit o.k.toNat
  let val := fun i =>
    match t.kind with
    | .flt _ => T.rnd c st i t (.exact (FVal.add (T.rm st) (t.val (a.elem t.w 0)) (.fin false i 0)))
    | .int _ => fitInt t.signed (T.sat st) t.w (t.int (a.elem t.w 0) + i)
  T.emit c st o.vd.toNat o.x 2
    ⟨t.w, elems t.n fun i => if m i then some (val i, a.epois t.w 0) else none,
      pickOrg (c.origin slotV 0) [(a.epois t.w 0, a.org)]⟩

/-! ## Random bits (R157, R158) -/

def vRandom (c : FabCtx) (o : VArgs) (T : Tile) : Tile :=
  overStations true o (fun st => vStation T c o accW32 (fun _ => 6) st fun t =>
    map2 T c st o t fun _ a b => plohan a b T.key0 T.key1) T

/-- VDROP (R158). A dropped element carries the poison of x[i]: the model's choice (log entry 133). -/
def vDropout (c : FabCtx) (o : VArgs) (T : Tile) : Tile :=
  overStations true o (fun st => vStation T c o accFlt (fun _ => 6) st fun t =>
    let a := T.operand c st o.va.toNat t.w
    let b := T.operand c st o.vb.toNat t.w
    let m := T.maskBit o.k.toNat
    let base := b.bits.toNat % 2 ^ 48
    let thr := bitsOf T.dropthr.toNat 0 32
    let scale := Fmt.fp32.decode (bitsOf T.dropthr.toNat 32 32)
    let pb := b.bytePois 0 6
    ⟨t.w,
      elems t.n fun i =>
        if m i then
          some (if thr ≤ T.dropDraw ((base + i) % 2 ^ 48) then
              T.rnd c st i t (.exact (FVal.mul (t.val (a.elem t.w i)) scale)) else 0, a.epois t.w i || pb)
        else none,
      pickOrg (c.origin slotV 0) [(anyPois t.n fun i => m i && a.epois t.w i, a.org), (pb, b.org)]⟩) T

end Sys2Proof.Machine
end

