-- ==== Sys2Proof/Machine/VatOps.lean ====
section
/-! DEFINITION. Shared operations of the vat (R78 to R89, R103 to R109, R114 to R136): operand formats, column
images, the exact column sum, accumulation, draining, faults of a feed, pairs. -/

namespace Sys2Proof.Machine

/-! ## Operand formats (R78, R103) -/

/-- How an element of an operand format is read. -/
inductive FmtKind where
  | flt (f : Fmt)
  | int (signed : Bool)
  | txb (x : Txb)
  | mxFlt (f : Fmt)
  | mxInt
  | rsFlt (f : Fmt)
  | rsInt
  | split (f : Fmt)
  deriving DecidableEq, Repr

/-- An operand format: width, kind, products of a column, cycles of a column (R103). -/
structure VFmt where
  code : Nat
  w : Nat
  kind : FmtKind
  k : Nat
  cyc : Nat
  deriving DecidableEq, Repr

def VFmt.ofCode : Nat → VFmt
  | 0 => ⟨0, 64, .flt .fp64, 1, 8⟩
  | 1 => ⟨1, 32, .flt .fp32, 1, 2⟩
  | 2 => ⟨2, 32, .flt .f19, 2, 1⟩
  | 3 => ⟨3, 16, .flt .bf16, 2, 1⟩
  | 4 => ⟨4, 16, .flt .fp16, 2, 1⟩
  | 5 => ⟨5, 8, .flt .e4m3, 8, 1⟩
  | 6 => ⟨6, 8, .flt .e5m2, 8, 1⟩
  | 7 => ⟨7, 8, .int true, 8, 1⟩
  | 8 => ⟨8, 8, .int false, 8, 1⟩
  | 9 => ⟨9, 16, .int true, 2, 1⟩
  | 10 => ⟨10, 4, .int true, 16, 1⟩
  | 11 => ⟨11, 4, .int false, 16, 1⟩
  | 12 => ⟨12, 8, .txb (Txb.ofCode 0), 8, 1⟩
  | 13 => ⟨13, 8, .txb (Txb.ofCode 1), 8, 1⟩
  | 14 => ⟨14, 6, .txb (Txb.ofCode 2), 8, 1⟩
  | 15 => ⟨15, 6, .txb (Txb.ofCode 3), 8, 1⟩
  | 16 => ⟨16, 4, .txb (Txb.ofCode 4), 16, 1⟩
  | 17 => ⟨17, 4, .txb (Txb.ofCode 5), 16, 1⟩
  | 18 => ⟨18, 3, .txb (Txb.ofCode 6), 16, 1⟩
  | 19 => ⟨19, 2, .txb (Txb.ofCode 7), 16, 1⟩
  | 20 => ⟨20, 8, .mxFlt .e4m3, 8, 1⟩
  | 21 => ⟨21, 8, .mxFlt .e5m2, 8, 1⟩
  | 22 => ⟨22, 6, .mxFlt .e2m3, 8, 1⟩
  | 23 => ⟨23, 6, .mxFlt .e3m2, 8, 1⟩
  | 24 => ⟨24, 4, .mxFlt .e2m1, 16, 1⟩
  | 25 => ⟨25, 8, .mxInt, 8, 1⟩
  | 26 => ⟨26, 8, .rsFlt .e4m3, 8, 1⟩
  | 27 => ⟨27, 8, .rsInt, 8, 1⟩
  | 28 => ⟨28, 4, .rsInt, 16, 1⟩
  | 29 => ⟨29, 32, .split .bf16, 2, 1⟩
  | 30 => ⟨30, 32, .split .fp16, 2, 1⟩
  | _ => ⟨31, 2, .int true, 16, 1⟩

/-- A format whose elements come in scaled blocks of 32 (R78). -/
def VFmt.block (f : VFmt) : Bool :=
  match f.kind with
  | .txb _ | .mxFlt _ | .mxInt | .rsFlt _ | .rsInt => true
  | _ => false
def VFmt.isSplit (f : VFmt) : Bool :=
  match f.kind with
  | .split _ => true
  | _ => false
/-- The integer row of R104: INT8, UINT8, INT16, INT4, UINT4, INT2. -/
def VFmt.isInt (f : VFmt) : Bool :=
  match f.kind with
  | .int _ => true
  | _ => false
/-- Blocks of a line (R79). -/
def VFmt.bpl (f : VFmt) : Nat := 512 / (32 * f.w)

/-- Depth of a column (R118). -/
def colDepth (f g : VFmt) : Nat := min f.k g.k
/-- Interval of a column (R118). -/
def colCycles (f g : VFmt) : Nat :=
  max f.cyc g.cyc * (if f.isSplit then 2 else 1) * (if g.isSplit then 2 else 1)

/-- Accumulator formats of AFMT (R104, R114): 1 FP32, 2 INT32, 3 an FP64 pair; none where the pair is refused. -/
def accFormat (f g : VFmt) (acc : Nat) (if32 : Bool) : Option Nat :=
  if f.code = 0 ∧ g.code = 0 then (if acc % 2 = 0 then some 3 else none)
  else if f.code = 0 ∨ g.code = 0 then none
  else if f.isInt && g.isInt && !if32 then some 2
  else some 1

/-! ## Column images (R119, R120) -/

/-- Bit position of element e of a format in a column image. -/
def elemPos (f : VFmt) (e : Nat) : Nat :=
  if f.block then
    let b := e / 32
    512 * (b / f.bpl) + 32 * f.w * (b % f.bpl) + f.w * (e % 32)
  else f.w * e

/-- The feed row an element lies in. -/
def elemRow (f : VFmt) (e : Nat) : Nat := elemPos f e / 512

/-- The number of used feed rows of a column: the rows that hold an element. -/
def usedRows (f : VFmt) (kc : Nat) : Nat := elemRow f (32 * kc - 1) + 1

/-- The value(s) of an element under its block's scale word (R85 to R89): one value, or hi and lo of a split element;
none where a TXB scale word breaks R87. A split element follows the pseudocode of R89 (log entry 109); bits [31:8] of an MX
scale word are not looked at (log entry 129). -/
def elemVals (f : VFmt) (scale el : Nat) : Option (List FVal) :=
  match f.kind with
  | .flt g => some [g.decode el]
  | .int s => let v := intOf s f.w el; some [.fin (decide (v < 0)) v.natAbs 0]
  | .txb x => (x.value scale el).map fun v => [v]
  | .mxFlt g =>
    let x := scale % 256
    some [if x = 255 then .nan else FVal.mul (g.decode el) (.fin false 1 ((x : Int) - 127))]
  | .mxInt =>
    let x := scale % 256
    let v := intOf true 8 el
    some [if x = 255 then .nan else .fin (decide (v < 0)) v.natAbs ((x : Int) - 127 - 6)]
  | .rsFlt g => some [FVal.mul (g.decode el) (Fmt.fp32.decode scale)]
  | .rsInt => let v := intOf true f.w el; some [FVal.mul (.fin (decide (v < 0)) v.natAbs 0) (Fmt.fp32.decode scale)]
  | .split g =>
    let x := Fmt.fp32.decode el
    let hi := g.decode (roundF g .rne false 0 x).bits
    match hi with
    | .fin .. => some [hi, g.decode (roundF g .rne false 0 (FVal.add .rne x hi.neg)).bits]
    | _ => some [hi, .fin false 0 0]

/-- An element of a column: its values, the origin of its poison (0 for none), whether it is a bubble element. -/
structure CElem where
  vals : List FVal
  pois : Word
  bub : Bool
  deriving DecidableEq, Repr

/-- A bubble element (R121). -/
def CElem.bubble : CElem := ⟨[.fin false 0 0], 0, true⟩

/-- Fields of an operand header (R116). -/
def hFmt (h : Word) : VFmt := VFmt.ofCode (bitsOf h.toNat 0 5)
def hSwz (h : Word) : Nat := bitsOf h.toNat 5 4
def hVlim (h : Word) : Nat := bitsOf h.toNat 9 5
def hSbase (h : Word) : Nat := bitsOf h.toNat 14 9

/-- A header nothing has written: VLIM 0x1F, the rest 0 (R116; R39 gives 0: log entry 106). -/
def hdrReset : Word := 0x3E00

def VatCtl.header (v : VatCtl) (n : Nat) : Word := tget hdrReset v.hdr n
def VatCtl.setHeader (v : VatCtl) (n : Nat) (h : Word) : VatCtl := { v with hdr := tset hdrReset v.hdr n h }
def VatCtl.abuf (v : VatCtl) : Nat := bitsOf v.vatst.toNat 0 1
def VatCtl.paired (v : VatCtl) : Bool := decide (bitsOf v.vatst.toNat 1 1 = 1)
def VatCtl.peast (v : VatCtl) : Bool := decide (bitsOf v.vatst.toNat 2 1 = 1)
def VatCtl.pmis (v : VatCtl) : Bool := decide (bitsOf v.vatst.toNat 3 1 = 1)
def VatCtl.plink (v : VatCtl) : Bool := decide (bitsOf v.vatst.toNat 4 1 = 1)
def VatCtl.een (v : VatCtl) : Bool := decide (bitsOf v.vatst.toNat 5 1 = 1)
def VatCtl.fcc (v : VatCtl) : Nat := bitsOf v.vatst.toNat 15 9
def VatCtl.setSt (v : VatCtl) (lo len x : Nat) : VatCtl :=
  { v with vatst := BitVec.ofNat 64 (setBits v.vatst.toNat lo len x) }
/-- FCC advances by one, modulo 512. -/
def VatCtl.stepFcc (v : VatCtl) : VatCtl := v.setSt 15 9 (v.fcc + 1)

/-- The origin of the first poisoned byte of [lo, lo + n). -/
def Col.orgIn (c : Col) (lo n : Nat) : Word :=
  ((c.orgs.find? fun e => decide (lo ≤ e.1) && decide (e.1 < lo + n)).map (·.2)).getD 0

/-- One element (i, t) of a column image: a value, or a bubble element (R121). -/
def colElem (f : VFmt) (kc vlim : Nat) (img : Col) (rows : Nat) (scales : List (BitVec 32)) (spois : List Word)
    (i t : Nat) : CElem :=
  let e := kc * i + t
  let p := elemPos f e
  if vlim < i ∨ rows.testBit (p / 512) = false then CElem.bubble
  else
    let b := if f.block then e / 32 else 0
    let sc := (scales.getD b 0).toNat
    let sp := if f.block then spois.getD b 0 else 0
    let bp := img.orgIn (p / 8) ((p + f.w - 1) / 8 - p / 8 + 1)
    ⟨(elemVals f sc (bitsOf img.bits.toNat p f.w)).getD [.fin false 0 0], if bp ≠ 0 then bp else sp, false⟩

/-- Whether every scale word of a TXB operand keeps to R87. -/
def scalesOk (f : VFmt) (scales : List (BitVec 32)) : Bool :=
  match f.kind with
  | .txb x => scales.all fun s => (x.value s.toNat 0).isSome
  | _ => true

/-- The scale words of the kc blocks of a column, from word `base` of a store that starts at key `off` (R120). -/
def scaleWords (v : VatCtl) (off base kc : Nat) : List (BitVec 32) :=
  (List.range kc).map fun b => tget 0 v.scl (off + (base + b) % 512)
def scalePois (v : VatCtl) (off base kc : Nat) : List Word :=
  (List.range kc).map fun b => tget 0 v.sclPois (off + (base + b) % 512)

/-! ## The exact column sum and accumulation (R105 to R108) -/

/-- The products of two elements, every pass of a split column included; a bubble element gives +0 (R121). -/
def CElem.products (x y : CElem) : List FVal :=
  if x.bub || y.bub then [.fin false 0 0] else x.vals.flatMap fun p => y.vals.map fun q => FVal.mul p q

/-- The exact sum of the products of two lists of element values. -/
def columnSum (a b : List CElem) : FVal :=
  let rec go : List CElem → List CElem → FVal → FVal
    | x :: xs, y :: ys, acc => go xs ys ((x.products y).foldl (FVal.add .rne) acc)
    | _, _, acc => acc
  -- −0 is the neutral element of the sum: a sum of products that are all −0 is −0
  go a b (.fin true 0 0)

/-- Whether an operand value of the column is NaN (for NV). -/
def anyNan (a b : List CElem) : Bool := (a ++ b).any fun e => e.vals.any (· == .nan)

/-- A value as an exact integer. -/
def FVal.toInt : FVal → Int
  | .fin neg mag exp => FVal.atExp neg mag exp 0
  | _ => 0

/-- The result of one cell: its new bits (64 for an FP64 pair) and the flags raised (R108, R109; log entry 111). -/
def cellStep (af : Nat) (sat first : Bool) (old : Nat) (s : FVal) (opNan : Bool) : Nat × Nat :=
  if af = 2 then
    let v := s.toInt
    if first then
      if sat then (fitInt true true 32 v, if clampInt true 32 v = v then 0 else flSAT) else (patOf 32 v, 0)
    else if sat then
      let t := clampInt true 32 v
      let r := intOf true 32 old + t
      (fitInt true true 32 r, if t = v ∧ clampInt true 32 r = r then 0 else flSAT)
    else (patOf 32 (intOf true 32 old + v), 0)
  else
    let f := if af = 3 then Fmt.fp64 else Fmt.fp32
    let r := roundF f .rne false 0 s
    let fl := flOr r.flags (nvFlag opNan s)
    if first then (r.bits, fl)
    else
      let x := f.decode old
      let y := f.decode r.bits
      let z := FVal.add .rne x y
      let q := roundF f .rne false 0 z
      (q.bits, flOr fl (flOr q.flags (nvFlag (x == .nan || y == .nan) z)))

/-! ## Accumulators (R114) -/

def cellKey (acc row col : Nat) : Nat := 1024 * acc + 32 * row + col

def VatCore.st (v : VatCore) (acc : Nat) : Nat := (tget 0 v.accst acc).toNat
def VatCore.setSt (v : VatCore) (acc n : Nat) : VatCore :=
  { v with accst := tset 0 v.accst acc (BitVec.ofNat 64 n) }

def stAfmt (n : Nat) : Nat := bitsOf n 0 2
def stFlags (n : Nat) : Nat := bitsOf n 2 5
def stBub (n : Nat) : Nat := bitsOf n 7 16
def stRm (n : Nat) : Nat := bitsOf n 23 3
def stSat (n : Nat) : Bool := decide (bitsOf n 26 1 = 1)
def stIf32 (n : Nat) : Bool := decide (bitsOf n 27 1 = 1)
def stDrain (n : Nat) : Nat := bitsOf n 28 4
def stLive (n : Nat) : Nat := bitsOf n 32 32

/-- The half of a pair that keeps its status: the even one where the accumulator is half of an FP64 pair. -/
def VatCore.home (v : VatCore) (acc : Nat) : Nat := if stAfmt (v.st acc) = 3 then acc / 2 * 2 else acc

/-- The halves an operation acts on: both of a live FP64 pair. -/
def VatCore.halves (v : VatCore) (acc : Nat) : List Nat :=
  if stAfmt (v.st acc) = 3 then [acc / 2 * 2, acc / 2 * 2 + 1] else [acc]

/-- ACCST as it reads: the odd half of a pair shows the pair's FLAGS, BUBCNT and LIVE. -/
def VatCore.accstRead (v : VatCore) (acc : Nat) : Nat :=
  if stAfmt (v.st acc) = 3 then
    let e := v.st (acc / 2 * 2)
    setBits (setBits (setBits (v.st acc) 2 5 (stFlags e)) 7 16 (stBub e)) 32 32 (stLive e)
  else v.st acc

/-- A cell: 32 bits, or 64 of an FP64 pair (the low half in the even accumulator, log entry 25). -/
def VatCore.cell (v : VatCore) (acc row col : Nat) : Nat := (tget 0 v.acc (cellKey acc row col)).toNat
def VatCore.cell64 (v : VatCore) (acc row col : Nat) : Nat :=
  v.cell (acc / 2 * 2) row col + 2 ^ 32 * v.cell (acc / 2 * 2 + 1) row col
def VatCore.setCell (v : VatCore) (acc row col x : Nat) : VatCore :=
  { v with acc := tset 0 v.acc (cellKey acc row col) (BitVec.ofNat 32 x) }
def VatCore.setCell64 (v : VatCore) (acc row col x : Nat) : VatCore :=
  (v.setCell (acc / 2 * 2) row col x).setCell (acc / 2 * 2 + 1) row col (x / 2 ^ 32)

def VatCore.poisoned (v : VatCore) (acc row col : Nat) : Bool := decide (tget 0 v.accPois (cellKey acc row col) ≠ 0)

/-- Mark a cell; it keeps the origin of the first token that marked it (R134). -/
def VatCore.mark (v : VatCore) (acc row col : Nat) (org : Word) : VatCore :=
  if v.poisoned acc row col then v else { v with accPois := tset 0 v.accPois (cellKey acc row col) org }

/-- The origin of the poison of an accumulator's rows in [lo, lo + n), if any cell is marked. -/
def VatCore.poisIn (v : VatCore) (acc lo n : Nat) : Option Word :=
  (v.accPois.find? fun e => decide (cellKey acc lo 0 ≤ e.1) && decide (e.1 < cellKey acc lo 0 + 32 * n)).map (·.2)

/-- Remove the cells of an accumulator's rows in [lo, lo + n), with their residue marks. -/
def VatCore.zeroRows (v : VatCore) (acc lo n : Nat) : VatCore :=
  let keep := fun k => !(decide (cellKey acc lo 0 ≤ k) && decide (k < cellKey acc lo 0 + 32 * n))
  { v with acc := v.acc.filter fun e => keep e.1
           resid := v.resid.filter keep }

/-- Remove the poison marks of an accumulator's rows. -/
def VatCore.unmarkRows (v : VatCore) (acc lo n : Nat) : VatCore :=
  let keep := fun k => !(decide (cellKey acc lo 0 ≤ k) && decide (k < cellKey acc lo 0 + 32 * n))
  { v with accPois := v.accPois.filter fun e => keep e.1 }

/-- An accumulator becomes empty: AFMT, FLAGS, BUBCNT and LIVE become 0 (R114). -/
def VatCore.empty1 (v : VatCore) (acc : Nat) : VatCore :=
  v.setSt acc (setBits (setBits (v.st acc) 0 23 0) 32 32 0)

/-- MXCLR's effect (R126): every cell +0, LIVE 0, both halves of a live FP64 pair. -/
def VatCore.clear (v : VatCore) (acc : Nat) : VatCore :=
  (v.halves acc).foldl (fun v a => (v.zeroRows a 0 32).empty1 a) v

/-- The origin of a poisoned cell that a clear would discard (R135). -/
def VatCore.clearPois (v : VatCore) (acc : Nat) : Option Word :=
  (v.halves acc).findSome? fun a => v.poisIn a 0 32

/-- A table with its keys of [lo, hi) as another table has them. -/
def pasteKeys {α : Type} (lo hi : Nat) (m old : Tab α) : Tab α :=
  (m.filter fun e => decide (e.1 < lo)) ++ (old.filter fun e => decide (lo ≤ e.1) && decide (e.1 < hi)) ++
    m.filter fun e => decide (hi ≤ e.1)

/-- Take a column back out of an accumulator: cells, marks, AFMT, FLAGS and LIVE as before it. What MXBUB has counted and
MXACCF has set since stays. -/
def VatCore.undo1 (before after v : VatCore) (acc : Nat) : VatCore :=
  let lo := cellKey acc 0 0
  let hi := cellKey (acc + 1) 0 0
  let mine := fun (k : Nat) => decide (lo ≤ k) && decide (k < hi)
  let n := v.st acc
  let m := before.st acc
  { v with
    acc := pasteKeys lo hi v.acc before.acc
    accPois := pasteKeys lo hi v.accPois before.accPois
    resid := (v.resid.filter fun k => !mine k) ++ before.resid.filter mine }.setSt acc
      (setBits (setBits (setBits n 0 7 (bitsOf m 0 7)) 7 16 (min (stBub m + (stBub n - stBub (after.st acc))) 0xFFFF))
        32 32 (stLive m))

/-- Take a column back out of the accumulators it acted on. -/
def VatCore.undo (v before after : VatCore) (accs : List Nat) : VatCore := accs.foldl (VatCore.undo1 before after) v

/-- Raise flags (sticky, R109). -/
def VatCore.raise (v : VatCore) (acc fl : Nat) : VatCore :=
  v.setSt acc (setBits (v.st acc) 2 5 (flOr (stFlags (v.st acc)) fl))

/-- Count a bubble column, saturating at 0xFFFF (R125). -/
def VatCore.bubble (v : VatCore) (acc : Nat) : VatCore :=
  let h := v.home acc
  v.setSt h (setBits (v.st h) 7 16 (min (stBub (v.st h) + 1) 0xFFFF))

/-! ## Feeding (R121, R125, R133) -/

/-- The sources of the four feed rows (R53): a lane 0 to 7, or a feed-row drive 8 + n. -/
def laneSetRows : Nat → List Nat
  | 0 => [0, 1, 2, 3]
  | 1 => [4, 5, 6, 7]
  | 2 => [0, 1, 4, 5]
  | 3 => [2, 3, 6, 7]
  | 4 => [0, 4, 1, 5]
  | 5 => [2, 6, 3, 7]
  | 6 => [0, 1, 10, 11]
  | 7 => [4, 5, 10, 11]
  | _ => [8, 9, 10, 11]

/-- The line of a feed-row source in this cycle. -/
def Tile.feedRow (T : Tile) (c : FabCtx) (src : Nat) : Option Line :=
  if src < 8 then laneAt T.dels src posVat c.cyc else latchAt T.dels (.feed (src - 8)) c.cyc

/-- Join feed rows into an image: bits, poison, which rows are there. -/
def joinRows : List (Option Line) → Nat × Nat × Nat
  | [] => (0, 0, 0)
  | r :: rs =>
    let (b, p, d) := joinRows rs
    match r with
    | some l => (l.bits.toNat + 2 ^ 512 * b, l.pois.toNat + 2 ^ 64 * p, 1 + 2 * d)
    | none => (2 ^ 512 * b, 2 ^ 64 * p, 2 * d)

/-- The origins of the poisoned bytes of a line, from byte `off` of an image on. -/
def Line.orgs (l : Line) (off : Nat) : Tab Word :=
  if l.pois = 0 then [] else ((List.range 64).filter fun i => l.pois.toNat.testBit i).map fun i => (off + i, l.org)

/-- The origins of the poisoned bytes of feed rows, the first row at byte `off`. -/
def rowOrgs (off : Nat) : List (Option Line) → Tab Word
  | [] => []
  | r :: rs => (match r with
    | some l => l.orgs off
    | none => []) ++ rowOrgs (off + 64) rs

/-- The image of a lane set in this cycle, and its delivered rows. -/
def Tile.feedImage (T : Tile) (c : FabCtx) (ls : Nat) : Col × BitVec 4 :=
  let rows := (laneSetRows ls).map (T.feedRow c)
  let (b, p, d) := joinRows rows
  (⟨BitVec.ofNat 2048 b, BitVec.ofNat 256 p, rowOrgs 0 rows⟩, BitVec.ofNat 4 d)

/-- The header of the active buffer. -/
def Tile.statHdr (T : Tile) : Word := T.vctl.header (6 + T.vctl.abuf)

/-- The formats of a tile's own feed header and of its active buffer (R118, R125). -/
def Tile.feedFmt (T : Tile) : VFmt := hFmt (T.vctl.header 4)
def Tile.statFmt (T : Tile) : VFmt := hFmt T.statHdr

/-- The column that this vat takes in from its own rows, header and feed scale store. -/
def Tile.takeFeed (T : Tile) (c : FabCtx) (ls : Nat) : Fed :=
  let (img, rows) := T.feedImage c ls
  let h := T.vctl.header 4
  let kc := colDepth T.feedFmt T.statFmt
  let base := hSbase h + kc * T.vctl.fcc
  ⟨img, rows, h, scaleWords T.vctl 0 base kc, scalePois T.vctl 0 base kc, kc, colCycles T.feedFmt T.statFmt⟩

/-- Whether every used feed row has nothing delivered (R121). -/
def Fed.isBubble (f : Fed) : Bool := decide (f.rows.toNat % 2 ^ usedRows (hFmt f.hdr) f.kc = 0)

/-- The stationary scale words of a B slot. -/
def Tile.statScales (T : Tile) (kc slot : Nat) : List (BitVec 32) × List Word :=
  let base := hSbase T.statHdr + kc * slot
  (scaleWords T.vctl 512 base kc, scalePois T.vctl 512 base kc)

/-- The faults of a feed that one vat sees by itself (R133): `fed` is the column it takes, with its own scale words. -/
def Tile.feedFault (T : Tile) (fed : Fed) (acc : Nat) (first : Bool) (slot : Nat) : Bool :=
  let fh := T.vctl.header 4
  let kc := colDepth T.feedFmt T.statFmt
  match accFormat T.feedFmt T.statFmt acc (stIf32 (T.vat.st acc)) with
  | none => true
  | some af =>
    let other := fun a => decide (stAfmt (T.vat.st a) ≠ 0) && decide (stAfmt (T.vat.st a) ≠ af)
    (!first && (other acc || (decide (af = 3) && other (acc + 1)))) ||
      !scalesOk (hFmt fed.hdr) fed.scales ||
      !scalesOk T.statFmt (T.statScales kc slot).1 ||
      (T.vctl.een && (decide (bitsOf fh.toNat 0 5 ≠ bitsOf T.vctl.vatst.toNat 6 5) ||
        decide (hSwz fh ≠ bitsOf T.vctl.vatst.toNat 11 4))) ||
      T.vctl.pmis

/-- An HDR fault (R133): every cell of the target, or of both halves of an FP64 pair, is marked. -/
def Tile.hdrFault (T : Tile) (accs : List Nat) (org : Word) : Tile :=
  let mark1 := fun (v : VatCore) a =>
    (List.range 32).foldl (fun v i => (List.range 32).foldl (fun v j => v.mark a i j org) v) v
  { T with vat := accs.foldl mark1 T.vat }

/-- The accumulators that a feed into `acc` acts on: both halves of an FP64 pair. -/
def Tile.faultAccs (T : Tile) (acc : Nat) : List Nat :=
  if stAfmt (T.vat.st acc) = 3 ∨ (T.feedFmt.code = 0 ∧ T.statFmt.code = 0 ∧ acc % 2 = 0) then
    [acc / 2 * 2, acc / 2 * 2 + 1]
  else [acc]

/-- The origin of a poisoned cell that FIRST would discard (R135). -/
def Tile.firstPois (T : Tile) (acc : Nat) : Option Word :=
  (T.faultAccs acc).findSome? fun a => T.vat.poisIn a 0 32

/-- The origin of the first poisoned element of a list. -/
def firstOrg (l : List CElem) : Word := ((l.find? fun e => decide (e.pois ≠ 0)).map (·.pois)).getD 0

/-- A column, with the depth that the vat which took it gave it (R130), enters an accumulator (R125): a bubble is counted, else every cell adds its exact sum. A cell that both
operands poison in one column takes the fed element's origin (log entry 96). -/
def Tile.accumulate (T : Tile) (fed : Fed) (acc : Nat) (first : Bool) (slot : Nat) : Tile :=
  let f := hFmt fed.hdr
  let g := T.statFmt
  let kc := fed.kc
  if fed.isBubble then
    let v := if first then (T.faultAccs acc).foldl VatCore.clear T.vat else T.vat
    { T with vat := v.bubble acc }
  else
    let af := (accFormat T.feedFmt g acc (stIf32 (T.vat.st acc))).getD 1
    let v0 := T.vat
    let st := v0.st acc
    let (ss, sp) := T.statScales kc slot
    let bcol := tget Col.zero v0.bbuf (32 * T.vctl.abuf + slot)
    let a := fun i => (List.range kc).map fun t =>
      colElem f kc (hVlim fed.hdr) fed.img fed.rows.toNat fed.scales fed.spois i t
    let b := fun j => (List.range kc).map fun t => colElem g kc (hVlim T.statHdr) bcol 15 ss sp j t
    let as := (List.range 32).map fun i => (a i, firstOrg (a i))
    let bs := (List.range 32).map fun j => (b j, firstOrg (b j))
    -- FIRST over half of a live FP64 pair of another format empties the pair (log entry 25)
    let v0 := if first && decide (stAfmt st = 3) && decide (af ≠ 3) then v0.clear acc else v0
    let v0 := if first then (if af = 3 then [acc, acc + 1] else [acc]).foldl (fun v a => v.zeroRows a 0 32) v0 else v0
    let step := fun (vf : VatCore × Nat) (i j : Nat) =>
      let (ai, ao) := as.getD i ([], 0)
      let (bj, bo) := bs.getD j ([], 0)
      let old := if af = 3 then vf.1.cell64 acc i j else vf.1.cell acc i j
      let (x, fl) := cellStep af (stSat st) first old (columnSum ai bj) (anyNan ai bj)
      let v := if af = 3 then vf.1.setCell64 acc i j x else vf.1.setCell acc i j x
      let v := if ao ≠ 0 then v.mark acc i j ao else if bo ≠ 0 then v.mark acc i j bo else v
      (v, flOr vf.2 fl)
    let (v, fl) := (List.range 32).foldl
      (fun vf i => (List.range 32).foldl (fun vf j => step vf i j) vf) (v0, 0)
    let v := v.setSt acc (setBits (setBits (v.st acc) 0 2 af) 32 32 (2 ^ 32 - 1))
    let v := if af = 3 then v.setSt (acc + 1) (setBits (v.st (acc + 1)) 0 2 3) else v
    { T with vat := v.raise acc fl }

/-! ## Draining (R127, R134) -/

/-- A cell's poison mark; a cell of an FP64 pair is marked where either half is. -/
def VatCore.cellMark (v : VatCore) (acc row col : Nat) : Option Word :=
  (v.halves acc).findSome? fun a =>
    let m := tget 0 v.accPois (cellKey a row col)
    if m = 0 then none else some m

/-- Whether a cell, or either half of a pair's, mismatches its residue. -/
def VatCore.cellResid (v : VatCore) (acc row col : Nat) : Bool :=
  (v.halves acc).any fun a => v.resid.any (· == cellKey a row col)

/-- The origin that a drained element's poison carries (R127, R134): its cell's, else the partner row's, else the drain's own,
of cause RESIDUE. -/
def Tile.drainOrg (T : Tile) (c : FabCtx) (acc row col : Nat) (partner : Option Word) : Option Word :=
  match T.vat.cellMark acc row col, partner with
  | some o, _ | none, some o => some o
  | none, none => if T.vat.cellResid acc row col then some (c.origin slotM 0x24) else none

/-- One cell converted for a drain (R96 to R98): element bits, flags (log entry 111). -/
def Tile.drainCell (T : Tile) (c : FabCtx) (acc row col : Nat) : Nat × Nat :=
  let v := T.vat
  let home := v.home acc
  let st := v.st home
  let t := EType.ofCode (stDrain st)
  let mode := RMode.ofCode (stRm st)
  let draw := if mode = .sr then
      plohan (T.srbase % 2 ^ 32 + 1024 * c.riter + 32 * row + col)
        (2 ^ 31 + 2 ^ 30 + T.srbase / 2 ^ 32 * 256 + c.word) T.key0 T.key1
    else 0
  match stAfmt st, t.kind with
  | 2, .int sg =>
    let x := intOf true 32 (v.cell acc row col)
    (fitInt sg (stSat st) t.w x, if stSat st ∧ clampInt sg t.w x ≠ x then flSAT else 0)
  | af, kind =>
    let x : FVal :=
      if af = 2 then
        let y := intOf true 32 (v.cell acc row col)
        .fin (decide (y < 0)) y.natAbs 0
      else if af = 3 then Fmt.fp64.decode (v.cell64 acc row col)
      else if af = 1 then Fmt.fp32.decode (v.cell acc row col)
      else .fin false 0 0
    let r := t.ofX mode (stSat st) draw (.exact x)
    (r.bits, match kind with
      | .flt _ => r.flags
      | .int _ => (if r.nx then flNX else 0) + (if r.ovf then flSAT else 0))

/-- The line AOUT takes from a drain of a part of a row, and the flags: `partner` is the origin of poison in the same
row of a pair partner's accumulator. The bits beneath a poisoned element are the model's (log entry 124). -/
def Tile.drainLine (T : Tile) (c : FabCtx) (acc row part : Nat) (partner : Option Word) : Line × Nat :=
  let st := T.vat.st (T.vat.home acc)
  let t := EType.ofCode (stDrain st)
  if stAfmt (T.vat.st acc) = 3 ∧ acc % 2 = 1 then
    (⟨0, BitVec.allOnes 64, c.origin slotM 0x16⟩, 0)
  else if 32 * t.w ≤ 512 * part then (Line.zero, 0)
  else
    let cells := (List.range 32).map fun j => (T.drainCell c acc row j, T.drainOrg c acc row j partner)
    let els := cells.map fun e => some (e.1.1, e.2.isSome)
    let bits := VOut.bits t.w els
    let pois := VOut.marks t.w (fun e => match e with | some (_, b) => b | none => false) els
    let per := 512 / t.w
    let mine := (cells.drop (part * per)).take per
    let org := (mine.findSome? fun e => e.2).getD 0
    let p := bitsOf pois (64 * part) 64
    (⟨BitVec.ofNat 512 (bitsOf bits (512 * part) 512), BitVec.ofNat 64 p, if p = 0 then 0 else org⟩,
      cells.foldl (fun fl e => flOr fl e.1.2) 0)

/-- A row that holds poison in its cells, of either half of a pair. -/
def VatCore.rowPois (v : VatCore) (acc row : Nat) : Option Word :=
  (v.halves acc).findSome? fun a => v.poisIn a row 1

/-- MXDRNC's clear of a row: its cells become 0 and LIVE loses the row; the accumulator may become empty, and its
flags are cleared (R109, R127). -/
def VatCore.clearRow (v : VatCore) (acc row : Nat) : VatCore :=
  let v' := (v.halves acc).foldl (fun v a => v.zeroRows a row 1) v
  let h := v.home acc
  let live := stLive (v.st h)
  let live' := if live.testBit row then live - 2 ^ row else live
  let v' := v'.setSt h (setBits (setBits (v'.st h) 2 5 0) 32 32 live')
  if live' = 0 then (v.halves acc).foldl (fun v a => v.empty1 a) v' else v'

/-! ## Pairs (R130) -/

/-- The partner of a tile: the other tile of its two columns. -/
def partnerOf (t : Nat) : Nat := if t % 2 = 0 then t + 1 else t - 1

/-- Bind or unbind a vat. -/
def Tile.bindVat (T : Tile) (east on : Bool) : Tile :=
  { T with vctl := (T.vctl.setSt 1 1 on.toNat).setSt 2 1 (on && east).toNat }

def Tile.setPmis (T : Tile) : Tile := { T with vctl := T.vctl.setSt 3 1 1 }

end Sys2Proof.Machine
end

