-- ==== Sys2Proof/Machine/StreamOps.lean ====
section
/-! DEFINITION. Shared operations of the S slot (R160 to R180, R252, R255, R256, R266): pond and slot words, first-read
checks, slot writes, generators, ports. -/

namespace Sys2Proof.Machine

/-! ## What a word of the fabric does -/

/-- The result of an S-slot operation beyond its tile: tokens for the region, a condition for its queue, a grant. -/
structure FabOut where
  tiles : Tab Tile
  toks : List Token
  kedge : Option Bool
  grant : Option Grant
  deriving DecidableEq, Repr

def FabOut.pure (ts : Tab Tile) : FabOut := ⟨ts, [], none, none⟩

/-- An operation on the executing tile alone. -/
def onTile (c : FabCtx) (ts : Tab Tile) (f : Tile → Tile × List Token) : FabOut :=
  let r := f (tget Tile.zero ts c.t)
  ⟨tset Tile.zero ts c.t r.1, r.2, none, none⟩

/-- An operation on the executing tile that sends no token. -/
def onTile1 (c : FabCtx) (ts : Tab Tile) (f : Tile → Tile) : FabOut := onTile c ts fun T => (f T, [])

/-! ## First-read checks (R163) -/

/-- The first failing check of a slot at index x: all three, or orders 1 and 2 only. -/
def Tile.checkSlot (T : Tile) (p x : Nat) (stamp : Bool) : Option Nat :=
  let m := T.slot p x
  let e := (T.pond p).entry
  if smState m ≠ 2 then some 0x14
  else if smTag m ≠ x % 2 ^ 16 then some 0x12
  else if stamp && (decide (smSwz m ≠ peSwz e) || decide (smFmt m ≠ peFmt e)) then some 0x13
  else none

/-- A slot read in this firing: its pond and its index, which is a 32-bit count (R254). -/
def seenKey (p x : Nat) : Nat := 2 ^ 32 * p + x % 2 ^ 32
def Tile.isSeen (T : Tile) (p x : Nat) : Bool := T.seen.any (· == seenKey p x)
def Tile.addSeen (T : Tile) (p x : Nat) : Tile :=
  if T.isSeen p x then T else { T with seen := seenKey p x :: T.seen }

/-- A first read: the check when the slot has not been read in this firing, and the slot then counts as read. -/
def Tile.firstRead (T : Tile) (p x : Nat) : Tile × Option Nat :=
  if T.isSeen p x then (T, none) else (T.addSeen p x, T.checkSlot p x true)

/-! ## Lines -/

/-- The read of line l of the slot at index x counts a correction where it makes one (R275). -/
def Tile.noteSlot (T : Tile) (p x l : Nat) : Tile :=
  let e := (T.pond p).entry
  T.noteRead (peBank e) (peLine e x l % 1536)

/-- A bank line as a read at slot S finds it: an uncorrectable line is poison (R275). -/
def Tile.bankLine (T : Tile) (c : FabCtx) (b l : Nat) : Line :=
  let v := tget 0 T.banks (1536 * b + l)
  if T.bankUe.any (· == 1536 * b + l) then ⟨v, BitVec.allOnes 64, c.origin slotS 0x23⟩ else ⟨v, 0, 0⟩

def Line.poisoned (l : Line) (org : Word) : Line := ⟨l.bits, BitVec.allOnes 64, org⟩

/-- What a read of line l of the slot at index x delivers (R163, R165, R175): `bad` is a failed check's cause. -/
def Tile.slotLine (T : Tile) (c : FabCtx) (p x l : Nat) (bad : Option Nat) : Line :=
  let e := (T.pond p).entry
  let m := T.slot p x
  let raw := T.bankLine c (peBank e) (peLine e x l % 1536)
  match bad with
  | some cause => raw.poisoned (c.origin slotS cause)
  | none =>
    let v := if smSluice m then Line.zero else raw
    if smPois m then v.poisoned (c.origin slotS 0x10) else v

/-! ## Slot writes (R161) -/

/-- What a write takes from: a pond's own working index, or a remote pointer's; the slot's geometry and the stamp. -/
structure WTarget where
  entry : Word
  swz : Nat
  fmt : Nat
  deriving DecidableEq, Repr

/-- The outcome of a slot write judged in its cycle. -/
structure WOut where
  tile : Tile
  toks : List Token
  /-- the firing closed the slot with this write -/
  closed : Bool

/-- A slot that a write of the firing may enter: EMPTY, or STAGED by a write of the same firing (R161). -/
def Tile.mayStage (T : Tile) (key : Nat) : Bool :=
  let m := tget 0 T.slots key
  decide (smState m = 0) || (decide (smState m = 1) && T.staged.any (· == key))

/-- Write line l of the slot at index x of pond p (R161): suppressed on a slot that is FULL or STAGED by an earlier firing
(FULLBIT) and for a poisoned value (a sink of the given kind, the slot marked POIS); the line lands `delay` cycles later;
the last line closes the slot with its tag and the writer's stamp, and counts one produced token, in the cycle that takes
the data, or later where the caller closes it (`late`; log entry 94). -/
def Tile.writeSlot (T : Tile) (c : FabCtx) (p x l : Nat) (w : WTarget) (v : Line) (delay kind : Nat) (late : Bool := false) : WOut :=
  let key := slotKey p x w.entry
  let m := tget 0 T.slots key
  if v.pois ≠ 0 then
    ⟨{ T with slots := tset 0 T.slots key (smSet m 3 1 1) }, [c.sinkTok slotS v.org kind], false⟩
  else if !T.mayStage key then ⟨T, [c.direct slotS 0x14], false⟩
  else
    let last := decide (l + 1 = peLines w.entry)
    let m1 := smSet m 0 2 1
    let m2 := if last && !late then smClose m1 x w.swz w.fmt else m1
    let T1 := { T with slots := tset 0 T.slots key m2
                       staged := addNew key T.staged }
    let d : Deliv := ⟨c.cyc + delay, .bank (peBank w.entry) (peLine w.entry x l % 1536), v, BitVec.allOnes 64⟩
    let T2 := if delay = 0 then T1.land d else { T1 with dels := T1.dels ++ [d] }
    let T3 := if last && !late then T2.setPond p (T2.pond p).countProd else T2
    ⟨T3, [], last⟩

/-- The own declaration of a pond. -/
def Tile.ownTarget (T : Tile) (p : Nat) : WTarget :=
  let e := (T.pond p).entry
  ⟨e, peSwz e, peFmt e⟩

/-- PWR's write at the working write index. -/
def Tile.localWrite (T : Tile) (c : FabCtx) (p l : Nat) (v : Line) : Tile × List Token :=
  let r := T.writeSlot c p (T.pond p).ww.toNat l (T.ownTarget p) v 1 skPond
  (if r.closed then r.tile.bumpWrite p else r.tile, r.toks)

/-! ## Neighbours (R10, R74, R165) -/

/-- The neighbour of a tile through a port (0 north, 1 east, 2 south, 3 west) inside the region of the context. -/
def neighbour (c : FabCtx) (port : Nat) : Option Nat :=
  let col := c.t % 64
  let row := c.t / 64
  let c0 := c.west % 64
  let r0 := c.west / 64
  match port with
  | 0 => if r0 < row then some (c.t - 64) else none
  | 1 => if col + 1 < c0 + c.w then some (c.t + 1) else none
  | 2 => if row + 1 < r0 + c.h then some (c.t + 64) else none
  | _ => if c0 < col then some (c.t - 1) else none

/-- Cycles of one hop between two neighbouring tiles: 3 across a die boundary, else 1. -/
def hopCycles (a b : Nat) : Nat :=
  if (a % 64 / 32 ≠ b % 64 / 32) ∨ (a / 64 / 16 ≠ b / 64 / 16) then 3 else 1

def facing (port : Nat) : Nat := (port + 2) % 4

def rptrKey (port p : Nat) : Nat := 32 * port + p

/-- A write through a remote pointer of the executing tile (R162, R165): the neighbour's slot is judged now, its line
lands after 1 + h cycles, and pointer and pond keep one write index. -/
def remoteWrite (c : FabCtx) (ts : Tab Tile) (port p l : Nat) (v : Line) : FabOut :=
  let T := tget Tile.zero ts c.t
  match neighbour c port with
  | none => FabOut.pure ts
  | some n =>
    let q := tget RPtr.zero T.rptr (rptrKey port p)
    let N := tget Tile.zero ts n
    let r := N.writeSlot c p q.work.toNat l ⟨q.entry, q.swz, q.fmt⟩ v (1 + hopCycles c.t n) skRemote
    let N' := if r.closed then r.tile.setPond p { r.tile.pond p with ww := q.work + 1 } else r.tile
    let T' := if r.closed then
        { T with rptr := tset RPtr.zero T.rptr (rptrKey port p) { q with work := q.work + 1 } } else T
    ⟨tset Tile.zero (tset Tile.zero ts n N') c.t T', r.toks, none, none⟩

/-! ## PADV, PTAGC (R166) -/

/-- The first failing check among the slots passed that the firing has not read. -/
def Tile.passCheck (T : Tile) (p x : Nat) : Nat → Option Nat
  | 0 => none
  | n + 1 => match (if T.isSeen p x then none else T.checkSlot p x false) with
    | some cause => some cause
    | none => Tile.passCheck T p (x + 1) n

/-- How many of the slots passed are sluice slots. -/
def Tile.passSluice (T : Tile) (p x : Nat) : Nat → Nat
  | 0 => 0
  | n + 1 => (if smSluice (T.slot p x) then 1 else 0) + Tile.passSluice T p (x + 1) n

/-- PADV (R163, R166, R266): it passes slots without reading them. A sluice slot passed in a normal firing sets CONS to
1,023. -/
def Tile.advance (T : Tile) (c : FabCtx) (p n : Nat) : Tile × List Token :=
  let q := T.pond p
  let x := q.wr.toNat
  let sl := T.passSluice p x n
  let q1 := { q with wr := q.wr + BitVec.ofNat 32 n }
  let q2 := if sl ≠ 0 ∧ !c.sluice then { q1 with mon := monSet q1.mon 0 10 1023 } else q1.countCons (n - sl)
  (T.setPond p q2, match T.passCheck p x n with
    | some cause => [c.direct slotS cause]
    | none => [])

/-! ## Generators (R170 to R173) -/

def gBase (i : BitVec 128) : Nat := bitsOf i.toNat 3 11
def gStr1 (i : BitVec 128) : Int := intOf true 12 (bitsOf i.toNat 14 12)
def gCnt1 (i : BitVec 128) : Nat := bitsOf i.toNat 26 12
def gStr2 (i : BitVec 128) : Int := intOf true 12 (bitsOf i.toNat 67 12)
def gCnt2 (i : BitVec 128) : Nat := bitsOf i.toNat 79 12
def gBank (i : BitVec 128) : Nat := bitsOf i.toNat 91 3
def gLane (i : BitVec 128) : Nat := bitsOf i.toNat 94 4
def gMode (i : BitVec 128) : Nat := bitsOf i.toNat 98 3
def gPond (i : BitVec 128) : Nat := bitsOf i.toNat 101 5

/-- An image that R170 admits: no ILLEGAL_WORD field, every must-be-zero bit zero; bits [2:0] and [66:64] are ignored. -/
def gLegal (i : BitVec 128) : Bool :=
  decide (gBase i ≤ 1535) && decide (bitsOf i.toNat 38 26 = 0) && (decide (gLane i ≤ 7) || decide (gLane i = 15)) &&
    decide (gMode i ≤ 4) && decide (bitsOf i.toNat 106 22 = 0) && (decide (3 ≤ gMode i) || decide (gPond i = 0))

def rsRun (w : Word) : Bool := decide (bitsOf w.toNat 0 1 = 1)
def rsHeld (w : Word) : Bool := decide (bitsOf w.toNat 1 1 = 1)
def rsI (w : Word) : Nat := bitsOf w.toNat 2 12
def rsJ (w : Word) : Nat := bitsOf w.toNat 14 12
def rsSb (w : Word) : Nat := bitsOf w.toNat 26 32
def rsMake (run held : Bool) (i j sb : Nat) : Word :=
  BitVec.ofNat 64 (pack [(1, run.toNat), (1, held.toNat), (12, i), (12, j), (32, sb)])

/-- The address of a step, exact (R170). -/
def gAddr (img : BitVec 128) (i j : Nat) : Int := gBase img + i * gStr1 img + j * gStr2 img

/-- I and J after a step (R170): I advances; past CNT1 it returns to 0 and J advances, after the
last step too (log entry 35). -/
def gStep (img : BitVec 128) (i j : Nat) : Nat × Nat :=
  if i < gCnt1 img then (i + 1, j) else (0, (j + 1) % 2 ^ 12)

/-- Whether (I, J) is the last step of a run. -/
def gLast (img : BitVec 128) (i j : Nat) : Bool := decide (gCnt1 img ≤ i) && decide (gCnt2 img ≤ j)

def Tile.gen (T : Tile) (g : Nat) : Gen := tget Gen.zero T.gens g
def Tile.setGen (T : Tile) (g : Nat) (x : Gen) : Tile := { T with gens := tset Gen.zero T.gens g x }

/-- A bank line inside some pond window of the tile. -/
def Tile.inWindow (T : Tile) (b l : Nat) : Bool :=
  T.ponds.any fun e => peValid e.2.entry && decide (peBank e.2.entry = b) && decide (peOffset e.2.entry ≤ l) &&
    decide (l < peOffset e.2.entry + peLines e.2.entry * peCount e.2.entry)

/-- L mod 1,536. -/
def wrapLine (l : Int) : Nat := (l % 1536).toNat

/-- Advance a generator of MODE 0 by one step; after its last step it returns to step 0 (R167). -/
def Tile.genAdvance (T : Tile) (g : Nat) : Tile :=
  let x := T.gen g
  let (i, j) := if gLast x.img (rsI x.run) (rsJ x.run) then (0, 0) else gStep x.img (rsI x.run) (rsJ x.run)
  T.setGen g { x with run := rsMake (rsRun x.run) (rsHeld x.run) i j (rsSb x.run) }

/-- LDT (R167). -/
def Tile.loadThrough (T : Tile) (c : FabCtx) (g off : Nat) (adv : Bool) : Tile :=
  let x := T.gen g
  let l := wrapLine (gAddr x.img (rsI x.run) (rsJ x.run) + off)
  let b := gBank x.img
  let raw := T.bankLine c b l
  let v := if gMode x.img ≠ 0 ∨ T.inWindow b l then raw.poisoned (c.origin slotS 0x06) else raw
  let T1 := (T.noteRead b l).send (c.cyc + 3) .pin v
  if adv then T1.genAdvance g else T1

/-- STT (R167). -/
def Tile.storeThrough (T : Tile) (c : FabCtx) (g off : Nat) (adv : Bool) : Tile × List Token :=
  let x := T.gen g
  let l := wrapLine (gAddr x.img (rsI x.run) (rsJ x.run) + off)
  let b := gBank x.img
  let T2 := fun (T : Tile) => if adv then T.genAdvance g else T
  if gMode x.img ≠ 0 ∨ T.inWindow b l then (T2 T, [c.direct slotS 0x06])
  else
    match latchAt T.dels .pout c.cyc with
    | none => (T2 T, [])
    | some v =>
      if v.pois ≠ 0 then (T2 T, [c.sinkTok slotS v.org skStt])
      else (T2 (T.send (c.cyc + 1) (.bank b l) v), [])

/-- AGGO (R167, R172). -/
def Tile.genStart (T : Tile) (c : FabCtx) (g : Nat) (resume : Bool) : Tile × List Token :=
  let x := T.gen g
  let m := gMode x.img
  if resume then
    if rsHeld x.run then
      (T.setGen g { x with run := rsMake true false (rsI x.run) (rsJ x.run) (rsSb x.run) }, [])
    else (T, [])
  else if m = 0 then (T.setGen g { x with run := rsMake false (rsHeld x.run) 0 0 (rsSb x.run) }, [])
  else if gLane x.img = 15 then (T, [c.direct slotS 0x16])
  else
    let sb := if m = 3 then (T.pond (gPond x.img)).wr.toNat
      else if m = 4 then (T.pond (gPond x.img)).ww.toNat else rsSb x.run
    (T.setGen g ⟨x.img, x.img, rsMake true false 0 0 sb⟩, [])

/-- AGSTOP (R173). -/
def Tile.genStop (T : Tile) (g : Nat) : Tile :=
  let x := T.gen g
  if rsRun x.run then
    T.setGen g { x with run := rsMake false true (rsI x.run) (rsJ x.run) (rsSb x.run) }
  else T

/-- AGLD (R173). -/
def Tile.genLoad (T : Tile) (c : FabCtx) (g lane : Nat) : Tile × List Token :=
  let x := T.gen g
  match laneAt T.dels lane (posBank (gBank x.img)) c.cyc with
  | none => (T, [])
  | some v =>
    let img : BitVec 128 := v.bits.setWidth 128
    if v.bytePois 0 16 then (T, [c.sinkTok slotS v.org skAgld])
    else if gLegal img then (T.setGen g { x with img := img }, [])
    else (T, [c.direct slotS 0x16])

/-- The step of a running generator in the context's cycle (R172). -/
def Tile.genStep (T : Tile) (c : FabCtx) (g : Nat) : Tile × List Token :=
  let x := T.gen g
  if !rsRun x.run then (T, [])
  else
    let im := x.lat
    let i := rsI x.run
    let j := rsJ x.run
    let b := gBank im
    let la := gAddr im i j
    let p := gPond im
    let e := (T.pond p).entry
    let n := peLines e
    let (i', j') := gStep im i j
    let run' := rsMake (!gLast im i j) false i' j' (rsSb x.run)
    let T1 := T.setGen g { x with run := run' }
    let drive := fun (T : Tile) (v : Line) =>
      if gLane im ≤ 7 then T.send (c.cyc + 2) (.lane (gLane im) (posBank b)) v else T
    let taken := if gLane im ≤ 7 then laneAt T.dels (gLane im) (posBank b) c.cyc else none
    let outside := decide (la < 0) || decide ((n * peCount e : Nat) ≤ la)
    let slot := rsSb x.run + la.toNat / n
    let line := la.toNat % n
    match gMode im with
    | 1 =>
      let l := wrapLine la
      let raw := T.bankLine c b l
      (drive (T1.noteRead b l) (if T.inWindow b l then raw.poisoned (c.origin slotS 0x06) else raw), [])
    | 2 =>
      let l := wrapLine la
      if T.inWindow b l then (T1, [c.direct slotS 0x06])
      else match taken with
        | none => (T1, [])
        | some v =>
          if v.pois ≠ 0 then (T1, [c.sinkTok slotS v.org skGen]) else (T1.send (c.cyc + 1) (.bank b l) v, [])
    | 3 =>
      if outside then (drive T1 ((T.bankLine c b (wrapLine la)).poisoned (c.origin slotS 0x06)), [])
      else
        let (T2, bad) := T1.firstRead p slot
        (drive (T2.noteSlot p slot line) (T2.slotLine c p slot line bad), match bad with
          | some cause => [c.direct slotS cause]
          | none => [])
    | 4 =>
      if outside then (T1, [c.direct slotS 0x06])
      else match taken with
        | none => (T1, [])
        | some v =>
          let r := T1.writeSlot c p slot line (T1.ownTarget p) v 1 skGen true
          (if r.closed then r.tile.send (c.cyc + 1) (.close p slot false 0 (peSwz e) (peFmt e)) Line.zero else r.tile, r.toks)
    | _ => (T1, [])

/-! ## Ports (R168) -/

/-- SOUT: a line to the neighbour's facing port, h cycles later; nothing where there is no line. -/
def portSend (c : FabCtx) (ts : Tab Tile) (port : Nat) (v : Option Line) : FabOut :=
  match neighbour c port, v with
  | some n, some l =>
    FabOut.pure (tset Tile.zero ts n
      ((tget Tile.zero ts n).send (c.cyc + hopCycles c.t n) (.port (facing port)) l))
  | _, _ => FabOut.pure ts

/-- SIN: the line that arrives at the port goes to PIN and, if named, to a lane, one cycle later. -/
def Tile.portTake (T : Tile) (c : FabCtx) (port lane : Nat) : Tile :=
  match latchAt T.dels (.port port) c.cyc with
  | none => T
  | some v =>
    let T1 := T.send (c.cyc + 1) .pin v
    if lane ≤ 7 then T1.send (c.cyc + 1) (.lane lane (posPort port)) v else T1

/-! ## Sluice slots (R175) -/

/-- SLFWD to the local pond: a closed sluice slot at the working write index, counted in SLFW. The slot is judged as R161
judges a write. -/
def Tile.sluiceLocal (T : Tile) (c : FabCtx) (p nrs : Nat) : Tile × List Token :=
  let q := T.pond p
  let key := slotKey p q.ww.toNat q.entry
  if !T.mayStage key then (T, [c.direct slotS 0x14])
  else
    let T1 := { T with staged := addNew key T.staged }.closeSlot p q.ww.toNat true nrs (peSwz q.entry) (peFmt q.entry)
    (T1.setPond p { q with ww := q.ww + 1 }.countSlfw, [])

/-- SLFWD through a remote pointer: the slot is the neighbour's, judged now and staged in t + 1 + h (R161, R181); the count
stays on the producing pond (R266). -/
def sluiceRemote (c : FabCtx) (ts : Tab Tile) (port p nrs : Nat) : FabOut :=
  let T := tget Tile.zero ts c.t
  match neighbour c port with
  | none => FabOut.pure ts
  | some n =>
    let q := tget RPtr.zero T.rptr (rptrKey port p)
    let N := tget Tile.zero ts n
    let key := slotKey p q.work.toNat q.entry
    if !N.mayStage key then ⟨ts, [c.direct slotS 0x14], none, none⟩
    else
      let N' := { N with staged := addNew key N.staged }.send (c.cyc + 1 + hopCycles c.t n)
        (.close p q.work.toNat true nrs q.swz q.fmt) Line.zero
      let N' := N'.setPond p { N'.pond p with ww := q.work + 1 }
      let T' := { T with rptr := tset RPtr.zero T.rptr (rptrKey port p) { q with work := q.work + 1 } }
      let T' := T'.setPond q.spond (T'.pond q.spond).countSlfw
      ⟨tset Tile.zero (tset Tile.zero ts n N') c.t T', [], none, none⟩

end Sys2Proof.Machine
end

