-- ==== Sys2Proof/Machine/FabricRun.lean ====
section
/-! DEFINITION. Running a slot of a fabric word: the context of the executing tile, and what its result changes in the
state (R25, R45, R46, R55). -/

namespace Sys2Proof.Machine

/-- The iteration counter of a region in this cycle (R26, R40): of the row that the west edge has selected, of the
iteration that a bubble ends. -/
def Region.iterNow (R : Region) : Nat :=
  match R.sels.head? with
  | some (some (_, i)) => i
  | _ => if R.ended || decide (R.iter = 0) || decide (R.pos ≠ 0) then R.iter else R.iter - 1

/-- The context of a tile of a region for a word (R25, R339). -/
def State.fabCtx (s : State) (r t word iter : Nat) : FabCtx :=
  let R := s.region r
  { t := t, r := r, word := word, iter := iter, riter := R.iterNow, cyc := R.rcyc, fcyc := (s.part R.part).fcyc,
    west := r / 32 * 2 * 64 + r % 32 * 2, w := 2 * R.w, h := 2 * R.h, sluice := decide (R.kind = .sluice) }

/-- Put the result of a fabric operation into the state: tiles, tokens and condition for the region, grants. -/
def State.putFab (s : State) (r : Nat) (o : FabOut) : State :=
  let R := s.region r
  { s.setRegion r { R with
      tokens := R.tokens ++ o.toks
      kedges := match o.kedge with
        | some v => R.kedges ++ [(R.rcyc + 1, v)]
        | none => R.kedges
      grants := match o.grant with
        | some g => R.grants ++ [g]
        | none => R.grants } with tiles := o.tiles }

/-- Run a fabric operation in the executing tile. -/
def onFabric (s : State) (f : FabCtx → Tab Tile → FabOut) : Host.Outcome State Fault Refusal :=
  match s.cur with
  | .tile r t word iter => .next (s.putFab r (f (s.fabCtx r t word iter) s.tiles))
  | _ => .fault .wrongUnit

/-- An operation on the executing tile that may send tokens. -/
def tileOp (s : State) (f : FabCtx → Tile → Tile × List Token) : Host.Outcome State Fault Refusal :=
  onFabric s fun c ts => onTile c ts (f c)

/-- An operation on the executing tile that sends none. -/
def tileOp1 (s : State) (f : FabCtx → Tile → Tile) : Host.Outcome State Fault Refusal :=
  onFabric s fun c ts => onTile1 c ts (f c)

/-- An FL word (R55): its effect, and PAYLOAD in the immediate latch. -/
def longOp (s : State) (i : Instr) (f : FabCtx → Tile → Tile) : Host.Outcome State Fault Refusal :=
  tileOp1 s fun c T =>
    let T1 := f c T
    { T1 with imm := some (c.iter, payload i), kUe := T1.kUe.filter (· ≠ 8) }

end Sys2Proof.Machine
end

