-- ==== Sys2Proof/Machine/Ops.lean ====
section
/-! DEFINITION. Named operations over threads and memory bytes, and the freeze of a thread or a region (R33, R34, R41,
R183 to R187, R334 to R342), with the resumption beside it. -/

namespace Sys2Proof.Machine

/-! ## Numbers of units (R10, R34, log entry 27) -/

def tileDie (t : Nat) : Nat := t / 64 / 16 * 2 + t % 64 / 32
/-- The north-west tile of a region: its id is the block's number (R10, R11). -/
def regionTile (r : Nat) : Nat := r / 32 * 2 * 64 + r % 32 * 2
def regionDie (r : Nat) : Nat := tileDie (regionTile r)
def ctxThread (die ctx : Nat) : Nat := Config.ctxBase + 32 * die + ctx
def isCtx (t : Nat) : Bool := decide (Config.ctxBase ≤ t) && decide (t < Config.rauBase)
def rauThread (r : Nat) : Nat := Config.rauBase + r
def isRau (t : Nat) : Bool := decide (Config.rauBase ≤ t)
def rauRegion (t : Nat) : Nat := t - Config.rauBase
/-- The die of a thread's core. -/
def threadDie (t : Nat) : Nat := if isRau t then regionDie (rauRegion t) else (t - Config.ctxBase) / 32 % 4
/-- The tiles of a region, row by row. -/
def Region.tilesOf (R : Region) (r : Nat) : List Nat :=
  (List.range (2 * R.h)).flatMap fun y => (List.range (2 * R.w)).map fun x => regionTile r + 64 * y + x

def Kind.code : Kind → Nat
  | .service => 0
  | .runAhead => 1
  | .handler => 2
  | .cellar => 3

/-- THREADID (R41): kind, die, unit; the unit of a context is its number within the die (log entry 27). -/
def threadId (t : Nat) (k : Kind) : Nat :=
  let unit := if isRau t then rauRegion t else if isCtx t then (t - Config.ctxBase) % 32 else t
  let die := if isCtx t || isRau t then threadDie t else 0
  k.code * 2 ^ 30 + die * 2 ^ 28 + unit

/-! ## Thread registers (R33, R41, R186) -/

/-- s0 to s31 as 0 to 31, h0 to h3 as 32 to 35; s0 reads as zero. -/
def Thread.getR (T : Thread) (n : Nat) : Word :=
  if n = 0 then 0 else if n < 32 then tget 0 T.regs n else tget 0 T.h (n - 32)

/-- A write of s0 has no effect; a write of an h register clears its tag. -/
def Thread.setR (T : Thread) (n : Nat) (v : Word) : Thread :=
  if n = 0 then T
  else if n < 32 then { T with regs := tset 0 T.regs n v }
  else { T with h := tset 0 T.h (n - 32) v
                htag := tset false T.htag (n - 32) false }

def Thread.tag (T : Thread) (n : Nat) : Bool := tget false T.htag (n - 32)

/-- Whether a thread is of a kind; a take-over thread is of kind C as well (R186). -/
def Thread.isKind (T : Thread) (k : Kind) : Bool := decide (T.kind = k) || (T.takeover && decide (k = .cellar))
def Thread.kindIn (T : Thread) (ks : List Kind) : Bool := ks.any T.isKind
def Thread.hasH (T : Thread) : Bool := decide (T.kind = .handler)

def kAll : List Kind := [.service, .runAhead, .handler, .cellar]
def kSHC : List Kind := [.service, .handler, .cellar]

/-- The instruction completes: PC + 1, the next one may start `hold` cycles later (R183, R184). -/
def Thread.complete (T : Thread) (now hold : Nat) : Thread := { T with pc := T.pc + 1, nextAt := now + hold }

/-- A result that is usable `lat` cycles after the issue (R184). -/
def Thread.result (T : Thread) (now : Nat) (d lat : Nat) (v : Word) : Thread :=
  { T.setR d v with ready := tset 0 T.ready d (now + lat) }

/-! ## Freezes (R334 to R342) -/

/-- What a freeze is told: cause, DETAIL, FADDR, ORIGIN, SINK, AUX, QUIESCE. -/
structure FreezeInfo where
  cause : Nat
  detail : Nat := 0
  faddr : Word := 0
  origin : Word := 0
  sink : Word := 0
  aux : Word := 0
  quiesce : Bool := false
  deriving DecidableEq, Repr

def FUnit.kind : FUnit → Nat
  | .region _ => 1
  | .rau _ => 2
  | .handler _ => 3
  | .service _ => 4
  | .cellar _ => 5
  | .chain _ => 6
  | .remote _ => 7
  | .partition _ => 8

def FUnit.id : FUnit → Nat
  | .region r | .rau r => r
  | .handler t | .service t => t - Config.ctxBase
  | .cellar c | .chain c | .remote c | .partition c => c

/-- The rights given to each kind (R340), bits 56 to 60: inspect, patch, resume, kill, step. -/
def FUnit.rights : FUnit → Nat
  | .region _ => 15
  | .rau _ | .handler _ | .service _ | .cellar _ => 31
  | .chain _ | .remote _ => 5
  | .partition _ => 13

/-- The capability over a freeze (R340). -/
def hcapWord (u : FUnit) (serial : Nat) : Word :=
  BitVec.ofNat 64 (pack [(32, serial), (16, u.id), (8, u.kind), (5, u.rights)])

/-- FUNIT of a fabric unit (R41); `t` is the tile named. -/
def funitFabric (part r t stage : Nat) : Word :=
  BitVec.ofNat 64 (pack [(24, 0), (16, stage), (5, t / 64), (6, t % 64), (9, r), (4, part)])

/-- FUNIT of a control thread (R41). -/
def funitThread (T : Thread) (t : Nat) : Word :=
  let id := threadId t T.kind
  let r := rauRegion t
  let place := if isRau t then pack [(5, regionTile r / 64), (6, regionTile r % 64), (9, r)] else 0
  BitVec.ofNat 64 (pack [(20, id % 2 ^ 20), (4, id / 2 ^ 28), (16, 0xFFFF), (20, place),
    (4, if T.kind = .cellar then 0 else T.part)])

/-- The next freeze serial: it skips 0 when it wraps (R340). -/
def nextSerial (n : Nat) : Nat := if (n + 1) % 2 ^ 32 = 0 then 1 else (n + 1) % 2 ^ 32

/-- The eight words of a fault record (R338). -/
def recordWords (s : State) (u : FUnit) (serial part nest : Nat) (precise preheld : Bool) (funit : Word)
    (i : FreezeInfo) : List Word :=
  let frame := if part < 16 then (s.part part).frame else 0
  [hcapWord u serial,
    BitVec.ofNat 64 (pack [(8, i.cause), (8, i.detail), (2, nest), (1, precise.toNat), (1, i.quiesce.toNat),
      (1, preheld.toNat), (11, 0), (32, frame)]),
    funit, i.faddr, i.origin, i.sink, BitVec.ofNat 64 s.now, i.aux]

/-- Latch the record of a freeze (R342): it takes the next serial and asks for a pool entry; a cellar core's record
goes to its own place (R341). -/
def State.latchFreeze (s : State) (u : FUnit) (part die nest : Nat) (precise : Bool) (funit : Word)
    (i : FreezeInfo) : State :=
  let n := nextSerial s.freezeSerial
  let words := recordWords s u n part nest precise (decide (part < 16) && (s.part part).preheld.isSome) funit i
  let f : Freeze := ⟨n, u, part, die, words, i.cause, s.now, nest, none, none, false, false, false, 0⟩
  let s1 := { s with freezeSerial := n, freezes := s.freezes ++ [f] }
  match u with
  | .cellar c =>
    let put := fun (w : Tab Word) (k : Nat) => tset 0 w (Config.crb + 0x9000 + 0x40 * c + 8 * k) (words.getD k 0)
    { s1 with win := (List.range 8).foldl put s1.win }
  | _ => s1

/-- The unit a thread is in a freeze record. -/
def threadUnit (T : Thread) (t : Nat) : FUnit :=
  match T.kind with
  | .cellar => .cellar t
  | .runAhead => .rau (rauRegion t)
  | .handler => if isCtx t then .handler t else .cellar t
  | .service => .service t

/-! ### Regions -/

/-- The end of a cycle in which a tile's region freezes: the register and mask writes on their way land in the order in
which they are due, the bank writes of the cycle land, and the sinks not yet met are dropped: a frozen unit takes no
further fault. Every other delivery, a later bank write among them, is held (R142, R180, R334; log entry 19). -/
def Tile.settle (T : Tile) (cyc : Nat) : Tile :=
  let now := fun (d : Deliv) => match d.dst with
    | .bank _ _ => decide (d.at_ ≤ cyc)
    | _ => false
  let reg := fun (d : Deliv) => match d.dst with
    | .vreg _ _ | .kreg _ => true
    | _ => false
  let T1 := (T.dels.filter now).foldl (fun T d => T.land d) T
  let T2 := (List.range 16).foldl (fun T k =>
    (T.dels.filter fun d => reg d && decide (d.at_ = cyc + 1 + k)).foldl (fun T d => T.land d) T) T1
  { T2 with dels := T.dels.filter fun d =>
      match d.dst with
      | .vreg _ _ | .kreg _ | .sink _ => false
      | .bank _ _ => !now d
      | _ => true }

def State.mapTiles (s : State) (ts : List Nat) (f : Tile → Tile) : State :=
  { s with tiles := ts.foldl (fun m t => tset Tile.zero m t (f (tget Tile.zero m t))) s.tiles }

/-- A region stops, and its run-ahead thread with it (R34). -/
def State.stopRegion (s : State) (r : Nat) : State :=
  let R := s.region r
  let s1 := s.setRegion r { R with frozen := true, tokens := [] }
  let s2 := s1.mapTiles (R.tilesOf r) fun T => T.settle R.rcyc
  let T := s2.thread (rauThread r)
  match T.status with
  | .running | .idle | .waiting _ => s2.setThread (rauThread r) { T with status := .frozen, saved := T.status }
  | _ => s2

/-- Freeze a region (R334): one record, whatever the number of tokens (R335). -/
def State.freezeRegion (s : State) (r t : Nat) (i : FreezeInfo) : State :=
  let R := s.region r
  if R.frozen then s
  else
    let s1 := s.latchFreeze (.region r) R.part (regionDie r) 0 false (funitFabric R.part r t R.stage) i
    s1.stopRegion r

/-- The order of R335: tile row, column, slot. -/
def Token.rank (t : Token) : Nat :=
  let o := t.sink.toNat
  bitsOf o 6 5 * 2 ^ 9 + bitsOf o 0 6 * 8 + bitsOf o 16 3

/-- The token that names the record, and how many others there are. -/
def firstToken : List Token → Option (Token × Nat)
  | [] => none
  | t :: ts => match firstToken ts with
    | none => some (t, 0)
    | some (u, n) => if t.rank ≤ u.rank then some (t, n + 1) else some (u, n + 1)

/-- The end of a cycle in a region: its tokens freeze it (R45, R335). -/
def State.regionTokens (s : State) (r : Nat) : State :=
  match firstToken (s.region r).tokens with
  | none => s
  | some (t, n) =>
    let o := t.sink.toNat
    s.freezeRegion r (bitsOf o 0 6 + 64 * bitsOf o 6 5)
      { cause := t.cause, detail := t.detail + 16 * min n 15, origin := t.origin, sink := t.sink, aux := t.aux }

/-- Resume a region and its thread (R227). -/
def State.resumeRegion (s : State) (r : Nat) : State :=
  let R := s.region r
  let s1 := s.setRegion r { R with frozen := false }
  let T := s1.thread (rauThread r)
  if T.status = .frozen then s1.setThread (rauThread r) { T with status := T.saved, nextAt := s.now + 1 } else s1

/-! ### Threads -/

/-- A thread stepped by FSTEP has run: the handler gets its result and goes on (R228). -/
def State.stepResult (s : State) (h d : Nat) (v : Word) : State :=
  let H := s.thread h
  s.setThread h ({ (H.result s.now d 1 v).complete s.now 1 with status := .running })

/-- Where FSTEP's result goes. -/
def Thread.stepD (T : Thread) : Nat :=
  match T.status with
  | .waiting (.fstep d _) => d
  | _ => 0

/-- A freeze of a thread that a handler steps: no new record, the handler's registers describe it (R228). -/
def State.stepFreeze (s : State) (t h : Nat) (T : Thread) (i : FreezeInfo) : State :=
  let s1 := s.setThread t { T with status := .frozen, saved := .running, stepBy := none }
  let H := s1.thread h
  let s2 := s1.setThread h { H with cause := i.cause, faddr := i.faddr, funit := funitThread T t }
  let upd := fun (f : Freeze) => if f.serial = H.serving then { f with cause := i.cause } else f
  let s3 := { s2 with freezes := s2.freezes.map upd }
  s3.stepResult h H.stepD (BitVec.ofNat 64 i.cause)

/-- Freeze a control thread at its instruction (R34, R334): PC and registers as before it. Its earlier loads still
complete (R225). A run-ahead thread takes its region with it. -/
def State.freezeThreadT (s : State) (t : Nat) (T : Thread) (i : FreezeInfo) : State :=
  match T.stepBy with
  | some h => s.stepFreeze t h T i
  | none =>
    let u := threadUnit T t
    let part := if T.kind = .cellar ∨ t < 2 then 16 else T.part
    let s1 := s.latchFreeze u part (threadDie t) (if T.kind = .handler then T.nest else 0) true (funitThread T t)
      { i with origin := T.pc }
    let s2 := s1.setThread t { T with status := .frozen, saved := .running }
    if isRau t then
      let r := rauRegion t
      let R := s2.region r
      let s3 := s2.setRegion r { R with frozen := true }
      s3.mapTiles (R.tilesOf r) fun T => T.settle R.rcyc
    else s2

/-- Freeze the thread that executes. -/
def State.freezeThread (s : State) (t cause : Nat) (faddr : Word := 0) : State :=
  s.freezeThreadT t (s.thread t) { cause := cause, faddr := faddr }

/-- Resume a frozen thread at its PC (R227). -/
def State.resumeThread (s : State) (t : Nat) : State :=
  let T := s.thread t
  s.setThread t { T with status := T.saved, nextAt := s.now + 1 }

/-! ## Running a control instruction -/

/-- Run an instruction in the executing thread, if its kind may (R185): else it freezes with PRIV before any effect. -/
def onThread (s : State) (ks : List Kind) (f : Nat → Thread → State) : Host.Outcome State Fault Refusal :=
  match s.cur with
  | .thread t =>
    let T := s.thread t
    if T.kindIn ks then .next (f t T) else .next (s.freezeThread t 0x03)
  | _ => .fault .wrongUnit

/-- A register result: D takes the value, usable after `lat` cycles, and the thread goes on. -/
def regOp (s : State) (d : BitVec 6) (lat : Nat) (f : Thread → Word) : Host.Outcome State Fault Refusal :=
  onThread s kAll fun t T => s.setThread t ((T.result s.now d.toNat lat (f T)).complete s.now 1)

/-- An event of the hub: it acts whatever unit the agenda ran before. -/
def hubOp (s : State) : Host.Outcome State Fault Refusal := .next s

/-! ## Free choices -/

/-- Draw a free number below n (n above 0), and advance the counter (log entry 5). -/
def State.choose (s : State) (n : Nat) : Nat × State :=
  (Config.freeNat s.free % n, { s with free := s.free + 1 })

end Sys2Proof.Machine
end

