-- ==== Sys2Proof/Machine/Alu.lean ====
section
/-! DEFINITION. The meanings of the C-ALU, C-IMM and C-WIDE classes (R188 to R191) and of NOP and GUARD (R44). -/

namespace Sys2Proof.Machine

/-! ## Arithmetic on 64-bit patterns -/

/-- Bits [127:64] of the signed product. -/
def mulhS (a b : Word) : Word := BitVec.ofInt 64 (a.toInt * b.toInt / 2 ^ 64)
/-- Bits [127:64] of the unsigned product. -/
def mulhU (a b : Word) : Word := BitVec.ofNat 64 (a.toNat * b.toNat / 2 ^ 64)
/-- The low six bits of a shift amount. -/
def shAmt (b : Word) : Nat := b.toNat % 64
def rotl64 (a : Word) (n : Nat) : Word := BitVec.ofNat 64 (a.toNat * 2 ^ n + a.toNat / 2 ^ (64 - n))
def minS (a b : Word) : Word := if a.toInt ≤ b.toInt then a else b
def maxS (a b : Word) : Word := if a.toInt ≤ b.toInt then b else a
def minU (a b : Word) : Word := if a.toNat ≤ b.toNat then a else b
def maxU (a b : Word) : Word := if a.toNat ≤ b.toNat then b else a
def clz64 (a : Word) : Word := BitVec.ofNat 64 (64 - bitLen a.toNat)
/-- Trailing zeros of a number that is not zero, counting up. -/
def ctzFrom (n : Nat) : Nat → Nat
  | 0 => 0
  | k + 1 => if n % 2 = 1 then 0 else 1 + ctzFrom (n / 2) k
def ctz64 (a : Word) : Word := BitVec.ofNat 64 (ctzFrom a.toNat 64)
def popc64 (a : Word) : Word := BitVec.ofNat 64 ((List.range 64).foldl (fun n i => n + bitsOf a.toNat i 1) 0)
def bswap64 (a : Word) : Word :=
  BitVec.ofNat 64 ((List.range 8).foldl (fun n i => n * 256 + bitsOf a.toNat (8 * i) 8) 0)
/-- The low n + 1 bits, sign-extended (R188). -/
def sextN (a b : Word) : Word := BitVec.ofInt 64 (intOf true (shAmt b + 1) a.toNat)
def zextN (a b : Word) : Word := BitVec.ofNat 64 (a.toNat % 2 ^ (shAmt b + 1))
def flag (b : Bool) : Word := if b then 1 else 0
/-- A sign-extended immediate (R190). -/
def immS (i : BitVec 32) : Word := i.signExtend 64

/-! ## Division (R189) -/

/-- A division: a divisor of zero freezes the thread with DIV0, and D is not written. -/
def divOp (s : State) (d a b : BitVec 6) (f : Word → Word → Word) : Host.Outcome State Fault Refusal :=
  onThread s kAll fun t T =>
    if T.getR b.toNat = 0 then s.freezeThread t 0x08
    else s.setThread t
      { (T.result s.now d.toNat 20 (f (T.getR a.toNat) (T.getR b.toNat))).complete s.now 1 with divAt := s.now + 20 }

def divS (a b : Word) : Word := BitVec.ofInt 64 (Int.tdiv a.toInt b.toInt)
def remS (a b : Word) : Word := BitVec.ofInt 64 (Int.tmod a.toInt b.toInt)
def divU (a b : Word) : Word := BitVec.ofNat 64 (a.toNat / b.toNat)
def remU (a b : Word) : Word := BitVec.ofNat 64 (a.toNat % b.toNat)

/-! ## Meanings -/

def execAdd (d a b : BitVec 6) (s : State) := regOp s d 1 fun T => (T.getR a.toNat) + (T.getR b.toNat)
def execSub (d a b : BitVec 6) (s : State) := regOp s d 1 fun T => (T.getR a.toNat) - (T.getR b.toNat)
def execMul (d a b : BitVec 6) (s : State) := regOp s d 3 fun T => (T.getR a.toNat) * (T.getR b.toNat)
def execMulh (d a b : BitVec 6) (s : State) := regOp s d 3 fun T => mulhS (T.getR a.toNat) (T.getR b.toNat)
def execMulhu (d a b : BitVec 6) (s : State) := regOp s d 3 fun T => mulhU (T.getR a.toNat) (T.getR b.toNat)
def execDiv (d a b : BitVec 6) (s : State) := divOp s d a b divS
def execDivu (d a b : BitVec 6) (s : State) := divOp s d a b divU
def execRem (d a b : BitVec 6) (s : State) := divOp s d a b remS
def execRemu (d a b : BitVec 6) (s : State) := divOp s d a b remU
def execAnd (d a b : BitVec 6) (s : State) := regOp s d 1 fun T => (T.getR a.toNat) &&& (T.getR b.toNat)
def execOr (d a b : BitVec 6) (s : State) := regOp s d 1 fun T => (T.getR a.toNat) ||| (T.getR b.toNat)
def execXor (d a b : BitVec 6) (s : State) := regOp s d 1 fun T => (T.getR a.toNat) ^^^ (T.getR b.toNat)
def execAndn (d a b : BitVec 6) (s : State) := regOp s d 1 fun T => (T.getR a.toNat) &&& ~~~(T.getR b.toNat)
def execShl (d a b : BitVec 6) (s : State) := regOp s d 1 fun T => (T.getR a.toNat) <<< shAmt (T.getR b.toNat)
def execShr (d a b : BitVec 6) (s : State) := regOp s d 1 fun T => (T.getR a.toNat) >>> shAmt (T.getR b.toNat)
def execSar (d a b : BitVec 6) (s : State) := regOp s d 1 fun T => (T.getR a.toNat).sshiftRight (shAmt (T.getR b.toNat))
def execRotl (d a b : BitVec 6) (s : State) := regOp s d 1 fun T => rotl64 (T.getR a.toNat) (shAmt (T.getR b.toNat))
def execMin (d a b : BitVec 6) (s : State) := regOp s d 1 fun T => minS (T.getR a.toNat) (T.getR b.toNat)
def execMax (d a b : BitVec 6) (s : State) := regOp s d 1 fun T => maxS (T.getR a.toNat) (T.getR b.toNat)
def execMinu (d a b : BitVec 6) (s : State) := regOp s d 1 fun T => minU (T.getR a.toNat) (T.getR b.toNat)
def execMaxu (d a b : BitVec 6) (s : State) := regOp s d 1 fun T => maxU (T.getR a.toNat) (T.getR b.toNat)
def execClz (d a : BitVec 6) (s : State) := regOp s d 1 fun T => clz64 (T.getR a.toNat)
def execCtz (d a : BitVec 6) (s : State) := regOp s d 1 fun T => ctz64 (T.getR a.toNat)
def execPopc (d a : BitVec 6) (s : State) := regOp s d 1 fun T => popc64 (T.getR a.toNat)
def execBswap (d a : BitVec 6) (s : State) := regOp s d 1 fun T => bswap64 (T.getR a.toNat)
def execSext (d a b : BitVec 6) (s : State) := regOp s d 1 fun T => sextN (T.getR a.toNat) (T.getR b.toNat)
def execZext (d a b : BitVec 6) (s : State) := regOp s d 1 fun T => zextN (T.getR a.toNat) (T.getR b.toNat)
def execCmpeq (d a b : BitVec 6) (s : State) := regOp s d 1 fun T => flag ((T.getR a.toNat) == (T.getR b.toNat))
def execCmpne (d a b : BitVec 6) (s : State) := regOp s d 1 fun T => flag ((T.getR a.toNat) != (T.getR b.toNat))
def execCmplt (d a b : BitVec 6) (s : State) := regOp s d 1 fun T => flag (decide ((T.getR a.toNat).toInt < (T.getR b.toNat).toInt))
def execCmpltu (d a b : BitVec 6) (s : State) := regOp s d 1 fun T => flag (decide ((T.getR a.toNat).toNat < (T.getR b.toNat).toNat))
/-- SEL: D is read first and then written. -/
def execSel (d a b : BitVec 6) (s : State) :=
  regOp s d 1 fun T => if T.getR d.toNat ≠ 0 then T.getR a.toNat else T.getR b.toNat
/-- MOV: between h registers the tag goes with the value (R186). -/
def execMov (d a : BitVec 6) (s : State) :=
  onThread s kAll fun t T =>
    let T1 := T.result s.now d.toNat 1 (T.getR a.toNat)
    let T2 := if 32 ≤ d.toNat ∧ 32 ≤ a.toNat ∧ T.tag a.toNat then
        { T1 with htag := tset false T1.htag (d.toNat - 32) true } else T1
    s.setThread t (T2.complete s.now 1)

def execAddi (d a : BitVec 6) (i : BitVec 32) (s : State) := regOp s d 1 fun T => (T.getR a.toNat) + immS i
def execMuli (d a : BitVec 6) (i : BitVec 32) (s : State) := regOp s d 3 fun T => (T.getR a.toNat) * immS i
def execAndi (d a : BitVec 6) (i : BitVec 32) (s : State) := regOp s d 1 fun T => (T.getR a.toNat) &&& immS i
def execOri (d a : BitVec 6) (i : BitVec 32) (s : State) := regOp s d 1 fun T => (T.getR a.toNat) ||| immS i
def execXori (d a : BitVec 6) (i : BitVec 32) (s : State) := regOp s d 1 fun T => (T.getR a.toNat) ^^^ immS i
def execShli (d a : BitVec 6) (i : BitVec 32) (s : State) := regOp s d 1 fun T => (T.getR a.toNat) <<< i.toNat
def execShri (d a : BitVec 6) (i : BitVec 32) (s : State) := regOp s d 1 fun T => (T.getR a.toNat) >>> i.toNat
def execSari (d a : BitVec 6) (i : BitVec 32) (s : State) := regOp s d 1 fun T => (T.getR a.toNat).sshiftRight i.toNat
def execRotli (d a : BitVec 6) (i : BitVec 32) (s : State) := regOp s d 1 fun T => rotl64 (T.getR a.toNat) i.toNat
def execCmpeqi (d a : BitVec 6) (i : BitVec 32) (s : State) := regOp s d 1 fun T => flag ((T.getR a.toNat) == immS i)
def execCmpnei (d a : BitVec 6) (i : BitVec 32) (s : State) := regOp s d 1 fun T => flag ((T.getR a.toNat) != immS i)
def execCmplti (d a : BitVec 6) (i : BitVec 32) (s : State) := regOp s d 1 fun T => flag (decide ((T.getR a.toNat).toInt < (immS i).toInt))
def execCmpltui (d a : BitVec 6) (i : BitVec 32) (s : State) := regOp s d 1 fun T => flag (decide ((T.getR a.toNat).toNat < (immS i).toNat))
def execMini (d a : BitVec 6) (i : BitVec 32) (s : State) := regOp s d 1 fun T => minS (T.getR a.toNat) (immS i)
def execMaxi (d a : BitVec 6) (i : BitVec 32) (s : State) := regOp s d 1 fun T => maxS (T.getR a.toNat) (immS i)

/-- LIMM (R191). -/
def execLimm (d : BitVec 6) (i : BitVec 48) (s : State) := regOp s d 1 fun _ => i.signExtend 64
def execLimmz (d : BitVec 6) (i : BitVec 48) (s : State) := regOp s d 1 fun _ => i.setWidth 64
/-- LIMMH: bits [63:48] from the immediate, the others kept. -/
def execLimmh (d : BitVec 6) (i : BitVec 48) (s : State) :=
  regOp s d 1 fun T => BitVec.ofNat 64 (setBits (T.getR d.toNat).toNat 48 16 i.toNat)

/-- NOP (R44): in a row store no slot executes; in a thread PC advances. -/
def execNop (s : State) : Host.Outcome State Fault Refusal :=
  match s.cur with
  | .thread t => .next (s.setThread t ((s.thread t).complete s.now 1))
  | .tile _ _ _ _ => .next s
  | .hub => .fault .wrongUnit

/-- GUARD (R44, R45): the thread freezes precisely with cause GUARD; in a row store the token goes directly to the
region, with origin slot WORD. -/
def execGuard (s : State) : Host.Outcome State Fault Refusal :=
  match s.cur with
  | .thread t => .next (s.freezeThread t 0xF0)
  | .tile _ _ _ _ => onFabric s fun c ts => ⟨ts, [c.direct slotWord 0xF0], none, none⟩
  | .hub => .fault .wrongUnit

end Sys2Proof.Machine
end

