-- ==== Sys2Proof/Machine/Branch.lean ====
section
/-! DEFINITION. The meanings of the C-BR class (R192). -/

namespace Sys2Proof.Machine

/-- The target of a branch: its own index plus the displacement. -/
def branchTarget (T : Thread) (off : BitVec 32) : Word := T.pc + off.signExtend 64

/-- A branch: taken, the target issues two cycles later; not taken, the next word a cycle later (R184). -/
def branchOp (s : State) (off : BitVec 32) (taken : Thread → Bool) : Host.Outcome State Fault Refusal :=
  onThread s kAll fun t T =>
    s.setThread t (if taken T then { T with pc := branchTarget T off, nextAt := s.now + 2 } else T.complete s.now 1)

def execBeq (a b : BitVec 6) (off : BitVec 32) (s : State) := branchOp s off fun T => T.getR a.toNat == T.getR b.toNat
def execBne (a b : BitVec 6) (off : BitVec 32) (s : State) := branchOp s off fun T => T.getR a.toNat != T.getR b.toNat
def execBlt (a b : BitVec 6) (off : BitVec 32) (s : State) :=
  branchOp s off fun T => decide ((T.getR a.toNat).toInt < (T.getR b.toNat).toInt)
def execBge (a b : BitVec 6) (off : BitVec 32) (s : State) :=
  branchOp s off fun T => decide ((T.getR b.toNat).toInt ≤ (T.getR a.toNat).toInt)
def execBltu (a b : BitVec 6) (off : BitVec 32) (s : State) :=
  branchOp s off fun T => decide ((T.getR a.toNat).toNat < (T.getR b.toNat).toNat)
def execBgeu (a b : BitVec 6) (off : BitVec 32) (s : State) :=
  branchOp s off fun T => decide ((T.getR b.toNat).toNat ≤ (T.getR a.toNat).toNat)
def execBz (a : BitVec 6) (off : BitVec 32) (s : State) := branchOp s off fun T => T.getR a.toNat == 0
def execBnz (a : BitVec 6) (off : BitVec 32) (s : State) := branchOp s off fun T => T.getR a.toNat != 0
def execJmp (off : BitVec 32) (s : State) := branchOp s off fun _ => true

/-- A jump that leaves the address of the next word in D. -/
def linkOp (s : State) (d : BitVec 6) (target : Thread → Word) : Host.Outcome State Fault Refusal :=
  onThread s kAll fun t T =>
    s.setThread t { T.result s.now d.toNat 1 (T.pc + 1) with pc := target T, nextAt := s.now + 2 }

def execJal (d : BitVec 6) (off : BitVec 32) (s : State) := linkOp s d fun T => branchTarget T off
/-- JALR: the target comes from A before D is written. -/
def execJalr (d a : BitVec 6) (off : BitVec 32) (s : State) :=
  linkOp s d fun T => T.getR a.toNat + off.signExtend 64

end Sys2Proof.Machine
end

