-- ==== Sys2Proof/Machine/Window.lean ====
section
/-! DEFINITION. The register window (R277): which register an address is, its reset value, its fields, and what reading
it gives (R279, R284, R294, R302, R306, R308 to R311, R324, R327, R333, R337, R341, R355, R356, R360, R363, R364, R368,
R373, R380, R392, R394). A reserved field reads zero, a write-only register reads zero (R6, R7). -/

namespace Sys2Proof.Machine

/-- A register of the window. -/
inductive WReg where
  /-- word w of RANGE n of a partition (R279) -/
  | range (p n w : Nat)
  /-- a register of PRB(p) at 0x1000 to 0x11FF -/
  | prb (p off : Nat)
  /-- word w of chain e (R306) -/
  | chain (p e w : Nat)
  /-- word w of runoff window n (R360) -/
  | window (p n w : Nat)
  | mat (t w : Nat)
  | hcb (c off : Nat)
  | twb (u w : Nat)
  /-- word w of pool entry e of die d (R337) -/
  | pool (d e w : Nat)
  | trb (off : Nat)
  | brbPort (i w : Nat)
  | brbRoute (d : Nat)
  | brbQueue (q w : Nat)
  | crb (off : Nat)
  /-- in no block (log entry 13) -/
  | none
  deriving DecidableEq, Repr

/-- Which register of the window an address is. -/
def wreg (pa : Nat) : WReg :=
  let o := pa - Config.winLo
  if o < 0x100000 then
    let p := o / 0x10000
    let k := o % 0x10000
    if k < 0x1000 then .range p (k / 64) (k % 64 / 8)
    else if k < 0x1200 then .prb p k
    else if 0x2000 ≤ k ∧ k < 0x2200 then .chain p ((k - 0x2000) / 32) (k % 32 / 8)
    else if 0x3000 ≤ k ∧ k < 0x3100 then .window p ((k - 0x3000) / 32) (k % 32 / 8)
    else .none
  else if 0x1000000000 ≤ o ∧ o < 0x1000000000 + 0x40 * 1027 then
    let t := (o - 0x1000000000) / 64
    if 384 ≤ t ∧ t < 512 then .none else .mat t (o % 64 / 8)
  else if 0x2000000000 ≤ o ∧ o < 0x2000000000 + 0x100 * 384 then .hcb ((o - 0x2000000000) / 256) (o % 256)
  else if 0x3000000000 ≤ o ∧ o < 0x3000000000 + 0x40 * 2048 then .twb ((o - 0x3000000000) / 64) (o % 64 / 8)
  else if 0x3800000000 ≤ o ∧ o < 0x3800010000 then
    .pool ((o - 0x3800000000) / 0x4000) (o % 0x4000 / 64) (o % 64 / 8)
  else if 0x3D00000000 ≤ o ∧ o < 0x3D00000200 then .trb (o - 0x3D00000000)
  else if 0x3E00000000 ≤ o ∧ o < 0x3E00000600 then .brbPort ((o - 0x3E00000000) / 64) (o % 64 / 8)
  else if 0x3E00002000 ≤ o ∧ o < 0x3E00004000 then .brbRoute ((o - 0x3E00002000) / 8)
  else if 0x3E00004000 ≤ o ∧ o < 0x3E00005000 then .brbQueue ((o - 0x3E00004000) / 64) (o % 64 / 8)
  else if 0x3F00000000 ≤ o ∧ o < 0x3F00200000 then .crb (o - 0x3F00000000)
  else .none

/-- Whether an address lies in the window. -/
def inWin (pa : Nat) : Bool := decide (Config.winLo ≤ pa) && decide (pa < Config.winHi)

/-- The value a register has at reset. -/
def WReg.reset : WReg → Nat
  | .prb _ 0x1040 => 0x400004
  | .hcb _ 0 => 8
  | .hcb _ off => if 0x40 ≤ off ∧ off ≤ 0xC8 then 0x2020202020202020
      else if off = 0xF0 then 0x202020200000 else if off = 0xF8 then 1 else 0
  | .trb 0 => 2
  | .trb 0x10 => 8
  | .brbPort _ 0 => 0x1FE
  | .brbQueue _ 2 => 0x400000
  | .crb 0 => 2
  | .crb 8 => 22000
  | .crb off => if 0x4000 ≤ off ∧ off < 0x4800 then 0x4000000 else 0
  | _ => 0

def winReset (pa : Nat) : Word := BitVec.ofNat 64 (wreg pa).reset

/-- The word that the window holds at an address. -/
def State.w (s : State) (pa : Nat) : Word := tget 0 s.win pa ^^^ winReset pa
def State.setW (s : State) (pa : Nat) (v : Word) : State := { s with win := tset 0 s.win pa (v ^^^ winReset pa) }
/-- A field of a register. -/
def State.wf (s : State) (pa lo len : Nat) : Nat := bitsOf (s.w pa).toNat lo len
def State.setWf (s : State) (pa lo len v : Nat) : State :=
  s.setW pa (BitVec.ofNat 64 (setBits (s.w pa).toNat lo len v))
/-- A saturating counter rises by n. -/
def State.bumpW (s : State) (pa lo len n : Nat) : State := s.setWf pa lo len (min (s.wf pa lo len + n) (2 ^ len - 1))

/-! ## Addresses of registers used by name -/

def prbAt (p off : Nat) : Nat := Config.prb p + off
def rangeAt (p n w : Nat) : Nat := Config.prb p + 0x40 * n + 8 * w
def chainAt (p e w : Nat) : Nat := Config.prb p + 0x2000 + 0x20 * e + 8 * w
def windowAt (p n w : Nat) : Nat := Config.prb p + 0x3000 + 0x20 * n + 8 * w
def crbAt (off : Nat) : Nat := Config.crb + off
def queueAt (q w : Nat) : Nat := Config.crb + 0x2000 + 0x20 * q + 8 * w
def imageAt (i w : Nat) : Nat := Config.crb + 0x10000 + 0x40 * i + 8 * w
def trbAt (off : Nat) : Nat := Config.trb + off
def brbPortAt (i w : Nat) : Nat := Config.brb + 0x40 * i + 8 * w
def brbRouteAt (d : Nat) : Nat := Config.brb + 0x2000 + 8 * d
def brbQueueAt (q w : Nat) : Nat := Config.brb + 0x4000 + 0x40 * q + 8 * w
def hcbAt (c off : Nat) : Nat := Config.hcb c + off

/-- DCSTR, DCRUN, DCFLT, DCARC, DCPRE, DCDIS as 0 to 5 (R37, R203). -/
def dcAt (p n : Nat) : Nat := prbAt p (0x1160 + 8 * n)
def State.bumpDc (s : State) (p n k : Nat) : State := if p < 16 then s.bumpW (dcAt p n) 0 64 k else s

def State.tband (s : State) : Nat := s.wf (trbAt 0) 0 2
def State.tstate (s : State) : Nat := s.wf (trbAt 0) 2 4

/-! ## Lines that leave the package (R357, R358) -/

def State.key (s : State) (k : Nat) : KeySlot := tget KeySlot.zero s.keys k
def State.setKey (s : State) (k : Nat) (x : KeySlot) : State := { s with keys := tset KeySlot.zero s.keys k x }
/-- The key slot of the traffic to and from a package. -/
def State.routeSlot (s : State) (d : Nat) : Nat := s.wf (brbRouteAt d) 8 6

/-- A line of 128 bytes toward a package: its sequence number, its ciphertext, its tag. The counter of the slot rises. -/
def State.sealLine (s : State) (d a data : Nat) : State × List Nat :=
  let k := s.routeSlot d
  let K := s.key k
  let key := K.cur.getD 0
  let c := Config.xtsEncrypt key a (BitVec.ofNat 1024 data)
  (s.setKey k { K with seq := K.seq + 1 }, [K.seq, c.toNat, (Config.gmacTag key Config.pkgId.toNat K.seq a c).toNat])

/-- Lines at rising addresses, one after another. -/
def State.sealLines (s : State) (d : Nat) : Nat → List Nat → State × List Nat
  | _, [] => (s, [])
  | a, x :: xs =>
    let r := s.sealLine d a x
    let q := r.1.sealLines d (a + 128) xs
    (q.1, r.2 ++ q.2)

/-! ## Events of WAITEV (R207) and host interrupts -/

/-- Raise an edge event of the hub: the next cycle finds it pending. -/
def State.raise (s : State) (bit : Nat) : State :=
  { s with fresh := if s.fresh.testBit bit then s.fresh else s.fresh + 2 ^ bit }

/-- Raise an edge event of a partition; likewise. -/
def State.raiseP (s : State) (p bit : Nat) : State :=
  let P := s.part p
  s.setPart p { P with fresh := if P.fresh.testBit bit then P.fresh else P.fresh + 2 ^ bit }

/-- Why the host is interrupted. -/
def irqMigrate : Nat := 1
def irqRemap : Nat := 2
def irqReport : Nat := 3
def irqCellar : Nat := 4
def irqPool : Nat := 5
def irqChain : Nat := 6
def irqThermal : Nat := 7
def irqRate : Nat := 8
def irqPort : Nat := 9

/-- Interrupt the host: the reason, and the number of what it concerns. -/
def State.irq (s : State) (k n : Nat) : State := { s with irqs := s.irqs ++ [2 ^ 32 * k + n] }

/-! ## Registers that report other state -/

/-- Entries a partition holds in a die's pool (R341). -/
def State.poolUsed (s : State) (p d : Nat) : Nat :=
  (s.freezes.filter fun f => decide (f.part = p) && (match f.entry with
    | some e => decide (e / 256 = d)
    | none => false)).length

def State.fquse (s : State) (p : Nat) : Word :=
  BitVec.ofNat 64 (pack ((List.range 4).map fun d => (16, s.poolUsed p d)))

/-- PCTL (R324). -/
def State.pctl (s : State) (p : Nat) : Word :=
  let P := s.part p
  let pend := P.req.isSome || P.preheld.isSome || P.restorePend
  BitVec.ofNat 64 (pack [(3, 0), (1, pend.toNat), (1, P.swapGraph.isSome.toNat), (2, P.choice)])

/-- Task entries that a queue holds (R327). -/
def State.qUsed (s : State) (q : Nat) : Nat := (s.tasks.filter fun t => decide (t.queue = q)).length

/-- What a read of a register of the window gives; `t` is the reading thread (R395, R397). -/
def State.winRead (s : State) (t pa : Nat) : Word :=
  match wreg pa with
  | .prb p off =>
    if off = 0x1030 then s.pctl p
    else if off = 0x1038 then BitVec.ofNat 64 (s.part p).frame
    else if off = 0x1048 then s.fquse p
    else if off = 0x1050 then 0
    else s.w pa
  | .chain p e w =>
    let C := tget Chain.zero s.chains (16 * p + e)
    match w with
    | 0 => C.tail
    | 1 => C.last
    | 2 => C.seq
    | _ => C.ctl &&& 0xE ||| BitVec.ofNat 64 (C.halted.toNat + 2 ^ 32 * C.split)
  | .hcb c off =>
    let C := tget Chan.zero s.chans c
    match C.deferred.reverse.find? fun d => decide (d.1 = t) && decide (d.2.1 = off) with
    | some d => d.2.2
    | none => s.w pa
  | .brbQueue q w =>
    if w = 2 then
      let used := (s.wf (brbQueueAt q 1) 0 32 + 2 ^ 32 - s.wf (brbQueueAt q 1) 32 32) % 2 ^ 32
      BitVec.ofNat 64 (setBits (s.w pa).toNat 32 16 used)
    else s.w pa
  | .crb off =>
    if 0x1000 ≤ off ∧ off < 0x1800 then 0
    else if 0x4000 ≤ off ∧ off < 0x4800 then
      BitVec.ofNat 64 (setBits (s.w pa).toNat 32 16 (s.qUsed ((off - 0x4000) / 8)))
    else s.w pa
  | .trb off => if off = 8 then 0 else s.w pa
  | .pool d e w => match s.freezes.find? fun (f : Freeze) => decide (f.entry = some (256 * d + e)) with
    | some f => f.rec_.getD w 0
    | none => 0
  | .none => 0
  | _ => s.w pa

/-! ## Who may read and write (R42, R185, R203, R306, R337, R355, R360, R363, R368, R392) -/

/-- Whether a pool entry holds a record of a partition. -/
def State.poolOf (s : State) (d e p : Nat) : Bool :=
  s.freezes.any fun f => decide (f.entry = some (256 * d + e)) && decide (f.part = p)

/-- The cause that a read of a register raises, if one (R42). -/
def State.winReadCause (s : State) (T : Thread) (pa : Nat) : Option Nat :=
  let cellar := decide (T.priv = 3)
  let own := fun (p : Nat) => cellar || decide (T.part = p)
  let two := fun (p : Nat) => if 2 ≤ T.priv ∧ own p then none else some 0x03
  match wreg pa with
  | .range p _ _ => two p
  | .prb p off => if 0x1100 ≤ off then (if cellar then none else some 0x03) else two p
  | .chain p _ _ | .window p _ _ => if own p then none else some 0x03
  | .pool d e _ =>
    if cellar then none
    else if T.kind = .handler ∧ s.poolOf d e T.part then none else some 0x06
  | .brbQueue q w =>
    if 2 ≤ T.priv ∨ (w = 1 ∧ T.part = s.wf (brbQueueAt q 0) 1 4) then none else some 0x03
  | .none => none
  | _ => if 2 ≤ T.priv then none else some 0x03

/-- The cause that a write of a register raises before any field is looked at (R42). -/
def State.winWriteCause (s : State) (T : Thread) (pa : Nat) : Option Nat :=
  let cellar := decide (T.priv = 3)
  let own := fun (p : Nat) => cellar || decide (T.part = p)
  match wreg pa with
  | .chain p _ w => if own p ∧ (w ≠ 3 ∨ 2 ≤ T.priv) then none else some 0x03
  | .window p _ w => if own p ∧ (w = 3 ∨ 2 ≤ T.priv) then none else some 0x03
  | .pool _ _ _ => some 0x06
  | .brbQueue q w =>
    if cellar ∨ (w = 1 ∧ T.part = s.wf (brbQueueAt q 0) 1 4) then none else some 0x03
  | .crb off => if 0x100000 ≤ off then some 0x06 else if !cellar then some 0x03 else none
  | .none => none
  | _ => if cellar then none else some 0x03

end Sys2Proof.Machine
end

