-- ==== Sys2Proof/Machine/MemOps.lean ====
section
/-! DEFINITION. Off-core memory: bytes at their homes, areas of physical addresses, translation, shadows, access tables,
the ordered checks of an access, watchpoints, read instants and the performing of a write (R193, R230 to R241, R277 to
R285, R288, R297, R298, R353, R354, R391). -/

namespace Sys2Proof.Machine

/-! ## Bytes -/

/-- The number of some bytes, the least significant first (R5). -/
def bytesNat : List Byte → Nat
  | [] => 0
  | b :: bs => b.toNat + 256 * bytesNat bs

/-- n bytes of a number, the least significant first. -/
def natBytes (v : Nat) : Nat → List Byte
  | 0 => []
  | n + 1 => BitVec.ofNat 8 (v % 256) :: natBytes (v / 256) n

namespace Memory

/-- What an unlisted address reads as (log entry 1). -/
def blank : Byte := 0

/-- The byte of memory at an address. -/
def get (m : List Host.Cell) (a : Nat) : Byte := tget blank m a
/-- Write one byte, keeping the canonical form. -/
def put (m : List Host.Cell) (a : Nat) (b : Byte) : List Host.Cell := tset blank m a b
/-- Write bytes at rising addresses. -/
def putAll (m : List Host.Cell) (a : Nat) : List Byte → List Host.Cell
  | [] => m
  | b :: bs => putAll (put m a b) (a + 1) bs
/-- n bytes from an address. -/
def getAll (m : List Host.Cell) (a : Nat) : Nat → List Byte
  | 0 => []
  | n + 1 => get m a :: getAll m (a + 1) n

/-- The canonical form of memory: addresses strictly rising, no entry equal to what an unlisted address reads as. -/
def wf (m : List Host.Cell) : Bool := twf blank m

end Memory

/-- The byte of memory at an address. -/
def State.byte (s : State) (a : Nat) : Byte := Memory.get s.mem a
def State.bytes (s : State) (a n : Nat) : List Byte := Memory.getAll s.mem a n
/-- A little-endian number of n bytes of memory. -/
def State.mget (s : State) (a n : Nat) : Nat := bytesNat (s.bytes a n)

/-- The history entries of a write at its home. -/
def histOf (s : State) (m : Master) (a : Nat) : List Byte → List HistEntry
  | [] => []
  | _ :: bs => ⟨s.now, a, s.byte a, m⟩ :: histOf s m (a + 1) bs

/-- Write bytes at their home (R237), with the history that read instants need (R238). -/
def State.mputBytes (s : State) (m : Master) (a : Nat) (bs : List Byte) : State :=
  { s with hist := s.hist ++ histOf s m a bs
           mem := Memory.putAll s.mem a bs }

def State.mput (s : State) (m : Master) (a n v : Nat) : State := s.mputBytes m a (natBytes v n)

def overlaps (a n b m : Nat) : Bool := decide (a < b + m) && decide (b < a + n)

/-- Lines written: they lose their cipher flag, and a line written whole its error (R295, R358). -/
def State.freshLines (s : State) (a n : Nat) : State :=
  { s with cipher := s.cipher.filter fun e => !overlaps (128 * e.1) 128 a n
           hbmErr := s.hbmErr.filter fun e => !(decide (a ≤ 64 * e.1) && decide (64 * e.1 + 64 ≤ a + n)) }

/-- Write bytes of this package at their home. -/
def State.storeBytes (s : State) (m : Master) (a : Nat) (bs : List Byte) : State :=
  (s.mputBytes m a bs).freshLines a bs.length

/-- The byte at an address as it stood at an instant (R238): the oldest value that a later change replaced. -/
def byteAtInstant (h : List HistEntry) (a i : Nat) (cur : Byte) : Byte :=
  match h.find? fun e => decide (e.pa = a) && decide (i < e.at_) with
  | some e => e.old
  | none => cur

/-! ## Areas (R277, R354) -/

/-- Where a device physical address leads. -/
inductive Target where
  /-- HBM of a package at a local address -/
  | hbm (a : Nat)
  | window
  | host
  | request (q : Nat)
  | runoff (a : Nat)
  /-- another address of a remote package: writes are dropped with a denial -/
  | dead
  /-- in no area -/
  | none
  deriving DecidableEq, Repr

/-- The decoding of PA[40:0] at the package it names (R354). -/
def remoteTarget (l : Nat) : Target :=
  if l < Config.hbmBytes then .hbm l
  else if l < Config.hbmBytes + 0x40000 then .request ((l - Config.hbmBytes) / 0x1000)
  else if 2 ^ 40 ≤ l then .runoff (l - 2 ^ 40)
  else .dead

def targetOf (pa : Nat) : Target :=
  if pa < Config.hbmBytes then .hbm pa
  else if inWin pa then .window
  else if 2 ^ 51 ≤ pa ∧ pa < 2 ^ 52 then remoteTarget (pa % 2 ^ 41)
  else if 2 ^ 48 ≤ pa ∧ pa < 2 ^ 51 then .host
  else .none

/-- The other package that an address names; a remote address of this package's own number is served here (R277). -/
def otherPkg (pa : Nat) : Option Nat :=
  if 2 ^ 51 ≤ pa ∧ pa < 2 ^ 52 ∧ pa / 2 ^ 41 % 1024 ≠ Config.pkgId.toNat then some (pa / 2 ^ 41 % 1024) else none

/-- Where the bytes of an address stand in this package's memory. -/
def memKey (pa : Nat) : Nat :=
  match targetOf pa with
  | .hbm a => a
  | _ => pa

/-- The channel of a local HBM address (R288). -/
def chanOf (a : Nat) : Nat := a / 8192 % 384
/-- Row, bank and column of a local HBM address (R288). -/
def rowOf (a : Nat) : Nat := (a / 8192 / 384 * 8192 + a % 8192) / 2 ^ 17
def bankOf (a : Nat) : Nat := (a / 8192 / 384 * 8192 + a % 8192) / 2 ^ 11 % 64
def colOf (a : Nat) : Nat := (a / 8192 / 384 * 8192 + a % 8192) / 64 % 32
/-- The local HBM address of a channel's row, bank and column. -/
def hbmAt (c row bank col : Nat) : Nat :=
  let o := 2 ^ 17 * row + 2 ^ 11 * bank + 64 * col
  o / 8192 * 384 * 8192 + c * 8192 + o % 8192

/-- The MAT target of an address (R284). -/
def matTarget (pa : Nat) : Option Nat :=
  match otherPkg pa, targetOf pa with
  | some _, _ => none
  | none, .hbm a => some (chanOf a)
  | none, .host => some (1024 + bitsOf pa 47 1)
  | none, .window => match wreg pa with
    | .crb _ => some 1026
    | .hcb c _ => some c
    | .twb u _ => some (512 + u / 4)
    | _ => none
  | none, _ => none

/-- Whether MAT(t) gives a partition the right (0 read, 1 write, 2 atomic) for a master kind. -/
def State.matRight (s : State) (t p k right : Nat) : Bool :=
  decide (s.wf (Config.mat t + 8 * (p / 2)) (32 * (p % 2) + 3 * k + right) 1 = 1)

/-! ## Lines that fail their checks (R295, R297, R358) -/

/-- The key of a slot under which the tag of a line passes: the current one is tried before the previous one (R358, R378). -/
def State.tagKey (s : State) (slot src seq addr : Nat) (data : BitVec 1024) (tag : BitVec 64) : Option (BitVec 768) :=
  let k := s.key slot
  [k.cur, k.prev].findSome? fun x => match x with
    | some key => if Config.gmacTag key src seq addr data = tag then some key else none
    | none => none

/-- Whether a line of HBM passes the check of its tag, where its cipher flag is set (R358). Memory holds what the line
decrypts to (log entry 134). -/
def State.tagOk (s : State) (line : Nat) : Bool :=
  match tget none s.cipher line with
  | none => true
  | some c => (s.tagKey c.slot c.src c.seq (128 * line) c.data c.tag).isSome

/-- Errors of a line, 0 none, 1 corrected by the check line, 2 not. -/
def State.lineErr (s : State) (a : Nat) : Nat := tget 0 s.hbmErr (a / 64)

/-- Whether a line of memory can be read, as it stands or after a correction (R295, R297, R358). -/
def State.readable (s : State) (pa : Nat) : Bool :=
  match targetOf pa with
  | .hbm a => decide (s.wf (hcbAt (chanOf a) 0) 4 1 = 0) && s.tagOk (a / 128) && decide (s.lineErr a ≤ 1)
  | _ => true

/-! ## HBM lines (R295, R297, R358) -/

/-- The vote of a stack's remap table (R297): a single dissenting copy is rewritten; without a majority the stack's 32
channels are degraded and the host is interrupted. -/
def State.remapVote (s : State) (c : Nat) : State × Bool :=
  let st := c / 32
  let a := tget 0 s.remap (3 * st)
  let b := tget 0 s.remap (3 * st + 1)
  let d := tget 0 s.remap (3 * st + 2)
  let fix := fun (k : Nat) (v : Word) => ({ s with remap := tset 0 s.remap k v }.bumpW (hcbAt c 0) 56 8 1, true)
  if s.wf (hcbAt c 0) 4 1 = 1 then (s, false)
  else if a = b ∧ b = d then (s, true)
  else if a = b then fix (3 * st + 2) a
  else if a = d then fix (3 * st + 1) a
  else if b = d then fix (3 * st) b
  else
    let mark := fun (s : State) (j : Nat) => s.setWf (hcbAt (32 * st + j) 0) 4 1 1
    (((List.range 32).foldl mark s).irq irqRemap st, false)

/-- A read served at a channel in dynamic mode (R295, R297, R358): repaired in place, or MEM_UE. -/
def State.hbmServe (s : State) (a : Nat) : State × Bool :=
  let c := chanOf a
  let v := s.remapVote c
  if !v.2 then (v.1, false)
  else if !v.1.tagOk (a / 128) then (v.1, false)
  else match v.1.lineErr a with
    | 0 => (v.1, true)
    | 1 => ({ v.1 with hbmErr := tset 0 v.1.hbmErr (a / 64) 0 }.bumpW (hcbAt c 0) 16 16 1, true)
    | _ => (v.1.bumpW (hcbAt c 0) 32 8 1, false)

/-- Whether a channel serves dynamic requests now: not held, no test running, dynamic mode or an OPEN window (R289,
R291, R395). -/
def State.chanServes (s : State) (a : Nat) : Bool :=
  let c := chanOf a
  decide (s.wf (trbAt 0) 2 4 ≠ 2) && decide (s.wf (trbAt 0) 2 4 ≠ 3) &&
  decide (s.wf (hcbAt c 0xD0) 2 1 = 0) && decide (s.wf (hcbAt c 0xD8) 0 1 = 0) &&
    (decide (s.wf (hcbAt c 0) 3 1 = 1) || decide (s.now < (tget Chan.zero s.chans c).openUntil))

/-- Whether the home of an address serves a request now. -/
def State.homeServes (s : State) (pa : Nat) : Bool :=
  match otherPkg pa, targetOf pa with
  | none, .hbm a => s.chanServes a
  | _, _ => true

/-- The check of the line that an access reads at its home. -/
def State.serveLine (s : State) (pa : Nat) : State × Bool :=
  match targetOf pa with
  | .hbm a => s.hbmServe a
  | _ => (s, true)

/-- The vote that a write's home takes of its stack's remap table: false where the stack is degraded (R297). -/
def State.voteLine (s : State) (pa : Nat) : State × Bool :=
  match targetOf pa with
  | .hbm a => s.remapVote (chanOf a)
  | _ => (s, true)

/-- A write that the package makes itself, of bytes in one line: false where its home suppresses it. -/
def State.hubStore (s : State) (m : Master) (pa : Nat) (bs : List Byte) : State × Bool :=
  let v := s.voteLine pa
  if v.2 then (v.1.storeBytes m (memKey pa) bs, true) else (v.1, false)

/-- The home of a byte that this package serves (R230): a channel, or a host link. -/
def homeOf (pa : Nat) : Nat :=
  match targetOf pa with
  | .hbm a => chanOf a
  | _ => 1024 + bitsOf pa 47 1

/-- Whether some line of n bytes of memory cannot be read: an error the check line does not correct, a tag that fails, a
degraded stack (R295, R297, R358). -/
def State.lostIn (s : State) (pa n : Nat) : Bool :=
  match targetOf pa with
  | .hbm a =>
    (s.hbmErr.any fun e => decide (2 ≤ e.2) && overlaps (64 * e.1) 64 a n) ||
      (s.cipher.any fun e => overlaps (128 * e.1) 128 a n && !s.tagOk e.1) ||
      (List.range (n / 8192 + 1)).any fun k => decide (s.wf (hcbAt (chanOf (a + 8192 * k)) 0) 4 1 = 1)
  | _ => false

/-! ## Translation (R278 to R281) -/

/-- A translation: the physical address of the live copy, its rights, the range entry that gave it, or the size of its
page. -/
structure Xlat where
  pa : Nat
  rd : Bool
  wr : Bool
  at_ : Bool
  entry : Option Nat
  size : Nat
  deriving DecidableEq, Repr

def State.rng (s : State) (p n w lo len : Nat) : Nat := s.wf (rangeAt p n w) lo len
def State.rValid (s : State) (p n : Nat) : Bool := decide (s.rng p n 0 0 1 = 1)
def State.rShd (s : State) (p n : Nat) : Bool := decide (s.rng p n 0 4 1 = 1)
def State.rShst (s : State) (p n : Nat) : Nat := s.rng p n 0 6 2
def State.rSink (s : State) (p n : Nat) : Bool := decide (s.rng p n 0 8 1 = 1)
def State.rLock (s : State) (p n : Nat) : Nat := s.rng p n 0 16 16
def State.rGen (s : State) (p n : Nat) : Nat := s.rng p n 0 32 32
def State.rBase (s : State) (p n : Nat) : Nat := s.rng p n 1 0 57
def State.rLimit (s : State) (p n : Nat) : Nat := s.rng p n 2 0 57
def State.rLive (s : State) (p n : Nat) : Nat := s.rng p n 3 0 52
def State.rShadow (s : State) (p n : Nat) : Nat := s.rng p n 4 0 52
def State.rCow (s : State) (p n : Nat) : Nat := s.rng p n 5 0 52

/-- The lowest-numbered valid entry that holds an address (R278). -/
def State.rangeOf (s : State) (p va : Nat) : Option Nat :=
  (List.range 64).find? fun n => s.rValid p n && decide (s.rBase p n ≤ va) && decide (va < s.rLimit p n)

/-- Two addresses lie in one range entry, or in one page (R244). -/
def Xlat.sameUnit (x : Xlat) (va : Nat) (y : Xlat) (vb : Nat) : Bool :=
  decide (x.entry = y.entry) && (x.entry.isSome || (decide (x.size = y.size) && decide (va / x.size = vb / y.size)))

/-- One level of the page tables (R280): a leaf, a pointer with its granule, or nothing. -/
inductive Pte where
  | leaf (pa : Nat) (rd wr at_ : Bool)
  | table (pa : Nat) (g : Bool)
  | bad
  deriving DecidableEq, Repr

/-- Read a table entry: `level`, and the page's size if a leaf may stand here. -/
def pteOf (e level : Nat) (size : Option Nat) : Pte :=
  let g := decide (bitsOf e 5 1 = 1)
  let pa := bitsOf e 13 39 * 8192
  if bitsOf e 0 1 = 0 ∨ bitsOf e 6 7 ≠ 0 ∨ bitsOf e 52 12 ≠ 0 then .bad
  else if bitsOf e 1 1 = 1 then
    match size with
    | none => .bad
    | some z => if pa % z ≠ 0 ∨ g then .bad
        else .leaf pa (decide (bitsOf e 2 1 = 1)) (decide (bitsOf e 3 1 = 1)) (decide (bitsOf e 4 1 = 1))
  else if level = 0 ∨ (g ∧ level ≠ 1) then .bad
  else .table pa g

/-- A table entry in memory; one in a line that cannot be read translates nothing (R295; log entry 102). -/
def State.tableEntry (s : State) (pa : Nat) : Nat := if s.readable pa then s.mget (memKey pa) 8 else 0

/-- The levels that a walk still passes: level, lowest index bit, index bits, page size. -/
def walkLevels : List (Nat × Nat × Nat × Option Nat) :=
  [(3, 39, 18, none), (2, 30, 9, some (2 ^ 30)), (1, 21, 9, some (2 ^ 21))]

/-- The page-table walk (R280). -/
def State.walk (s : State) (va : Nat) : List (Nat × Nat × Nat × Option Nat) → Nat → Bool → Option Xlat
  | [], table, g =>
    let lo := if g then 16 else 13
    let size := 2 ^ lo
    match pteOf (s.tableEntry (table + 8 * bitsOf va lo (21 - lo))) 0 (some size) with
    | .leaf pa rd wr at_ => some ⟨pa + va % size, rd, wr, at_, none, size⟩
    | _ => none
  | (level, lo, len, size) :: ls, table, _ =>
    match pteOf (s.tableEntry (table + 8 * bitsOf va lo len)) level size with
    | .leaf pa rd wr at_ => some ⟨pa + va % 2 ^ lo, rd, wr, at_, none, 2 ^ lo⟩
    | .table pa g => s.walk va ls pa g
    | .bad => none

/-- The physical address of the COWMAP byte of a chunk. -/
def State.cowAt (s : State) (p n c : Nat) : Nat := s.rCow p n + c / 8

/-- The translation of a virtual address of a partition (R278): range table, then page tables. An entry whose COWMAP byte it
needs and cannot read translates nothing (log entry 102). -/
def State.translate (s : State) (p va : Nat) : Option Xlat :=
  match s.rangeOf p va with
  | some n =>
    if 2 ≤ s.rShst p n ∧ !s.readable (s.cowAt p n ((va - s.rBase p n) / 8192)) then none
    else some ⟨s.rLive p n + (va - s.rBase p n), decide (s.rng p n 0 1 1 = 1), decide (s.rng p n 0 2 1 = 1),
      decide (s.rng p n 0 3 1 = 1), some n, 0⟩
  | none => s.walk va walkLevels (bitsOf (s.w (prbAt p 0x1000)).toNat 21 31 * 2 ^ 21) false

/-! ## Shadows and copy-on-write (R282, R283) -/

/-- A line takes the contents of another, and with them what they were before: a read of the new place that reaches back
to an earlier instant finds what the old one held then (R248, R283). The line is read and written at its homes: one that
cannot be read leaves an error in its copy, and a degraded stack takes no write (R295, R297). -/
def State.copyLine (s : State) (src dst n : Nat) : State :=
  let v := s.serveLine src
  let w := v.1.voteLine dst
  if !w.2 then w.1
  else
    let a := memKey src
    let b := memKey dst
    let s1 := w.1
    let keep := s1.hist.filter fun e => !overlaps e.pa 1 b n
    let moved := (s1.hist.filter fun e => overlaps e.pa 1 a n).map fun e => { e with pa := e.pa + b - a }
    let s2 := { s1 with mem := Memory.putAll s1.mem b (s1.bytes a n), hist := keep ++ moved }.freshLines b n
    if v.2 then s2 else { s2 with hbmErr := tset 0 s2.hbmErr (b / 64) 2 }

/-- A place takes the contents of another, line by line. -/
def State.copyView (s : State) (src dst n : Nat) : State :=
  (List.range ((n + 63) / 64)).foldl (fun s k => s.copyLine (src + 64 * k) (dst + 64 * k) (min 64 (n - 64 * k))) s

/-- The COWMAP bit of a chunk. -/
def State.cowBit (s : State) (p n c : Nat) : Bool := decide (bitsOf (s.mget (memKey (s.cowAt p n c)) 1) (c % 8) 1 = 1)

/-- Copy a chunk from the live copy to the shadow and set its bit. -/
def State.cowCopy (s : State) (p n c : Nat) : State :=
  let size := s.rLimit p n - s.rBase p n
  let s1 := s.copyView (s.rLive p n + 8192 * c) (s.rShadow p n + 8192 * c) (min 8192 (size - 8192 * c))
  let a := s.cowAt p n c
  (s1.hubStore .hub a (natBytes (setBits (s1.mget (memKey a) 1) (c % 8) 1 1) 1)).1

/-- Where a read of a translated address goes: while SHST is 2 or 3, the shadow where its chunk's bit is set. -/
def State.placeRead (s : State) (p va : Nat) (x : Xlat) : Nat :=
  match x.entry with
  | none => x.pa
  | some n =>
    let off := va - s.rBase p n
    if 2 ≤ s.rShst p n ∧ s.cowBit p n (off / 8192) then s.rShadow p n + off else x.pa

/-- Where a write of a translated address goes: while SHST is 2 or 3, the shadow. -/
def State.writePa (s : State) (p va : Nat) (x : Xlat) : Nat :=
  match x.entry with
  | none => x.pa
  | some n => if 2 ≤ s.rShst p n then s.rShadow p n + (va - s.rBase p n) else x.pa

/-- Where a write goes, after the copy of its chunk when the bit is clear. -/
def State.placeWrite (s : State) (p va : Nat) (x : Xlat) : State × Nat :=
  match x.entry with
  | none => (s, x.pa)
  | some n =>
    let off := va - s.rBase p n
    if 2 ≤ s.rShst p n then
      (if s.cowBit p n (off / 8192) then s else s.cowCopy p n (off / 8192), s.rShadow p n + off)
    else (s, x.pa)

/-- Whether the homes of a copy that a write would make of its chunk serve now (R283, R289). -/
def State.cowReady (s : State) (p n va : Nat) : Bool :=
  let c := (va - s.rBase p n) / 8192
  decide (s.rShst p n < 2) || s.cowBit p n c ||
    (s.homeServes (s.cowAt p n c) && [0, 8191].all fun k =>
      s.homeServes (s.rLive p n + 8192 * c + k) && s.homeServes (s.rShadow p n + 8192 * c + k))

/-- Whether a SNAP that waits holds the writes to a range entry at their translation (R248). -/
def State.entryHeld (s : State) (p n : Nat) : Bool := s.snaps.any fun x => decide (x.2 = (p, n)) && (s.thread x.1).held

/-! ## Watchpoints (R353) -/

/-- The lowest watchpoint of a partition that a write of bytes [a, a + n) matches. -/
def State.watchHit (s : State) (p a n : Nat) : Option Nat :=
  (List.range 4).find? fun k =>
    let b := s.wf (prbAt p (0x1100 + 8 * k)) 0 57
    let l := s.wf (prbAt p (0x1120 + 8 * k)) 0 13
    let m := (s.w (prbAt p (0x1140 + 8 * k))).toNat
    (List.range n).any fun i => decide (b ≤ a + i) && decide (a + i < b + l) && m.testBit ((a + i - b) % 64)

/-! ## The checks of an access (R193, R391) -/

/-- What an access asks for. -/
inductive AccKind where
  | load
  | store
  | atomic
  | enq
  deriving DecidableEq, Repr

def Kind.master : Kind → Nat
  | .service => 0
  | .runAhead => 1
  | .handler => 2
  | .cellar => 3

/-- Whether a thread accesses memory as a cellar thread (R186, R391). -/
def Thread.asCellar (T : Thread) : Bool := decide (T.priv = 3)

/-- Order 4 for a thread that is checked: translation and access table. -/
def State.rightCause (s : State) (T : Thread) (x : Xlat) (k : AccKind) : Option Nat :=
  let right := match k with
    | .load | .enq => (x.rd, 0)
    | .store => (x.wr, 1)
    | .atomic => (x.at_, 2)
  if !right.1 then some 0x06
  else match matTarget x.pa with
    | some t => if s.matRight t T.part T.kind.master right.2 then none else some 0x06
    | none => none

/-- Order 4 for what no access reaches: atomics of the window, stores to runoff and request queues (R277, R354). -/
def placeCause (pa : Nat) (k : AccKind) : Option Nat :=
  match targetOf pa, k with
  | .window, .atomic | .window, .enq => some 0x06
  | .request _, .store | .request _, .atomic | .runoff _, .store | .runoff _, .atomic => some 0x06
  | _, _ => none

/-- The translation a thread's access uses, with the place it reaches: none where check 3 fails. -/
def State.threadXlat (s : State) (T : Thread) (ea : Nat) (k : AccKind) : Option Xlat :=
  if T.asCellar then (if targetOf ea = .none then none else some ⟨ea, true, true, true, none, 0⟩)
  else match s.translate T.part ea with
    | some x =>
      let pa := match k with
        | .load | .enq => s.placeRead T.part ea x
        | .store | .atomic => s.writePa T.part ea x
      if targetOf pa = .none then none else some { x with pa := pa }
    | none => none

/-- What no load reads: another package, and the places of R354 that only writes reach (order 6 of R193). -/
def noRead (pa : Nat) : Bool :=
  (otherPkg pa).isSome || (match targetOf pa with
    | .request _ | .runoff _ | .dead => true
    | _ => false)

/-- The checks of R193 in their order; a cause, or the translation. `size` is the access size and `align` what the
address must be a multiple of. -/
def State.checkAccess (s : State) (T : Thread) (ea size align : Nat) (k : AccKind) : Except Nat Xlat :=
  let high := if T.asCellar then ea / 2 ^ 52 else ea / 2 ^ 57
  if high ≠ 0 then .error 0x05
  else if ea % align ≠ 0 then .error (if k = .atomic then 0x07 else 0x04)
  else match s.threadXlat T ea k with
    | none => .error 0x05
    | some x =>
      let win := decide (targetOf x.pa = .window)
      if win && (decide (k = .load) || decide (k = .store)) && decide (size ≠ 8) then .error 0x04
      else
        let c4 := match placeCause x.pa k with
          | some c => some c
          | none => if T.asCellar then none else s.rightCause T x k
        match c4 with
        | some c => .error c
        | none =>
          let c5 := if win then (if k = .store then s.winWriteCause T x.pa else s.winReadCause T x.pa) else none
          match c5 with
          | some c => .error c
          | none =>
            if k = .load ∧ noRead x.pa then .error 0x06
            else if (k = .store ∨ k = .atomic) ∧ !T.asCellar ∧ (s.watchHit T.part ea size).isSome then .error 0x30
            else .ok x

/-! ## Access counters (R298) -/

/-- Count an access of a partition that translates to host or pooled memory. -/
def State.countMig (s : State) (p va pa : Nat) : State :=
  let ctl := prbAt p 0x1008
  let page := va / 2 ^ 16
  let first := s.wf (prbAt p 0x1010) 16 41
  if s.wf ctl 0 1 = 1 ∧ targetOf pa = .host ∧ first ≤ page ∧ page < first + s.wf ctl 32 32 then
    let a := s.wf (prbAt p 0x1018) 6 46 * 64 + 2 * (page - first)
    let v := s.serveLine a
    let n := v.1.mget (memKey a) 2
    let thr := s.wf ctl 16 16
    if v.2 && decide (n < thr) then
      let s1 := v.1.storeBytes .hub (memKey a) (natBytes (n + 1) 2)
      if n + 1 = thr then s1.irq irqMigrate (page - first) else s1
    else v.1
  else s

/-! ## Writes on their way (R235 to R237) -/

/-- Issue a write: it waits for its performing and its acknowledgement. -/
def State.issue (s : State) (w : PWrite) : State :=
  { s with nextId := s.nextId + 1
           writes := s.writes ++ [{ w with id := s.nextId, issued := s.now }] }

/-- A write whose acknowledgement a release or fence at SYSTEM, or at a narrower scope, waits for (R236). -/
def PWrite.waitedAt (w : PWrite) (scope : Nat) : Bool :=
  match w.kind, otherPkg w.pa, targetOf w.pa with
  | .tlsig _ _, none, _ => false
  | _, none, .hbm _ => true
  | _, _, _ => decide (scope = 5)

/-- Whether every write of a master that a release at the scope waits for is acknowledged. -/
def State.quiet (s : State) (m : Master) (scope : Nat) : Bool :=
  decide (scope = 0) || s.writes.all fun w => decide (w.by_ ≠ m) || !w.waitedAt scope

/-- The byte that the latest unacknowledged write of a thread before its load `id` holds at an address, if one does
(R238). -/
def forward (ws : List PWrite) (m : Master) (id a : Nat) : Option Byte :=
  match ws.reverse.find? fun w => decide (w.by_ = m) && decide (w.id < id) && overlaps a 1 (memKey w.pa) w.len &&
      (match w.kind with
        | .tlsig _ _ => false
        | _ => true) with
  | some w => match w.kind with
    | .store => w.data[a - memKey w.pa]?
    | _ => if w.performed then w.data[a - memKey w.pa]? else none
  | none => none

/-- A read of n bytes by a thread's load at an instant: its own unacknowledged writes are forwarded. -/
def State.readAt (s : State) (m : Master) (id a i : Nat) : Nat → List Byte
  | 0 => []
  | n + 1 =>
    (match forward (s.writes ++ s.heldAcc) m id a with
      | some b => b
      | none => byteAtInstant s.hist a i (s.byte a)) :: s.readAt m id (a + 1) i n

/-- The cycle in which a thread's own latest write to some of the bytes was performed (R238). -/
def ownLatest (h : List HistEntry) (m : Master) (a n : Nat) : Nat :=
  h.foldl (fun x e => if e.by_ = m ∧ a ≤ e.pa ∧ e.pa < a + n then max x e.at_ else x) 0

/-! ## Atomics (R196, R197) -/

def floatAdd (f : Fmt) (a b : Nat) : Nat := (roundF f .rne false 0 (FVal.add .rne (f.decode a) (f.decode b))).bits

/-- The new value of an AMO on w bits. -/
def amoNew (op w old b : Nat) : Nat :=
  match op with
  | 0 => (old + b) % 2 ^ w
  | 1 => Nat.land old b
  | 2 => Nat.lor old b
  | 3 => Nat.xor old b
  | 4 => if intOf true w old ≤ intOf true w b then old else b
  | 5 => if intOf true w old ≤ intOf true w b then b else old
  | 6 => min old b
  | 7 => max old b
  | 8 => b
  | 9 => floatAdd .fp32 old b
  | _ => floatAdd .fp64 old b

end Sys2Proof.Machine
end

