-- ==== Sys2Proof/Machine/LinkOps.lean ====
section
/-! DEFINITION. Gateways, ordered and runoff lines that leave the package, and the issue of a write (R285, R354 to R360,
R363 to R366). The records that leave stand in `outbox`; what comes back is an input (log entries 14 and 15). -/

namespace Sys2Proof.Machine

/-! ## Gateways (R364) -/

inductive Gate where
  | admitted
  | held
  | denied
  deriving DecidableEq, Repr

def State.gwRate (s : State) (p : Nat) : Nat := s.wf (prbAt p 0x1068) 0 24
def State.gwBurst (s : State) (p : Nat) : Nat := s.wf (prbAt p 0x1068) 24 24
/-- The owner identifier of a partition's traffic. -/
def State.gwOwner (s : State) (p : Nat) : Nat := s.wf (prbAt p 0x1060) 0 16

/-- Traffic of n 64-byte units, two to a line, asks to enter a partition; `again` where it has been counted as refused and
asks once more. -/
def State.gateway (s : State) (p owner n : Nat) (again : Bool) : State × Gate :=
  let cnt := prbAt p 0x1070
  let have_ := tget 0 s.gwAllow p
  let refuse := s.bumpW cnt 32 32 ((n + 1) / 2)
  if s.gwOwner p ≠ owner then (refuse, .denied)
  else if s.gwRate p ≠ 0 ∧ have_ < n then (if again then s else refuse, .held)
  else
    let s1 := if s.gwRate p = 0 then s else { s with gwAllow := tset 0 s.gwAllow p (have_ - n) }
    (s1.bumpW cnt 0 32 n, .admitted)

def Gate.ok : Gate → Bool
  | .admitted => true
  | _ => false

/-- The allowance rises by RATE, up to BURST. -/
def State.gatewayRefill (s : State) (p : Nat) : State :=
  if s.gwRate p = 0 then s
  else { s with gwAllow := tset 0 s.gwAllow p (min (s.gwBurst p) (tget 0 s.gwAllow p + s.gwRate p)) }

/-! ## Routes and ports (R355 to R357) -/

def State.out (s : State) (r : List Nat) : State := { s with outbox := s.outbox ++ [r] }

def State.routeValid (s : State) (d : Nat) : Bool := decide (s.wf (brbRouteAt d) 0 1 = 1)
def State.routeHeld (s : State) (d : Nat) : Bool := decide (s.wf (brbRouteAt d) 18 1 = 1)
def State.routePort (s : State) (d : Nat) : Nat := s.wf (brbRouteAt d) 1 5
def State.portUp (s : State) (i : Nat) : Bool := decide (s.wf (brbPortAt i 0) 0 1 = 1) && decide (s.wf (brbPortAt i 0) 9 1 = 0)

/-- The port that lines already sent toward a package went by. -/
def State.sentPort (s : State) (d : Nat) : Nat :=
  match tget 0 s.oldPort d with
  | 0 => s.routePort d
  | n + 1 => n

/-- Whether a write goes to a runoff address of another package (R354). -/
def PWrite.isRunoff (w : PWrite) : Bool :=
  match remoteTarget (w.pa % 2 ^ 41) with
  | .runoff _ => (otherPkg w.pa).isSome
  | _ => false

/-- Whether a line toward a package can leave now: an ordered one waits for HOLD, each for its port (R357, R365, R366; log
entry 60). -/
def State.sendable (s : State) (d : Nat) (w : PWrite) : Bool := (w.isRunoff || !s.routeHeld d) && s.portUp (s.routePort d)

/-- Ordered writes toward a package that are not acknowledged, but for those that still wait to be sent. -/
def State.linesTo (s : State) (d : Nat) : List Nat :=
  (s.writes.filter fun w => decide (otherPkg w.pa = some d) && w.retryAt.isNone && !w.performed).map (·.id)

/-! ## Lines (R357 to R359) -/

/-- What a write is called in the record of its line. -/
def WKind.code : WKind → Nat
  | .store => 0
  | .copy _ _ => 1
  | .tlsig _ add => 2 + add.toNat
  | .arc what line => 4 + what + 64 * line
  | .amo op _ => 16 + op
  | .cas _ _ _ => 32

def Master.isEngine : Master → Bool
  | .engine _ => true
  | _ => false

/-- The 128 bytes of a write's line: a store's bytes at their place, the operands of an atomic from bytes 0 and 16 (log entry
15). -/
def PWrite.image (w : PWrite) : Nat :=
  match w.kind with
  | .amo _ _ | .tlsig _ _ => bytesNat w.data
  | .arc 1 n => n
  | .cas e _ _ => bytesNat w.data + 2 ^ 128 * e.toNat
  | _ => 2 ^ (8 * (w.pa % 128)) * bytesNat w.data

/-- The header fields of a line that the package originates: destination, port, virtual channel, partition, owner, slot. -/
def State.lineHead (s : State) (d p : Nat) : List Nat := [d, s.routePort d, 0, p, s.gwOwner p, s.routeSlot d]

/-- One ordered line leaves, encrypted and tagged. One that left before is replayed as it was (R358, R359). -/
def State.sendOrdered (s : State) (d : Nat) (w : PWrite) : State :=
  let a := w.pa % 2 ^ 41
  let r := if w.sealed_ = [] then s.sealLine d (a / 128 * 128) w.image
    else (s.bumpW (brbPortAt (s.routePort d) 1) 16 16 1, w.sealed_)
  let sent := fun (x : PWrite) => if x.id = w.id then
      { x with retryAt := none, sealed_ := r.2, issued := if x.by_.isEngine && w.sealed_.isEmpty then s.now else x.issued }
    else x
  { r.1.out (1 :: s.lineHead d w.part ++ r.2 ++ [w.id, w.kind.code, a, w.len]) with writes := s.writes.map sent }

/-- A runoff block leaves as four lines, and is acknowledged with that (R360, R387). -/
def State.sendRunoff (s : State) (d : Nat) (w : PWrite) : State :=
  let a := w.pa % 2 ^ 41
  let r := s.sealLines d a ((List.range 4).map fun k => bytesNat ((w.data.drop (128 * k)).take 128))
  { r.1.out (6 :: s.lineHead d w.part ++ [a] ++ r.2) with writes := s.writes.filter fun x => decide (x.id ≠ w.id) }

/-- Whether this package answers a write itself with a PROTECT denial (R277, R356, R358). -/
def State.localDenial (s : State) (pa : Nat) : Bool :=
  match otherPkg pa with
  | some d => !s.routeValid d || (s.key (s.routeSlot d)).cur.isNone
  | none => decide (targetOf pa = .dead)

/-- A write that waits to leave: denied here, sent, or left waiting. -/
def State.sendLine (s : State) (d : Nat) (w : PWrite) : State :=
  let deny := fun (x : PWrite) => if x.id = w.id then { x with retryAt := none, performed := true, deny := 0x06 } else x
  if s.localDenial w.pa then { s with writes := s.writes.map deny }
  else if !s.sendable d w then s
  else if w.isRunoff then s.sendRunoff d w
  else s.sendOrdered d w

/-- Send every line toward a package that waits and may leave, in order. -/
def State.flushLines (s : State) (d : Nat) : State :=
  (s.writes.filter fun w => decide (otherPkg w.pa = some d) &&
    (match w.retryAt with
      | some n => decide (n ≤ s.now)
      | none => false)).foldl (fun s w => s.sendLine d w) s

/-- The end of a route change, once every line of the old port is acknowledged (R357). -/
def State.settleRoute (s : State) (d : Nat) : State :=
  if s.routeHeld d ∧ s.linesTo d = [] then
    ({ s.setWf (brbRouteAt d) 18 1 0 with oldPort := tset 0 s.oldPort d 0 }).flushLines d
  else s

/-- Issue a write or atomic: denied here, sent, or left for its home in this package. -/
def State.issueWrite (s : State) (w : PWrite) : State :=
  if s.localDenial w.pa then s.issue { w with performed := true, deny := 0x06 }
  else match otherPkg w.pa with
    | some d => (s.issue { w with retryAt := some s.now }).flushLines d
    | none => s.issue w

/-- A line that this package has sent is asked for again. A port under repair serves the replays that come within the first
2,200 cycles, later ones are cancelled and leave when it resumes; a port that is down sends nothing (R359, R365, R366). -/
def State.replay (s : State) (d : Nat) (w : PWrite) : State :=
  let i := s.sentPort d
  let late : Bool := match (tget Port.zero s.ports i).repair with
    | some (_, at_) => decide (at_ + 2200 ≤ s.now)
    | none => false
  let wait := fun (x : PWrite) => if x.id = w.id then { x with retryAt := some s.now } else x
  if late ∨ s.wf (brbPortAt i 0) 0 1 = 0 then { s with writes := s.writes.map wait }
  else
    let a := w.pa % 2 ^ 41
    (s.bumpW (brbPortAt i 1) 16 16 1).out ([1, d, i, 0, w.part, s.gwOwner w.part, s.routeSlot d] ++ w.sealed_ ++
      [w.id, w.kind.code, a, w.len])

/-- Mark what a thread hears with a denied acknowledgement: it freezes at its next waiting instruction (R285). -/
def State.denyThread (s : State) (t cause : Nat) (ea : Word) (device : Bool) : State :=
  let T := s.thread t
  match T.denied, T.status with
  | some _, _ | none, .none => s
  | none, _ => s.setThread t { T with denied := some (cause, ea, device) }

/-! ## Arc endpoints (R262, R264) -/

/-- An arc of a partition as one number. -/
def arcKey (p a : Nat) : Nat := 4096 * p + a

/-- The address that an arc's traffic carries in its header, which the spec leaves open (log entry 134): its arc and its line,
in the area that no memory answers. -/
def arcAddr (pkg a line : Nat) : Nat := 2 ^ 51 + 2 ^ 41 * pkg + Config.hbmBytes + 0x100000 + 128 * (2048 * a + line)

/-- The endpoint of an arc sends a line, a marker, a commit, an abort or a credit: ordered traffic of its partition. -/
def State.sendArc (s : State) (p pkg a what line : Nat) (data : List Byte) : State :=
  s.issueWrite {
    id := 0
    by_ := .arc p a
    part := p
    pa := arcAddr pkg a line
    ea := 0
    len := data.length
    data := data
    kind := .arc what line
    ord := 0
    scope := 0
    performed := false
    deny := 0
    retryAt := none
    issued := 0
    sealed_ := []
    fails := 0
    counted := false }

end Sys2Proof.Machine
end

