-- ==== Sys2Proof/Machine/FrameOps.lean ====
section
/-! DEFINITION. Regions and frames (R17 to R32, R142, R160 to R162, R176, R180, R254 to R274): firing starts, the row
counter, rate checks, routes, retirement, kills, the sluice. -/

namespace Sys2Proof.Machine

/-! ## Page headers (R22, R23) -/

def hWblk (h : BitVec 128) : Nat := bitsOf h.toNat 0 5 + 1
def hHblk (h : BitVec 128) : Nat := bitsOf h.toNat 5 4 + 1
def hDual (h : BitVec 128) : Bool := decide (bitsOf h.toNat 9 1 = 1)
def hIia (h : BitVec 128) : Nat := bitsOf h.toNat 10 5 + 1
def hIib (h : BitVec 128) : Nat := bitsOf h.toNat 15 4 + 1
def hSsel0 (h : BitVec 128) : Bool := decide (bitsOf h.toNat 19 1 = 1)
def hCsrc (h : BitVec 128) : Bool := decide (bitsOf h.toNat 20 1 = 1)
def hYield (h : BitVec 128) : Bool := decide (bitsOf h.toNat 21 1 = 1)
def hRole (h : BitVec 128) : Nat := bitsOf h.toNat 22 2
def hPhases (h : BitVec 128) : Nat := bitsOf h.toNat 24 4 + 1
def hIter (h : BitVec 128) : Nat := bitsOf h.toNat 32 32
def hStage (h : BitVec 128) : Nat := bitsOf h.toNat 64 16

/-! ## Regions and their partition -/

/-- The placed regions of a partition, in ascending id. -/
def State.regionsOf (s : State) (p : Nat) : List Nat :=
  (s.regions.filter fun e => e.2.placed && decide (e.2.part = p)).map (·.1)

/-- The regions of a partition's running graph. -/
def State.graphRegions (s : State) (p : Nat) : List Nat :=
  match (s.part p).graph with
  | some g => g.regions.filter fun r => (s.region r).placed
  | none => []

/-- The blocks of a region. -/
def blocksOf (r w h : Nat) : List Nat := (List.range h).flatMap fun y => (List.range w).map fun x => r + 32 * y + x

def blockOf (t : Nat) : Nat := t / 64 / 2 * 32 + t % 64 / 2

/-- The placed region that a tile belongs to. -/
def State.regionOfTile (s : State) (t : Nat) : Option Nat :=
  (s.regions.find? fun e => e.2.placed && (blocksOf e.1 e.2.w e.2.h).any (· == blockOf t)).map (·.1)

/-- The context of a frame-level happening in a tile of a region. -/
def State.frameCtx (s : State) (r t : Nat) : FabCtx := s.fabCtx r t 0 0

/-- The place of a frame-level check (R339, SLOT 6), or of a route (SLOT 5). -/
def State.frameOrigin (s : State) (r t slot cause : Nat) : Word :=
  originWord t 0 slot cause (s.part (s.region r).part).fcyc

/-- Freeze a region for a frame-level check at a tile. -/
def State.freezeFrame (s : State) (r t cause : Nat) (aux : Word := 0) (quiesce : Bool := false) : State :=
  let o := s.frameOrigin r t 6 cause
  s.freezeRegion r t { cause := cause, origin := o, sink := o, aux := aux, quiesce := quiesce }

/-- AUX of a RATE record (R351). -/
def rateAux (pond expected counted : Nat) : Word :=
  BitVec.ofNat 64 (pack [(5, pond), (3, 0), (10, expected), (10, counted)])

/-! ## Firing starts (R32, R142, R180, R266) -/

/-- Live accumulators or B buffers (R31): a row that holds a value, or an operand. -/
def VatCore.live (v : VatCore) : Bool := v.accst.any (fun e => decide (stLive e.2.toNat ≠ 0)) || decide (v.bbuf ≠ [])

/-- What a tile records at the first cycle of a firing; the vat state that R117 does not see rewritten with it. -/
def Tile.recordStart (T : Tile) (copy : Bool) : TileStart :=
  { vmode0 := T.vmode0, vmode1 := T.vmode1, scale := T.scale, rngkey := T.rngkey, dropthr := T.dropthr, tap0 := T.tap0,
    tap1 := T.tap1, gens := T.gens, vat := if copy && T.vat.live then some T.vat else none, vatst := T.vctl.vatst, sclPois := T.vctl.sclPois }

/-- Slots of cross-package arc ponds among those begun: their writer is another package's firing (R262). -/
def Tile.arcStaged (T : Tile) : List Nat := 
  T.staged.filter fun k => decide (peKind (T.pond (k / 256)).entry = 1) && decide (smState (tget 0 T.slots k) = 1)

/-- Working indices from the committed ones, monitors cleared with RIPE as classified. -/
def Pond.startFiring (q : Pond) (ripe : Bool) : Pond :=
  { q with wr := q.cr, ww := q.cw, mon := if ripe then monSet 0 22 1 1 else 0 }

/-- A pond that is ripe at frame start (R270). -/
def Tile.ripe (T : Tile) (p : Nat) : Bool :=
  let q := T.pond p
  let m := T.slot p (q.cw - 1).toNat
  peValid q.entry && decide (peDir q.entry = 0) && decide (smState m = 2) && smSluice m &&
    decide ((q.cw - q.cr).toNat = peInit q.entry + 1)

/-- An input pond with a sluice slot that came too early (R270). -/
def Tile.unripe (T : Tile) (p : Nat) : Bool :=
  let q := T.pond p
  let m := T.slot p (q.cw - 1).toNat
  peValid q.entry && decide (peDir q.entry = 0) && decide (smState m = 2) && smSluice m &&
    decide ((q.cw - q.cr).toNat < peInit q.entry + 1)

def Tile.inputs (T : Tile) : List Nat :=
  (List.range 32).filter fun p => peValid (T.pond p).entry && decide (peDir (T.pond p).entry = 0)

/-- The start of a firing in a tile; in a sluice firing the working read index of a ripe pond stands on the sluice
slot (R271). -/
def Tile.startFiring (T : Tile) (yield sluice : Bool) : Tile :=
  let step := fun (m : Tab Pond) (p : Nat) =>
    let q := (tget Pond.zero m p).startFiring (T.ripe p)
    let q1 := if sluice ∧ T.ripe p then { q with wr := q.cr + BitVec.ofNat 32 (peInit q.entry) } else q
    tset Pond.zero m p q1
  let st := T.recordStart (!yield)
  { (if st.vat.isSome then T.saveVat else T) with
    ponds := (List.range 32).foldl step T.ponds
    seen := []
    staged := T.arcStaged
    imm := none
    start := st }

/-- The run-ahead thread at the firing's first cycle (R32). -/
def State.recordRau (s : State) (r : Nat) : State :=
  let t := rauThread r
  let T := s.thread t
  s.setThread t { T with startRegs := T.regs, startPc := T.pc, startStatus := T.status }

/-- Start a region's firing at frame cycle 0. -/
def State.startFiring (s : State) (r : Nat) (kind : FKind) (nrs : Nat) : State :=
  let R := s.region r
  let s1 := s.mapTiles (R.tilesOf r) fun T => T.startFiring (hYield R.hdr) (decide (kind = .sluice))
  let s2 := s1.recordRau r
  s2.setRegion r { R with
    iter := 0
    pos := 0
    sel := hSsel0 R.hdr
    nextSel := none
    bub := 0
    ended := false
    endAt := none
    sels := []
    done := false
    rateOk := false
    kind := kind
    pendSet := nrs
    grants := []
    killed := false
    ccyc := 0
    fin := false
    recheck := false
    startCond := R.condq }

/-- A region whose firing cannot begin: its start is recorded, and its frame-start checks are made again (R260). -/
def State.holdStart (s : State) (r : Nat) : State :=
  let s1 := s.startFiring r .normal 0
  s1.setRegion r { s1.region r with ended := true, recheck := true }

/-- The frame of a sealed region: no word, DONE at frame cycle 0 (R272). Its immediate latches clear all the same (R142). -/
def State.startSealed (s : State) (r : Nat) : State :=
  let R := s.region r
  (s.mapTiles (R.tilesOf r) fun T => { T with imm := none, staged := T.arcStaged }).setRegion r { R with
    iter := 0
    pos := 0
    ended := true
    endAt := none
    sels := []
    done := true
    kind := .idle
    grants := []
    killed := false
    ccyc := 0
    fin := false
    recheck := false }

/-! ## Classification (R270) -/

/-- What a region's frame start comes to. -/
inductive Class where
  | sealed
  | normal
  | sluice (nrs : Nat)
  /-- RATE at a tile and pond: INIT + 1 expected, the occupancy counted -/
  | rate (t p expected counted : Nat)
  deriving DecidableEq, Repr

/-- Tiles and ponds of a region's input ponds. -/
def State.inputPonds (s : State) (r : Nat) : List (Nat × Nat) :=
  ((s.region r).tilesOf r).flatMap fun t => (s.tile t).inputs.map fun p => (t, p)

def State.nrsAt (s : State) (tp : Nat × Nat) : Nat :=
  let T := s.tile tp.1
  smNrs (T.slot tp.2 ((T.pond tp.2).cw - 1).toNat)

def State.classify (s : State) (r : Nat) : Class :=
  if (s.region r).sealed then .sealed
  else
    let ins := s.inputPonds r
    let ripes := ins.filter fun tp => (s.tile tp.1).ripe tp.2
    match ins.find? fun tp => (s.tile tp.1).unripe tp.2 with
    | some tp =>
      let q := (s.tile tp.1).pond tp.2
      .rate tp.1 tp.2 (peInit q.entry + 1) (q.cw - q.cr).toNat
    | none =>
      match ripes with
      | [] => .normal
      | a :: rest =>
        match rest.find? fun tp => s.nrsAt tp ≠ s.nrsAt a with
        | some tp => .rate tp.1 tp.2 (s.nrsAt a) (s.nrsAt tp)
        | none => if ripes.length = ins.length then .sluice (s.nrsAt a) else .normal

/-! ## Arcs at frame start (R260, R264) -/

/-- The declared count of a pond in a rate set and phase (R22). -/
def Region.dec (R : Region) (set phase p : Nat) : Nat := (tget 0 R.rates (512 * set + 32 * phase + p)).toNat

/-- Credit of an arc endpoint (R264): the consumer pond's slots less what its committed write index is ahead of the last
read index received. -/
def State.credit (s : State) (p : Nat) (x : Route) : Nat :=
  let used := (x.comm - (tget 0 s.credits (arcKey p (bitsOf x.raw.toNat 74 12))).setWidth 32).toNat
  x.slots - used

/-- Whether the arc ponds of a region let its firing start: order 1 and credit, in a sluice firing the sluice slot only
(R260). -/
def State.arcReady (s : State) (r : Nat) (k : Class) : Bool :=
  let R := s.region r
  let dec := fun p => match k with
    | .sluice _ => 1
    | _ => R.dec R.rset R.phase p
  let inOk := ((R.tilesOf r).all fun t =>
    let T := s.tile t
    T.inputs.all fun p =>
      let q := T.pond p
      peKind q.entry ≠ 1 ∨ (List.range (dec p)).all fun j =>
        let x := (match k with
          | .sluice _ => q.cr + BitVec.ofNat 32 (peInit q.entry)
          | _ => q.cr) + BitVec.ofNat 32 j
        decide (smState (T.slot p x.toNat) = 2))
  let outOk := R.routes.all fun x =>
    bitsOf x.raw.toNat 1 2 ≠ 3 ∨
      decide (dec (bitsOf x.raw.toNat 3 5) ≤ s.credit R.part x)
  match k with
  | .sealed | .rate .. => true
  | .sluice _ => inOk
  | .normal => inOk && outOk

/-- The arc slots that a frame start checks in a tile (R260): of each arc input pond the slots that its phase consumes, in
a sluice firing the sluice slot alone. -/
def Tile.arcSlots (T : Tile) (dec : Nat → Nat) (k : Class) : List (Nat × BitVec 32) :=
  (T.inputs.filter fun p => decide (peKind (T.pond p).entry = 1)).flatMap fun p =>
    let q := T.pond p
    match k with
    | .sluice _ => [(p, q.cr + BitVec.ofNat 32 (peInit q.entry))]
    | _ => (List.range (dec p)).map fun j => (p, q.cr + BitVec.ofNat 32 j)

/-- Orders 2 and 3 of R163 on the arc slots of a region, once all are FULL: the first failure. -/
def State.arcTagCause (s : State) (r : Nat) (k : Class) : Option (Nat × Nat) :=
  let R := s.region r
  (R.tilesOf r).findSome? fun t =>
    let T := s.tile t
    (T.arcSlots (R.dec R.rset R.phase) k).findSome? fun x => (T.checkSlot x.1 x.2.toNat true).map fun c => (t, c)

/-- The arc slots checked count as read (R260). -/
def State.arcSeen (s : State) (r : Nat) (k : Class) : State :=
  let R := s.region r
  s.mapTiles (R.tilesOf r) fun T =>
    (T.arcSlots (R.dec R.rset R.phase) k).foldl (fun T x => T.addSeen x.1 x.2.toNat) T

/-- The arcs that feed a region and have a line given up (R359). -/
def State.brokenArcs (s : State) (r : Nat) : List Nat :=
  let p := (s.region r).part
  match (s.part p).graph with
  | none => []
  | some g => match g.decl with
    | none => []
    | some d => s.arcBad.filter fun k => decide (k / 4096 = p) && match d.arcs[k % 4096]? with
      | some x => decide (x.consPkg = Config.pkgId.toNat) && decide (x.cons = (s.region r).actor)
      | none => false

def State.arcBroken (s : State) (r : Nat) : Bool := decide (s.brokenArcs r ≠ [])

/-- Begin one region's frame by its class. -/
def State.beginRegion (s : State) (r : Nat) : State :=
  let k := s.classify r
  match k with
  | .sealed => s.startSealed r
  | .rate t p e n => (s.holdStart r).freezeFrame r t 0x11 (rateAux p e n)
  | .normal | .sluice _ =>
    let s1 := match k with
      | .sluice n => s.startFiring r .sluice n
      | _ => s.startFiring r .normal 0
    if s.arcBroken r then
      let s2 := { s with arcBad := s.arcBad.filter fun a => !((s.brokenArcs r).any (· == a)) }
      (s2.holdStart r).freezeFrame r (regionTile r) 0x41
    else match s.arcTagCause r k with
      | some (t, c) => (s1.arcSeen r k).freezeFrame r t c
      | none => s1.arcSeen r k

/-! ## Conditions (R27) -/

/-- Deliver a condition: discarded and counted where the source is not the page's; `none` where the queue is full. -/
def State.deliverCond (s : State) (r : Nat) (fromTile v : Bool) : Option State :=
  let R := s.region r
  if !hDual R.hdr || (hCsrc R.hdr != fromTile) then
    some ((s.setRegion r { R with disc := R.disc + 1 }).bumpDc R.part 5 1)
  else if 4 ≤ R.condq.length then none
  else some (s.setRegion r { R with condq := R.condq ++ [v] })

/-! ## The row counter (R26) -/

def Region.ii (R : Region) : Nat := if R.sel then hIib R.hdr else hIia R.hdr
def Region.row (R : Region) : Nat := (if R.sel then 16 else 0) + R.pos
/-- The firing runs: words are still to be selected. -/
def Region.firing (R : Region) : Bool := !R.ended && !R.done && decide (R.kind ≠ .idle)
/-- The next selection is a last row that needs a condition (R26). -/
def Region.needsCond (R : Region) : Bool :=
  R.firing && hDual R.hdr && decide (R.bub = 0) && decide (R.pos + 1 = R.ii) && decide (R.iter + 1 < hIter R.hdr) &&
    R.nextSel.isNone

/-- Move the counter past the row just selected. -/
def Region.advance (R : Region) : Region :=
  if R.pos + 1 < R.ii then { R with pos := R.pos + 1 }
  else if R.iter + 1 < hIter R.hdr then
    let c := R.nextSel.getD R.sel
    { R with iter := R.iter + 1, pos := 0, bub := if c = R.sel then 0 else 2, sel := c, nextSel := none }
  else { R with ended := true, endAt := some (R.rcyc + 2 * R.w) }

/-- One cycle of the row counter: what the west edge issues, handed east one tile a cycle (R25). -/
def Region.select (R : Region) : Region :=
  let put := fun (R : Region) (x : Option (Nat × Nat)) => { R with sels := (x :: R.sels).take (2 * R.w) }
  if !R.firing then put R none
  else if R.bub ≠ 0 then put { R with bub := R.bub - 1 } none
  else put R.advance (some (R.row, R.iter))

/-! ## DONE and the rate check (R18, R267) -/

/-- The first pond of a tile whose monitor breaks the expectation: pond, expected, counted. -/
def Tile.rateError (T : Tile) (R : Region) : Option (Nat × Nat × Nat) :=
  (List.range 32).findSome? fun p =>
    let q := T.pond p
    let dec := R.dec R.rset R.phase p
    if !peValid q.entry then none
    else
      let (ec, ep, es) := match R.kind, peDir q.entry with
        | .sluice, 1 => (0, 0, 1)
        | .sluice, _ => (0, 0, 0)
        | _, 0 => (dec, 0, 0)
        | _, 1 => (0, dec, 0)
        | _, _ => (dec, dec, 0)
      if monCons q.mon ≠ ec then some (p, ec, monCons q.mon)
      else if monProd q.mon ≠ ep then some (p, ep, monProd q.mon)
      else if monSlfw q.mon ≠ es then some (p, es, monSlfw q.mon)
      else none

/-- A slot of a pond that is STAGED and open. -/
def Tile.openSlot (T : Tile) : Option Nat :=
  (List.range 32).find? fun p => peValid (T.pond p).entry &&
    (List.range (peCount (T.pond p).entry)).any fun x => decide (smState (T.slot p x) = 1) && !smClosed (T.slot p x)

/-- The rate check of a region: tile, pond, expected, counted. -/
def State.rateCheck (s : State) (r : Nat) : Option (Nat × Nat × Nat × Nat) :=
  let R := s.region r
  (R.tilesOf r).findSome? fun t =>
    match (s.tile t).rateError R with
    | some (p, e, n) => some (t, p, e, n)
    | none => (s.tile t).openSlot.map fun p => (t, p, 0, 0)

/-! ## Permits (R176) -/

def tweId (t n : Nat) : Nat := 4 * blockOf t + n
def permitKey (t pond : Nat) (drain : Bool) : Nat := 64 * t + 2 * pond + drain.toNat
def State.twe (s : State) (u : Nat) : Twe := tget Twe.zero s.twes u
def State.setTwe (s : State) (u : Nat) (x : Twe) : State := { s with twes := tset Twe.zero s.twes u x }
def State.permits (s : State) (u t pond : Nat) (drain : Bool) : Nat := tget 0 (s.twe u).permits (permitKey t pond drain)
def State.setPermits (s : State) (u t pond : Nat) (drain : Bool) (n : Nat) : State :=
  s.setTwe u { s.twe u with permits := tset 0 (s.twe u).permits (permitKey t pond drain) n }

/-- A sluice has closed a timeline input pond of the partition to fills (R269). -/
def State.sluiced (s : State) (p : Nat) : Bool :=
  match (s.part p).sluice with
  | some x => x.injected
  | none => false

/-- Pass a grant to its TWE: saturating at 1,023, the rest lost and counted; discarded behind a sluice. -/
def State.passGrant (s : State) (p : Nat) (g : Grant) : State :=
  if s.sluiced p ∧ !g.drain then s
  else
    let u := tweId g.tile g.twe
    let n := s.permits u g.tile g.pond g.drain + g.n
    let s1 := s.setPermits u g.tile g.pond g.drain (min n 1023)
    if 1023 < n then s1.bumpW (Config.twb (u / 4) (u % 4)) 32 32 (n - 1023) else s1

/-- The grants of a region as they pass, each with the permits held before it. -/
def State.passGrants (s : State) (r : Nat) : State :=
  let R := s.region r
  if R.killed || R.sealed then s
  else
    let x := R.grants.foldl (fun (a : State × List Grant) g =>
      (a.1.passGrant R.part g,
        a.2 ++ [{ g with before := some (a.1.permits (tweId g.tile g.twe) g.tile g.pond g.drain) }])) (s, [])
    x.1.setRegion r { x.1.region r with grants := x.2 }

/-- What a killed firing's grant has left with its TWE is discarded (R176); permits held before it stay (log entry 95). -/
def State.dropGrant (s : State) (g : Grant) : State :=
  match g.before with
  | none => s
  | some n =>
    let u := tweId g.tile g.twe
    s.setPermits u g.tile g.pond g.drain (min (s.permits u g.tile g.pond g.drain) n)

/-! ## Routes (R258, R259, R262) -/

def Route.path (x : Route) : Nat := bitsOf x.raw.toNat 1 2
def Route.spond (x : Route) : Nat := bitsOf x.raw.toNat 3 5
def Route.dpond (x : Route) : Nat := bitsOf x.raw.toNat 8 5
def Route.unit (x : Route) : Nat := bitsOf x.raw.toNat 37 2
def Route.start (x : Route) : Nat := bitsOf x.raw.toNat 39 20
def Route.pkg (x : Route) : Nat := bitsOf x.raw.toNat 64 10
def Route.peer (x : Route) : Nat := bitsOf x.raw.toNat 74 12

/-- Cycles of a path between two tiles: columns first, then rows, 3 for each die boundary (R259). -/
def pathCycles (a b : Nat) : Nat :=
  let ca := a % 64; let cb := b % 64; let ra := a / 64; let rb := b / 64
  (max ca cb - min ca cb) + (max ra rb - min ra rb) + (if ca / 32 ≠ cb / 32 then 2 else 0) +
    (if ra / 16 ≠ rb / 16 then 2 else 0)

/-- Indices of the closed slots that the firing staged in an output pond. -/
def Tile.stagedSlots (T : Tile) (p : Nat) : List Nat :=
  let q := T.pond p
  ((List.range (q.ww - q.cw).toNat).map fun i => (q.cw + BitVec.ofNat 32 i).toNat).filter fun x =>
    decide (smState (T.slot p x) = 1) && smClosed (T.slot p x)

/-- The tokens of a route name the slot "port or route" (R339). -/
def Token.atRoute (t : Token) : Token :=
  { t with origin := if t.origin = t.sink then BitVec.ofNat 64 (setBits t.origin.toNat 16 3 5) else t.origin
           sink := BitVec.ofNat 64 (setBits t.sink.toNat 16 3 5) }

def State.sendTokens (s : State) (r : Nat) (ts : List Token) : State :=
  let R := s.region r
  s.setRegion r { R with tokens := R.tokens ++ ts }

/-- Advance a pond's write index to a value. -/
def Tile.setWork (T : Tile) (p : Nat) (x : BitVec 32) : Tile := T.setPond p { T.pond p with ww := x }

/-- Every pointer of the package that writes a pond of a tile takes the pond's working write index: the two stand for one
index (R162). -/
def State.syncPointers (s : State) (t p : Nat) (v : BitVec 32) : State :=
  let hit := fun (q : RPtr) => q.valid && decide (q.tile = t) && decide (q.pond = p)
  s.mapTiles ((s.tiles.filter fun e => e.2.rptr.any fun x => hit x.2).map (·.1)) fun T =>
    { T with rptr := tmap (fun _ q => if hit q then { q with work := v } else q) T.rptr }

/-- A pond's working write index and the pointers that stand for it. -/
def State.setWork (s : State) (t p : Nat) (v : BitVec 32) : State :=
  (s.setTile t ((s.tile t).setWork p v)).syncPointers t p v

/-- A line of a route asks to enter its consumer: through the gateway where the partitions differ. -/
def State.routeGate (s : State) (r : Nat) (c : Option Nat) : State × Gate :=
  match c with
  | none => (s, .admitted)
  | some c =>
    let p := (s.region r).part
    let q := (s.region c).part
    if p = q then (s, .admitted) else s.gateway q (s.gwOwner p) 1 false

def State.putRoute (s : State) (r i : Nat) (y : Route) : State :=
  let R := s.region r
  s.setRegion r { R with routes := R.routes.set i y }

/-- A sluice marker of a route at its consumer: an EMPTY slot becomes a sluice slot (R256). -/
def State.routeMarker (s : State) (r : Nat) (c : FabCtx) (x : Route) (nrs : Nat) (pe : Word) : State :=
  let N := s.tile x.cons
  let q := N.pond x.dpond
  if smState (N.slot x.dpond q.ww.toNat) ≠ 0 then s.sendTokens r [(c.direct slotS 0x14).atRoute]
  else
    let m := smMake 1 true (smPois (N.slot x.dpond q.ww.toNat)) true nrs q.ww.toNat (peSwz pe) (peFmt pe)
    (s.setTile x.cons (N.setSlot x.dpond q.ww.toNat m)).setWork x.cons x.dpond (q.ww + 1)

/-- A line of a route at its consumer (R161, R257, R259). -/
def State.routeWrite (s : State) (r : Nat) (c : FabCtx) (x : Route) (pe : Word) (l : Line) : State :=
  let N := s.tile x.cons
  let q := N.pond x.dpond
  let o := N.writeSlot c x.dpond q.ww.toNat x.line ⟨q.entry, peSwz pe, peFmt pe⟩ l x.hops skPond
  let s1 := s.setTile x.cons o.tile
  (if o.closed then s1.setWork x.cons x.dpond (q.ww + 1) else s1).sendTokens r (o.toks.map Token.atRoute)

/-- One cycle of a route inside the package: one line, or one sluice marker, to the consumer pond; a line that the gateway
of another partition refuses is suppressed, and the producing region freezes with GATEWAY (R364). -/
def State.routeLine (s : State) (r i : Nat) (x : Route) : State :=
  let P := s.tile x.prod
  match (P.stagedSlots x.spond)[x.sent]? with
  | none => s
  | some ix =>
    let m := P.slot x.spond ix
    let pe := (P.pond x.spond).entry
    let cons := s.regionOfTile x.cons
    let cyc := match cons with
      | some c => (s.region c).rcyc
      | none => (s.region r).rcyc
    let c := { s.frameCtx r x.prod with cyc := cyc }
    let g := s.routeGate r cons
    let next := { x with sent := x.sent + 1, line := 0 }
    let y := if smSluice m ∨ x.line + 1 = peLines pe then next else { x with line := x.line + 1 }
    let s1 := g.1.putRoute r i y
    if !g.2.ok then s1.sendTokens r [(c.direct slotS 0x42).atRoute]
    else if smSluice m then s1.routeMarker r c x (smNrs m) pe
    else (s1.mapTiles [x.prod] fun T => T.noteSlot x.spond ix x.line).routeWrite r c x pe (P.bankLine c (peBank pe) (peLine pe ix x.line % 1536))

/-- One cycle of a cross-package arc endpoint (R262): the line leaves the package; a poisoned line does not. -/
def State.arcLine (s : State) (r i : Nat) (x : Route) : State :=
  let P := s.tile x.prod
  match (P.stagedSlots x.spond)[x.sent]? with
  | none => s
  | some ix =>
    let m := P.slot x.spond ix
    let pe := (P.pond x.spond).entry
    let put := fun (s : State) (y : Route) =>
      let R := s.region r
      (s.setRegion r { R with routes := R.routes.set i y }).mapTiles [x.prod] fun T =>
        if smSluice m then T else T.noteSlot x.spond ix x.line
    let c := s.frameCtx r x.prod
    let next := { x with sent := x.sent + 1, line := 0, work := x.work + 1 }
    let p := (s.region r).part
    if smSluice m then (put s next).sendArc p x.pkg x.peer 1 (smNrs m) []
    else
      let l := P.bankLine c (peBank pe) (peLine pe ix x.line % 1536)
      let y := if x.line + 1 = peLines pe then next else { x with line := x.line + 1 }
      if l.pois ≠ 0 then (put s y).sendTokens r [(c.sinkTok slotS l.org skRemote).atRoute]
      else (put s y).sendArc p x.pkg x.peer 0 x.line (natBytes l.bits.toNat 64)

/-- One cycle of the communication superstep of a region: every route that has started sends (R259). -/
def State.routesStep (s : State) (r : Nat) : State :=
  let R := s.region r
  (List.range R.routes.length).foldl (fun s i =>
    match (s.region r).routes[i]? with
    | none => s
    | some x =>
      if R.ccyc < x.start then s
      else if x.path = 3 then s.arcLine r i x
      else if x.resolved then s.routeLine r i x
      else s) s

/-! ## Retirement (R20, R30, R160, R256, R257, R271) -/

/-- A slot becomes EMPTY with its marks cleared. -/
def Tile.emptySlot (T : Tile) (p x : Nat) : Tile := T.setSlot p x 0

/-- Empty the slots from one index up to another. -/
def Tile.emptyFrom (T : Tile) (p x : Nat) : Nat → Tile
  | 0 => T
  | n + 1 => Tile.emptyFrom (T.emptySlot p x) p (x + 1) n

/-- Slots closed between two indices become FULL. -/
def Tile.fillFrom (T : Tile) (p x : Nat) : Nat → Tile
  | 0 => T
  | n + 1 =>
    let m := T.slot p x
    Tile.fillFrom (if smState m = 1 ∧ smClosed m then T.setSlot p x (smSet m 0 2 2) else T) p (x + 1) n

/-- A written slot range of a pond is committed: FULL, and the write index with it. -/
def Tile.commitWrites (T : Tile) (p : Nat) : Tile :=
  let q := T.pond p
  let T1 := T.fillFrom p q.cw.toNat (q.ww - q.cw).toNat
  T1.setPond p { T1.pond p with cw := q.ww }

/-- Whether the slot at an index was drained in this frame (R265). -/
def Tile.isDrained (T : Tile) (p x : Nat) : Bool := T.drained.any (· == slotKey p x (T.pond p).entry)

/-- The retirement of one pond of the region's own tiles. -/
def Tile.retirePond (T : Tile) (sluice routed : Bool) (p : Nat) : Tile :=
  let q := T.pond p
  let e := q.entry
  if !peValid e then T
  else if peDir e = 0 then
    -- an input pond: consumed slots are freed, a ripe sluice slot is retracted, fills become FULL
    let ripe := monRipe q.mon
    if sluice && ripe then
      let T1 := T.emptySlot p (q.cr + BitVec.ofNat 32 (peInit e)).toNat
      T1.setPond p { T1.pond p with cw := q.cw - 1, ww := q.ww - 1, wr := q.cr }
    else
      let T1 := T.emptyFrom p q.cr.toNat (q.wr - q.cr).toNat
      let T2 := T1.setPond p { T1.pond p with cr := q.wr }
      if peKind e = 2 then T2.commitWrites p else T2
  else if peDir e = 2 then
    let T1 := T.emptyFrom p q.cr.toNat (q.wr - q.cr).toNat
    (T1.setPond p { T1.pond p with cr := q.wr }).commitWrites p
  else if peKind e = 2 then
    -- a timeline output pond: drained slots are freed, forwarded sluice slots retracted, others become FULL
    let n := (q.ww - q.cr).toNat
    let drop := fun (T : Tile) (i : Nat) =>
      let x := (q.cr + BitVec.ofNat 32 i).toNat
      let m := T.slot p x
      if T.isDrained p x || (smSluice m && decide (smState m = 1)) then T.emptySlot p x else T
    let gone := ((List.range n).filter fun i => T.isDrained p (q.cr + BitVec.ofNat 32 i).toNat).length
    let back := ((List.range n).filter fun i =>
      let m := T.slot p (q.cr + BitVec.ofNat 32 i).toNat
      smSluice m && decide (smState m = 1)).length
    let T1 := (List.range n).foldl drop T
    let T2 := T1.fillFrom p q.cw.toNat (q.ww - q.cw).toNat
    T2.setPond p { T2.pond p with cr := q.cr + BitVec.ofNat 32 gone, cw := q.ww - BitVec.ofNat 32 back
                                  ww := q.ww - BitVec.ofNat 32 back }
  else if routed then
    let T1 := T.emptyFrom p q.cw.toNat (q.ww - q.cw).toNat
    T1.setPond p { T1.pond p with cw := q.ww, cr := q.ww }
  else T.commitWrites p

/-- The pointer that a route writes through, where it has one. -/
def State.routePtr (s : State) (x : Route) : Option RPtr :=
  let q := tget RPtr.zero (s.tile x.prod).rptr (rptrKey x.unit x.dpond)
  if x.path ≤ 1 ∧ q.valid then some q else none

/-- Commit what a region's routes have brought to their consumers: the pond and the pointer take the pointer's working
value (R162). -/
def State.commitRoute (s : State) (x : Route) : State :=
  if x.path = 3 then s
  else if !x.resolved then s
  else
    match s.routePtr x with
    | none => s.setTile x.cons ((s.tile x.cons).commitWrites x.dpond)
    | some q =>
      let s1 := s.setTile x.cons (((s.tile x.cons).setWork x.dpond q.work).commitWrites x.dpond)
      let T := s1.tile x.prod
      s1.setTile x.prod { T with rptr := tset RPtr.zero T.rptr (rptrKey x.unit x.dpond) { q with comm := q.work } }

/-- Commit the pointers of in-region writes. -/
def Tile.commitPointers (T : Tile) : Tile :=
  { T with rptr := tmap (fun _ q => { q with comm := q.work }) T.rptr }

/-- A range entry is published: its copies exchange and GEN rises (R218, R287). -/
def State.publish (s : State) (p n : Nat) : State :=
  let live := s.w (rangeAt p n 3)
  let shd := s.w (rangeAt p n 4)
  let g := s.rGen p n + 1
  let s1 := (s.setW (rangeAt p n 3) shd).setW (rangeAt p n 4) live
  (s1.setWf (rangeAt p n 0) 32 32 (if g % 2 ^ 32 = 0 then 1 else g)).setWf (rangeAt p n 0) 6 2 0

/-- The earlier of two indices of a pond. -/
def earlier (a b : BitVec 32) : BitVec 32 := if (a - b).toNat < 2 ^ 31 then b else a

/-- The earliest of a read index over the tiles of a region: all of its tiles have freed what lies before it. -/
def State.leastRead (s : State) (r p : Nat) (f : Pond → BitVec 32) : BitVec 32 :=
  let ts := ((s.region r).tilesOf r).filter fun t => peValid ((s.tile t).pond p).entry
  match ts with
  | [] => 0
  | t :: rest => rest.foldl (fun x u => earlier x (f ((s.tile u).pond p))) (f ((s.tile t).pond p))

/-- The commit of an arc endpoint leaves at retirement: withheld where a line of the firing was given up (R262, R359). -/
def State.commitArc (s : State) (p : Nat) (x : Route) : State :=
  let k := arcKey p x.peer
  if s.arcLost.any (· == k) then { s with arcLost := s.arcLost.filter (· ≠ k) }
  else s.sendArc p x.pkg x.peer 2 0 (natBytes x.work.toNat 4)

/-- Arc input ponds of a region that free slots at its retirement: producing package, arc, new read index (R264). -/
def State.freedArcs (s : State) (r : Nat) : List (Nat × Nat × Nat) :=
  let R := s.region r
  let arcs : List ArcDecl := match (s.part R.part).graph with
    | some g => (g.decl.map fun (d : GraphDecl) => d.arcs).getD []
    | none => []
  (List.range arcs.length).filterMap fun a =>
    match arcs[a]? with
    | some x =>
      let n := s.leastRead r x.consPond (·.wr)
      if x.cons = R.actor ∧ x.consPkg = Config.pkgId.toNat ∧ x.prodPkg ≠ x.consPkg ∧
          n ≠ s.leastRead r x.consPond (·.cr) ∧ R.kind ≠ .sluice then
        some (x.prodPkg, a, n.toNat)
      else none
    | none => none

/-- Records that leave at retirement: commits of arc endpoints, credits of arc input ponds (R262, R264). -/
def State.retireRecords (s : State) (r : Nat) : State :=
  let R := s.region r
  let s1 := (R.routes.filter fun x => x.path = 3).foldl (fun s x => s.commitArc R.part x) s
  (s.freedArcs r).foldl (fun s c => s.sendArc R.part c.1 c.2.1 4 0 (natBytes c.2.2 4)) s1

/-- Retire one region (R20). -/
def State.retireRegion (s : State) (r : Nat) : State :=
  let R := s.region r
  let sluice := decide (R.kind = .sluice)
  let routed := fun p => R.routes.any fun x => decide (x.spond = p)
  let s0 := s.retireRecords r
  let s1 := R.routes.foldl State.commitRoute s0
  let s2 := s1.mapTiles (R.tilesOf r) fun T =>
    { ((List.range 32).foldl (fun T p => T.retirePond sluice (routed p) p) T).commitPointers with drained := [] }
  let s3 := R.wrote.foldl (fun s n => s.publish R.part n) s2
  let R3 := s3.region r
  s3.setRegion r { R3 with
    fin := true
    fired := R3.fired + 1
    phase := if sluice || R.sealed then R.phase else (R.phase + 1) % hPhases R.hdr
    iter := 0
    sealed := R.sealed || sluice
    kind := .idle
    grants := []
    jobs := []
    drains := []
    heldWr := []
    wrote := []
    routes := R3.routes.map fun x => { x with sent := 0, line := 0, comm := x.work } }

/-! ## Kills (R30, R32, R136, R142, R180) -/

/-- A pond whose staged slots belong to the region's own firing. -/
def Region.ownWrites (R : Region) (e : Word) (p : Nat) : Bool :=
  peDir e ≠ 0 || decide (peKind e = 2) || R.routes.any fun x => decide (x.path = 0) && decide (x.dpond = p)

/-- The slots of a pond that the present firing of their writer has staged return to EMPTY, the write index to its committed
value; a slot that an earlier firing or a patch left STAGED stays (R256). -/
def Tile.dropStaged (T : Tile) (p : Nat) : Tile :=
  let q := T.pond p
  let step := fun (T : Tile) (x : Nat) =>
    let m := T.slot p x
    if smState m = 1 ∧ T.staged.any (· == slotKey p x q.entry) then T.emptySlot p x else T
  let T1 := (List.range (peCount q.entry)).foldl step T
  T1.setPond p { T1.pond p with ww := q.cw }

/-- Every value of a vat state poisoned. -/
def VatCore.spoil (v : VatCore) (org : Word) : VatCore :=
  { v with accPois := v.acc.foldl (fun m e => tset 0 m e.1 org) v.accPois
           bbuf := tmap (fun _ c => ⟨c.bits, BitVec.allOnes 256, [(0, org)]⟩) v.bbuf }

/-- The vat state at the firing's start, read back from the shadow store: poisoned where a line of its area there is
uncorrectable (R31, R32, R379). -/
def Tile.savedVat (T : Tile) (org : Word) : VatCore :=
  match T.start.vat with
  | some v => if T.shUe.any (· < 512) then v.spoil org else v
  | none => VatCore.empty

/-- A tile returns to the state of the firing's first cycle; slots that firings of other regions have begun in it stay theirs
(R257). -/
def Tile.killFiring (T : Tile) (R : Region) (org : Word) : Tile :=
  let a := T.start
  let others := T.staged.filter fun k => !R.ownWrites (T.pond (k / 256)).entry (k / 256)
  let T1 := (List.range 32).foldl (fun T p =>
    let q := T.pond p
    let T' := if R.ownWrites q.entry p then T.dropStaged p else T
    T'.setPond p { T'.pond p with wr := q.cr, mon := 0 }) T
  { T1 with
    vmode0 := a.vmode0
    vmode1 := a.vmode1
    scale := a.scale
    rngkey := a.rngkey
    dropthr := a.dropthr
    tap0 := a.tap0
    tap1 := a.tap1
    gens := a.gens
    vat := T.savedVat org
    vctl := { T.vctl with vatst := a.vatst, sclPois := a.sclPois, pend := [] }
    dels := []
    seen := []
    staged := others
    drained := []
    imm := none
    rptr := tmap (fun _ q => { q with work := q.comm }) T1.rptr }

/-- The run-ahead thread returns to where it stood at the firing's first cycle (R32). -/
def State.killRau (s : State) (r : Nat) : State :=
  let t := rauThread r
  let T := s.thread t
  s.setThread t { T with regs := T.startRegs, pc := T.startPc, status := T.startStatus, loads := [], nextAt := s.now + 1,
                         ready := [], denied := none }

/-- Slots that the killed firing's routes have staged at their consumers return to EMPTY, and endpoints abort. -/
def State.killRoute (s : State) (p : Nat) (x : Route) : State :=
  if x.path = 3 then
    { s with arcLost := s.arcLost.filter (· ≠ arcKey p x.peer) }.sendArc p x.pkg x.peer 3 0 (natBytes x.comm.toNat 4)
  else if !x.resolved then s
  else s.setTile x.cons ((s.tile x.cons).dropStaged x.dpond)

/-- Discard a firing that has not retired: it reruns from its start in the next frame (R32). -/
def State.discardFiring (s : State) (r : Nat) : State :=
  let R := s.region r
  let s1 := R.routes.foldl (fun s x => s.killRoute R.part x) s
  let fcyc := (s1.part R.part).fcyc
  let s2 := (R.tilesOf r).foldl (fun s t => s.setTile t ((s.tile t).killFiring R (originWord t 0 slotM 0x23 fcyc))) s1
  let s3 := s2.killRau r
  let s4 := R.grants.foldl State.dropGrant s3
  let R4 := s4.region r
  s4.setRegion r { R4 with
    frozen := false
    done := true
    fin := true
    killed := true
    ended := true
    endAt := none
    sels := []
    bub := 0
    nextSel := none
    iter := 0
    pos := 0
    condq := R.startCond
    kedges := []
    tokens := []
    grants := []
    kind := .idle
    recheck := false
    jobs := []
    drains := []
    heldWr := []
    wrote := []
    routes := R4.routes.map fun x => { x with sent := 0, line := 0, work := x.comm } }

/-- A kill of a region: its firing is discarded; one that stands between two firings has none to discard and goes on
(log entry 34). -/
def State.killFiring (s : State) (r : Nat) : State :=
  let R := s.region r
  if R.fin ∧ !R.killed then s.resumeRegion r else s.discardFiring r

/-! ## The sluice (R217, R269, R273) -/

/-- Frames ahead at whose start every region has PHASE 0, searched from k on. -/
def phaseZero (ps : List (Nat × Nat)) : Nat → Nat → Option Nat
  | _, 0 => none
  | k, n + 1 => if ps.all fun x => (x.1 + k) % x.2 == 0 then some k else phaseZero ps (k + 1) n

/-- Place the sluice slots of a drain at the start of its frame (R269). -/
def Tile.injectSluice (T : Tile) (nrs : Nat) : Tile :=
  (List.range 32).foldl (fun T p =>
    let q := T.pond p
    let e := q.entry
    if peValid e && decide (peDir e = 0) && decide (peKind e = 2) then
      let T1 := T.setSlot p q.cw.toNat (smMake 2 true false true nrs q.cw.toNat (peSwz e) (peFmt e))
      T1.setPond p { T1.pond p with cw := q.cw + 1, ww := q.cw + 1 }
    else T) T

/-- Fill permits on the timeline input ponds of a region's tiles are discarded. -/
def State.dropFills (s : State) (t : Nat) : State :=
  (List.range 4).foldl (fun s n =>
    (List.range 32).foldl (fun s p => s.setPermits (tweId t n) t p false 0) s) s

def State.injectSluice (s : State) (p nrs : Nat) : State :=
  (s.graphRegions p).foldl (fun s r =>
    let R := s.region r
    let s1 := s.mapTiles (R.tilesOf r) fun T => T.injectSluice nrs
    (R.tilesOf r).foldl State.dropFills s1) s

/-- The first pond of a region that is not at rest: tile, pond, INIT, occupancy (R273). -/
def State.restless (s : State) (r : Nat) : Option (Nat × Nat × Nat × Nat) :=
  ((s.region r).tilesOf r).findSome? fun t =>
    let T := s.tile t
    (List.range 32).findSome? fun k =>
      let q := T.pond k
      let bad := (List.range (peCount q.entry)).any fun x =>
        let m := T.slot k x
        decide (smState m = 1) || smSluice m || smPois m
      if peValid q.entry ∧ ((q.cw - q.cr).toNat ≠ peInit q.entry ∨ bad) then
        some (t, k, peInit q.entry, (q.cw - q.cr).toNat) else none

/-- The switch at quiescence (R273). -/
def State.switchSet (s : State) (p : Nat) : State :=
  let s1 := (s.graphRegions p).foldl (fun s r =>
    let R := s.region r
    s.setRegion r { R with rset := R.pendSet, phase := 0, sealed := false }) s
  let nrs := ((s.graphRegions p).head?.map fun r => (s.region r).pendSet).getD 0
  s1.setPart p { s1.part p with sluice := none, rset := nrs }

/-- The quiescence check of a partition whose regions are all sealed; it takes effect at a yield point of every region
(R29). Every region that owns a failing pond freezes, but for one that is frozen already. -/
def State.quiescence (s : State) (p : Nat) : State :=
  let rs := s.graphRegions p
  if rs = [] ∨ !(rs.all fun r => (s.region r).sealed && (s.region r).fin && hYield (s.region r).hdr) then s
  else if rs.all fun r => (s.restless r).isNone then s.switchSet p
  else rs.foldl (fun s r => match s.restless r with
    | some (t, k, e, n) => if (s.region r).frozen then s else s.freezeFrame r t 0x11 (rateAux k e n) true
    | none => s) s

end Sys2Proof.Machine
end

