-- ==== Sys2Proof/Machine/ImageOps.lean ====
section
/-! DEFINITION. The bytes of an Izyan image (R70, R71): its header, its section table, its pages, its CTL and TIMELINE
sections (R290), and the fields of step-table entries and timeline records (R291, R300). -/

namespace Sys2Proof.Machine

/-- n bytes from an offset on, and as a number. -/
def sliceOf (bs : List Byte) (off n : Nat) : List Byte := (bs.drop off).take n
def pgNum (bs : List Byte) (off n : Nat) : Nat := bytesNat (sliceOf bs off n)

/-! ## Header and section table (R70, R71) -/

/-- An entry of the section table. -/
structure Section where
  kind : Nat
  flags : Nat
  offset : Nat
  size : Nat
  target : Nat
  deriving DecidableEq, Repr

def sectionAt (bs : List Byte) (at_ : Nat) : Section where
  kind := pgNum bs at_ 4
  flags := pgNum bs (at_ + 4) 4
  offset := pgNum bs (at_ + 8) 8
  size := pgNum bs (at_ + 0x10) 8
  target := pgNum bs (at_ + 0x18) 8

end Sys2Proof.Machine

namespace Sys2Proof

open Sys2Proof.Machine

def ImageFile.magic (d : ImageFile) : Nat := pgNum d.file 0 4
def ImageFile.version (d : ImageFile) : Nat := pgNum d.file 4 2
def ImageFile.nsect (d : ImageFile) : Nat := pgNum d.file 6 2
def ImageFile.tabOff (d : ImageFile) : Nat := pgNum d.file 8 8
def ImageFile.meas (d : ImageFile) : BitVec 256 := BitVec.ofNat 256 (pgNum d.file 0x10 32)
def ImageFile.mbz (d : ImageFile) : Nat := pgNum d.file 0x30 16
def ImageFile.sections (d : ImageFile) : List Section :=
  (List.range d.nsect).map fun k => sectionAt d.file (d.tabOff + 32 * k)
def ImageFile.bytesOf (d : ImageFile) (x : Section) : List Byte := sliceOf d.file x.offset x.size

/-- What MEAS covers: the section table, then every section in table order. -/
def ImageFile.measured (d : ImageFile) : List Byte :=
  sliceOf d.file d.tabOff (32 * d.nsect) ++ d.sections.flatMap d.bytesOf

def ImageFile.kindOf (d : ImageFile) (k : Nat) : List Section := d.sections.filter fun x => decide (x.kind = k)

/-- The bytes of the first section of a kind with a TARGET; none where there is none. -/
def ImageFile.find (d : ImageFile) (k t : Nat) : List Byte :=
  match (d.kindOf k).find? fun x => decide (x.target = t) with
  | some x => d.bytesOf x
  | none => []

/-- The page of each actor. -/
def ImageFile.page (d : ImageFile) (a : Nat) : List Byte := d.find 2 a
/-- An entry of the pond table of a page, and a pond of an actor. -/
def pgPond (bs : List Byte) (k : Nat) : Word := BitVec.ofNat 64 (pgNum bs (0x100 + 8 * k) 8)
def ImageFile.pond (d : ImageFile) (a k : Nat) : Word := pgPond (d.page a) k

/-- The image of a package: the one that is loaded, or another of its set (R268). -/
def ImageDecl.imageOf (d : ImageDecl) (me pkg : Nat) : Option ImageFile :=
  if pkg = me then some d.toImageFile else (d.others.find? fun e => decide (e.1 = pkg)).map (·.2)

/-- The images of the set, each with its package. -/
def ImageDecl.set (d : ImageDecl) (me : Nat) : List (Nat × ImageFile) := (me, d.toImageFile) :: d.others

/-- The arcs of the whole graph. -/
def ImageDecl.allArcs (d : ImageDecl) (me : Nat) : List ArcDecl := ((d.set me).flatMap fun e => e.2.graph.arcs).eraseDups

/-- The slots of an arc's consumer pond (R259, R261). -/
def ImageDecl.arcSlots (d : ImageDecl) (me : Nat) (x : ArcDecl) : Nat :=
  match d.imageOf me x.consPkg with
  | some i => peCount (i.pond x.cons x.consPond)
  | none => 0

def ImageFile.actorCount (d : ImageFile) : Nat := d.graph.actors.length
def ImageFile.pages (d : ImageFile) : List (List Byte) := (List.range d.actorCount).map d.page

/-- The 10-byte words of a CTL section. -/
def codeWords (bs : List Byte) : List W80 := (List.range (bs.length / 10)).map fun k => BitVec.ofNat 80 (pgNum bs (10 * k) 10)

/-- The CTL sections: entry index and words. -/
def ImageFile.ctl (d : ImageFile) : List (Nat × List W80) := (d.kindOf 3).map fun x => (x.target, codeWords (d.bytesOf x))

/-- The bytes that the GRAPH section names for a pond of an actor in the DATA section (R254). -/
def ImageFile.initBytes (d : ImageFile) (a k : Nat) : List Byte :=
  match (d.graph.actors[a]?).bind fun (x : ActorDecl) => x.initData.find? fun e => decide (e.1 = k) with
  | some e => (d.find 4 0).drop e.2
  | none => []

/-! ## Timelines (R290, R291, R300) -/

/-- The records of a TIMELINE section: 1,504 in the first 16 KiB page, 2,048 in each later one. -/
def timelineRecords (bs : List Byte) : List Word :=
  ((List.range 1504).map fun k => BitVec.ofNat 64 (pgNum bs (0x1100 + 8 * k) 8)) ++
    (List.range ((bs.length - 16384) / 8)).map fun k => BitVec.ofNat 64 (pgNum bs (16384 + 8 * k) 8)

/-- A TIMELINE section: channel, kind and record count of its header, its step table, its records. -/
def timelineOf (bs : List Byte) : TimelineDecl where
  chan := pgNum bs 0 2
  retreat := decide (pgNum bs 2 1 % 2 = 1)
  steps := (List.range 256).map fun k => BitVec.ofNat 128 (pgNum bs (0x100 + 16 * k) 16)
  records := (timelineRecords bs).take (pgNum bs 4 2)

def ImageFile.timelines (d : ImageFile) : List TimelineDecl := (d.kindOf 5).map fun x => timelineOf (d.bytesOf x)

end Sys2Proof

namespace Sys2Proof.Machine

/-- Fields of a step-table entry (R300). -/
def teShape (e : BitVec 128) : Nat := bitsOf e.toNat 0 57
def tePiece (e : BitVec 128) : Nat := bitsOf e.toNat 64 16
def teTwe (e : BitVec 128) : Nat := bitsOf e.toNat 80 2
def teLast (e : BitVec 128) : Bool := decide (bitsOf e.toNat 82 1 = 1)
def teDrain (e : BitVec 128) : Bool := decide (bitsOf e.toNat 83 1 = 1)
def teCache (e : BitVec 128) : Bool := decide (bitsOf e.toNat 84 1 = 1)
def teSlot (e : BitVec 128) : Nat := bitsOf e.toNat 96 16

/-- Command and fields of a timeline record (R291). -/
def rcCyc (w : Word) : Nat := bitsOf w.toNat 0 21
def rcCmd (w : Word) : Nat := bitsOf w.toNat 21 4
def rcBank (w : Word) : Nat := bitsOf w.toNat 25 6
def rcRow (w : Word) : Nat := bitsOf w.toNat 31 14
def rcCol (w : Word) : Nat := bitsOf w.toNat 45 5
def rcStep (w : Word) : Nat := bitsOf w.toNat 50 8


end Sys2Proof.Machine
end

