-- ==== Sys2Proof/Machine/PagerOps.lean ====
section
/-! DEFINITION. The pager: placing and removing pages, resolving routes, locking what a page's timelines touch, and the
launch packet (R11, R22, R23, R33, R212, R213, R254, R258, R259, R286, R299, R300, R312, R325). -/

namespace Sys2Proof.Machine

/-! ## Reading a page (R22) -/

/-- A table of the values of a function below n, without those that equal the default. -/
def tabFrom {α : Type} [DecidableEq α] (d : α) (f : Nat → α) : Nat → Nat → Tab α
  | _, 0 => []
  | k, n + 1 => if f k = d then tabFrom d f (k + 1) n else (k, f k) :: tabFrom d f (k + 1) n

def pageHeader (s : State) (pa : Nat) : BitVec 128 := BitVec.ofNat 128 (s.mget pa 16)
def pagePond (s : State) (pa k : Nat) : Word := BitVec.ofNat 64 (s.mget (pa + 0x100 + 8 * k) 8)
def pageRates (s : State) (pa : Nat) : Tab Byte := tabFrom 0 (fun k => s.byte (pa + 0x200 + k)) 0 4096
def pageRows (s : State) (pa h : Nat) : Tab W80 :=
  tabFrom 0 (fun k => BitVec.ofNat 80 (s.mget (pa + 0x1600 + 10 * k) 10)) 0 (32 * 2 * h)
def pageCode (s : State) (pa : Nat) : Tab W80 :=
  tabFrom guardWord (fun k => BitVec.ofNat 80 (s.mget (pa + 0x3E00 + 10 * k) 10)) 0 1536
def pageRoutes (s : State) (pa : Nat) : List (BitVec 128) :=
  ((List.range 64).map fun k => BitVec.ofNat 128 (s.mget (pa + 0x1200 + 16 * k) 16)).filter
    fun x => decide (bitsOf x.toNat 0 1 = 1)

/-! ## The image of a page -/

/-- The address of the image that a key names: an index for CURVER, 1,024 + index for OLDVER (R311). -/
def State.imagePa (s : State) (k : Nat) : Nat :=
  if k < 1024 then s.wf (imageAt k 1) 0 52 else s.wf (imageAt (k - 1024) 2) 0 52

/-- The declaration of the accepted image at an address. -/
def State.declAt (s : State) (pa : Nat) : Option ImageDecl := (s.images.find? fun e => decide (e.1 = pa)).map (·.2)

/-- The declaration of the image that a key names. -/
def State.imageDecl (s : State) (k : Nat) : Option ImageDecl := s.declAt (s.imagePa k)

/-- An accepted image whose section table places a page at an address: the actor of the page, and the declaration. -/
def State.imageOfPage (s : State) (pa : Nat) : Option (Nat × ImageDecl) :=
  s.images.findSome? fun e =>
    (e.2.sections.find? fun x => decide (x.kind = 2) && decide (e.1 + x.offset = pa)).map fun x => (x.target, e.2)

/-! ## Free regions (R11, R213, R325) -/

/-- The blocks that placed regions cover. -/
def State.takenBlocks (s : State) : List Nat :=
  (s.regions.filter fun e => e.2.placed).flatMap fun e => blocksOf e.1 e.2.w e.2.h

/-- The blocks whose tiles hold a swapped context. -/
def State.swappedBlocks (s : State) : List Nat :=
  s.parts.flatMap fun e => e.2.swapRegions.flatMap fun x => blocksOf x.1 x.2.w x.2.h

def State.fits (s : State) (r w h : Nat) (yield : Bool) : Bool :=
  decide (r % 32 + w ≤ 32) && decide (r / 32 + h ≤ 16) &&
    (blocksOf r w h).all fun b => !(s.takenBlocks.any (· == b)) && (yield || !(s.swappedBlocks.any (· == b)))

/-- The region the pager picks: the hinted one if it is free, else the lowest free one. -/
def State.pickRegion (s : State) (w h : Nat) (yield : Bool) (hint : Option Nat) : Option Nat :=
  let lowest := (List.range 512).find? fun r => s.fits r w h yield
  match hint with
  | some r => if s.fits r w h yield then some r else lowest
  | none => lowest

/-! ## Shape records and steps (R299, R300) -/

structure Shape where
  tbase : Nat
  pitch : Nat
  rows : Nat
  cols : Nat
  orgRow : Nat
  orgCol : Nat
  fmt : Nat
  swz : Nat
  transpose : Bool
  wb : Bool
  handle : Nat
  /-- destinations: column and row offset, pond -/
  dest : List (Nat × Nat × Nat)
  deriving DecidableEq, Repr

/-- Read a shape record from its 192 bytes. -/
def Shape.ofBytes (bs : List Byte) : Shape :=
  let n := bytesNat bs
  let d := (List.range 16).filterMap fun i =>
    let e := bitsOf n (512 + 64 * i) 64
    if e % 2 = 1 then some (bitsOf e 1 6, bitsOf e 7 5, bitsOf e 12 5) else none
  { tbase := bitsOf n 0 57, pitch := bitsOf n 64 64, rows := bitsOf n 128 32, cols := bitsOf n 160 32,
    orgRow := bitsOf n 192 32, orgCol := bitsOf n 224 32, fmt := bitsOf n 256 5, swz := bitsOf n 261 4,
    transpose := decide (bitsOf n 265 1 = 1), wb := decide (bitsOf n 266 1 = 1), handle := bitsOf n 288 32, dest := d }

/-- Element width of the format. -/
def Shape.width (x : Shape) : Nat := (VFmt.ofCode x.fmt).w
/-- Pieces of a row: L of R299. -/
def Shape.perRow (x : Shape) : Nat := x.cols * x.width / 512
def Shape.pieces (x : Shape) : Nat := x.rows * x.perRow
/-- The virtual address of piece q. -/
def Shape.pieceVa (x : Shape) (q : Nat) : Nat :=
  x.tbase + (x.orgRow + q / x.perRow) * x.pitch + x.orgCol * x.width / 8 + 64 * (q % x.perRow)

/-- The steps that the RD, WR and TWSTEP records of a timeline name. -/
def TimelineDecl.usedSteps (t : TimelineDecl) : List (BitVec 128) :=
  (t.records.filter fun w => decide (rcCmd w = 4) || decide (rcCmd w = 5) || decide (rcCmd w = 10)).map
    fun w => (t.steps[rcStep w]?).getD 0

/-! ## Locking (R286) -/

/-- What a placement locks: range entries, sink entries, page-table translations. -/
structure Locks where
  entries : List Nat
  sinks : List Nat
  xlats : List (Nat × Nat × Nat × Nat)
  deriving DecidableEq, Repr

/-- Lock the translation of one address for reading or writing; none where it fails or a right is missing. -/
def State.lockVa (s : State) (p va : Nat) (drain : Bool) (k : Locks) : Option Locks :=
  match s.translate p va with
  | none => none
  | some x =>
    if (if drain then !x.wr else !x.rd) then none
    else match x.entry with
      | some n =>
        if drain ∧ (!s.rShd p n ∨ s.rShst p n ≠ 0) then none
        else some { k with entries := addNew n k.entries, sinks := if drain then addNew n k.sinks else k.sinks }
      | none =>
        if drain then none
        else
          let e := (va / x.size * x.size, x.size, x.pa / x.size * x.size, x.rd.toNat)
          some { k with xlats := if k.xlats.any (· == e) then k.xlats else k.xlats ++ [e] }

/-- Lock the translations of the n bytes from an address, line by line: they may reach into further pages or entries. -/
def State.lockSpan (s : State) (p va n : Nat) (drain : Bool) (k : Locks) : Option Locks :=
  ((List.range (n / 64)).map (fun i => va + 64 * i) ++ [va + n - 1]).foldl
    (fun acc a => acc.bind (s.lockVa p a drain)) (some k)

/-- A read of a line of a shape record through the partition's translation at the PAGEPL. -/
def State.readLine (s : State) (p va : Nat) : Option (List Byte) :=
  match s.translate p va with
  | some x =>
    let pa := s.placeRead p va x
    let may : Bool := match matTarget pa with
      | some t => s.matRight t p 5 0
      | none => true
    if x.rd ∧ may ∧ targetOf pa ≠ .none ∧ targetOf pa ≠ .window ∧ (otherPkg pa).isNone ∧ s.readable pa then
      some (s.bytes (memKey pa) 64) else none
  | none => none

/-- A read of a shape record, line by line. -/
def State.readShape (s : State) (p va : Nat) : Option Shape :=
  match s.readLine p va, s.readLine p (va + 64), s.readLine p (va + 128) with
  | some a, some b, some c => some (Shape.ofBytes (a ++ b ++ c))
  | _, _, _ => none

/-- A tile of a region at an offset, if it lies inside. -/
def tileAt (r w h col row : Nat) : Option Nat :=
  if col < 2 * w ∧ row < 2 * h then some (regionTile r + 64 * row + col) else none

/-- Whether a step concerns a page: some destination names a tile of its region (R286). -/
def stepServes (w h : Nat) (x : Shape) : Bool := x.dest.any fun d => decide (d.1 < 2 * w) && decide (d.2.1 < 2 * h)

/-- What the steps of an image's timelines make a page lock; a record that cannot be read locks nothing and fails (log entry
103). -/
def State.lockSteps (s : State) (p w h : Nat) : List (BitVec 128) → Locks → Option Locks
  | [], k => some k
  | e :: es, k =>
    match s.readShape p (teShape e) with
    | none => none
    | some x =>
      if stepServes w h x then
        match s.lockSpan p (teShape e) 192 false k with
        | none => none
        | some k1 => match s.lockSpan p (x.pieceVa (tePiece e)) 64 (teDrain e) k1 with
          | none => none
          | some k2 => s.lockSteps p w h es k2
      else s.lockSteps p w h es k

def State.locksOf (s : State) (p pa w h : Nat) (img : Option (Nat × ImageDecl)) : Option Locks :=
  match img with
  | none => some ⟨[], [], []⟩
  | some (_, d) =>
    if hRole (pageHeader s pa) = 0 then some ⟨[], [], []⟩
    else
      match s.lockSteps p w h (d.timelines.flatMap TimelineDecl.usedSteps) ⟨[], [], []⟩ with
      | some k => if 1024 < k.xlats.length then none else some k
      | none => none

/-- LOCKCNT + 1 and SINK of the entries locked. -/
def State.applyLocks (s : State) (p r w h : Nat) (k : Locks) : State :=
  let s1 := k.entries.foldl (fun s n => s.setWf (rangeAt p n 0) 16 16 (s.rLock p n + 1)) s
  let s2 := k.sinks.foldl (fun s n => s.setWf (rangeAt p n 0) 8 1 1) s1
  let us := (blocksOf r w h).flatMap fun b => (List.range 4).map fun n => 4 * b + n
  us.foldl (fun s u => s.setTwe u { s.twe u with
    recs := []
    xlat := (s.twe u).xlat ++ k.xlats.map fun e => (r, e) }) s2

/-! ## Placing (R39, R254, R259) -/

/-- A tile as the pager leaves it: reset, but for what R39 keeps; ponds from the table, initial slots FULL. -/
def Tile.place (T : Tile) (entries : List Word) : Tile :=
  let ponds := tabFrom Pond.zero (fun k =>
    let e := (entries[k]?).getD 0
    if peValid e then { Pond.zero with entry := e, cw := BitVec.ofNat 32 (peInit e), ww := BitVec.ofNat 32 (peInit e) }
    else Pond.zero) 0 32
  let T0 := { T.vacate with ponds := ponds }
  (List.range 32).foldl (fun T k =>
    let e := (T.pond k).entry
    if peValid e then
      (List.range (peInit e)).foldl (fun T i => T.setSlot k i (smMake 2 true false false 0 i (peSwz e) (peFmt e))) T
    else T) T0

/-- The bytes of a pond's initial slots, line by line (R254, R385: zeros where the image names none). -/
def Tile.loadSlots (T : Tile) (k : Nat) (bs : List Byte) : Tile :=
  let e := (T.pond k).entry
  (List.range (peInit e * peLines e)).foldl (fun T i =>
    let v := BitVec.ofNat 512 (bytesNat ((bs.drop (64 * i)).take 64))
    T.putLine (1536 * peBank e + (peOffset e + i) % 1536) v) T

/-- A run-ahead thread placed with its page: idle until a LAUNCH. -/
def rauThreadOf (part : Nat) (code : Tab W80) : Thread :=
  { Thread.zero with kind := .runAhead, status := .idle, part := part, priv := 1, code := code, codeLen := 1536 }

/-- Put a page into a region; its arc endpoints have heard no read index yet (R264). -/
def State.placePage (s : State) (pa p r : Nat) (img : Option (Nat × ImageDecl)) (k : Locks) : State :=
  let h := pageHeader s pa
  let w := hWblk h
  let hh := hHblk h
  let entries := (List.range 32).map (pagePond s pa)
  let actor := match img with
    | some (a, _) => a
    | none => 0
  let arc := fun (x : BitVec 128) => (img.bind fun e => e.2.graph.arcs[bitsOf x.toNat 74 12]?).filter fun _ =>
    decide (bitsOf x.toNat 1 2 = 3)
  let routes : List Route := (pageRoutes s pa).map fun x =>
    let d := BitVec.ofNat 32 (((arc x).map (·.delay)).getD 0)
    Route.mk x (regionTile r + 64 * bitsOf x.toNat 13 5 + bitsOf x.toNat 18 6) 0 false 0 0 0 d d
      ((img.bind fun e => (arc x).map (e.2.arcSlots Config.pkgId.toNat)).getD 0)
  let R : Region := { Region.zero with
    placed := true
    part := p
    actor := actor
    page := pa
    w := w
    h := hh
    hdr := h
    rows := pageRows s pa hh
    rates := pageRates s pa
    routes := routes
    locks := k.entries
    sinks := k.sinks
    sel := hSsel0 h
    stage := hStage h }
  let load := fun (T : Tile) => (List.range 32).foldl (fun T q =>
    let bs := match img with
      | some (a, d) => d.initBytes a q
      | none => []
    if peValid (T.pond q).entry then T.loadSlots q bs else T) (T.place entries)
  let arcs := (routes.filter fun x => decide (x.path = 3)).map Route.peer
  let s1 := { s with credits := arcs.foldl (fun m a => tset 0 m (arcKey R.part a) 0) s.credits }.setRegion r R
  let s2 := s1.mapTiles (R.tilesOf r) load
  let s3 := s2.setThread (rauThread r) (rauThreadOf p (pageCode s pa))
  s3.applyLocks p r w hh k

/-- The signed offsets DX and DY of a route. -/
def Route.dx (x : Route) : Int := intOf true 7 (bitsOf x.raw.toNat 24 7)
def Route.dy (x : Route) : Int := intOf true 6 (bitsOf x.raw.toNat 31 6)

/-- A tile at a signed offset from a place, inside a rectangle of tiles. -/
def offsetTile (t0 : Nat) (dx dy : Int) : Nat := ((t0 : Int) + 64 * dy + dx).toNat

/-- The port of a path's first hop, columns first (R259). -/
def firstPort (a b : Nat) : Nat :=
  if a % 64 < b % 64 then 1 else if b % 64 < a % 64 then 3 else if a / 64 < b / 64 then 2 else 0

/-- The image that a region's page comes from. -/
def State.imageOfRegion (s : State) (r : Nat) : Option Nat :=
  (s.images.find? fun e => e.2.sections.any fun x => decide (x.kind = 2) && decide (e.1 + x.offset = (s.region r).page)).map (·.1)

/-- The region of a consumer actor: of the region's own partition and launch, else of its image in another partition
(R12). -/
def State.peerRegion (s : State) (r a : Nat) : Option Nat :=
  let R := s.region r
  match (s.regionsOf R.part).find? fun c => decide ((s.region c).actor = a) && decide ((s.region c).serial = R.serial) with
  | some c => some c
  | none => (s.regions.find? fun e => e.2.placed && decide (e.2.part ≠ R.part) && decide (e.2.actor = a) &&
      (s.imageOfRegion r).isSome && decide (s.imageOfRegion e.1 = s.imageOfRegion r)).map (·.1)

/-- Resolve one route of a region (R259), and load its pointer into the port that it uses. -/
def State.resolveRoute (s : State) (r i : Nat) (x : Route) : State :=
  if x.path = 3 ∨ x.resolved then s
  else
    let R := s.region r
    let cons := if x.path = 0 then some (offsetTile x.prod x.dx x.dy)
      else (s.peerRegion r x.peer).map fun c => offsetTile (regionTile c) x.dx x.dy
    match cons with
    | none => s
    | some t =>
      let unit := if x.path = 1 then firstPort x.prod t else x.unit
      let q := (s.tile t).pond x.dpond
      let y := { x with cons := t, resolved := true, hops := pathCycles x.prod t,
                        raw := BitVec.ofNat 128 (setBits x.raw.toNat 37 2 unit) }
      let s1 := s.setRegion r { R with routes := R.routes.set i y }
      if x.path ≤ 1 then
        let P := s1.tile x.prod
        let pe := (P.pond x.spond).entry
        let ptr := RPtr.mk true x.spond t x.dpond q.entry (peSwz pe) (peFmt pe) q.cw q.cw
        s1.setTile x.prod { P with rptr := tset RPtr.zero P.rptr (rptrKey unit x.dpond) ptr }
      else s1

/-- Resolve what can be resolved among the pages of a partition. -/
def State.resolveRoutes (s : State) (p : Nat) : State :=
  (s.regionsOf p).foldl (fun s r =>
    (List.range (s.region r).routes.length).foldl (fun s i =>
      match (s.region r).routes[i]? with
      | some x => s.resolveRoute r i x
      | none => s) s) s

/-- Bytes of a configuration page. -/
def pageBytes : Nat := 0x7A00

/-- PAGEPL: the region id, all ones where no region is free, all ones less one where locking fails (R213, R286) or a line of
the page cannot be read, for which the spec names no result (log entry 103). -/
def State.pagePlace (s : State) (pa p : Nat) (hint : Option Nat) : State × Word :=
  let h := pageHeader s pa
  if s.lostIn pa pageBytes then (s, BitVec.allOnes 64 - 1)
  else match s.pickRegion (hWblk h) (hHblk h) (hYield h) hint with
  | none => (s, BitVec.allOnes 64)
  | some r =>
    let img := s.imageOfPage pa
    match s.locksOf p pa (hWblk h) (hHblk h) img with
    | none => (s, BitVec.allOnes 64 - 1)
    | some k => ((List.range 16).foldl State.resolveRoutes (s.placePage pa p r img k), BitVec.ofNat 64 r)

/-- Remove a placed page (R286): LOCKCNT falls, SINK clears with the last sink page, permits and caches go. -/
def State.removePage (s : State) (r : Nat) : State :=
  let R := s.region r
  if !R.placed then s
  else
    let p := R.part
    let s1 := R.locks.foldl (fun s n => s.setWf (rangeAt p n 0) 16 16 (s.rLock p n - 1)) s
    let s2 := s1.setRegion r Region.zero
    let s3 := R.sinks.foldl (fun s n =>
      if (s.regionsOf p).any fun c => (s.region c).sinks.any (· == n) then s else s.setWf (rangeAt p n 0) 8 1 0) s2
    let us := (blocksOf r R.w R.h).flatMap fun b => (List.range 4).map fun n => 4 * b + n
    let s4 := us.foldl (fun s u => s.setTwe u { s.twe u with
      permits := []
      asm := []
      recs := []
      xlat := (s.twe u).xlat.filter fun e => decide (e.1 ≠ r) }) s3
    s4.setThread (rauThread r) Thread.zero

/-! ## The pager's route checks (R259) -/

/-- The links of a path, columns first, each with the cycles from the sending of a line to its use. -/
def pathLinks (a b : Nat) : Nat → Nat → List (Nat × Nat)
  | _, 0 => []
  | n, k + 1 =>
    if a = b then []
    else
      let c := if a % 64 < b % 64 then a + 1 else if b % 64 < a % 64 then a - 1 else if a / 64 < b / 64 then a + 64 else a - 64
      (4096 * a + c, n) :: pathLinks c b (n + hopCycles a c) k

/-- Cycles that a route sends in, in a frame: one for each line of the declared slots (R22). -/
def Region.routeLines (R : Region) (x : Route) (entry : Word) (set phase : Nat) : Nat := R.dec set phase x.spond * peLines entry

/-- What a route occupies: links and the bank written, with the first cycle. -/
def State.routeUse (s : State) (x : Route) : List (Nat × Nat) :=
  let e := ((s.tile x.cons).pond x.dpond).entry
  (pathLinks x.prod x.cons 0 128).map (fun l => (l.1, x.start + l.2)) ++
    [(2 ^ 24 + 8 * x.cons + peBank e, x.start + x.hops)]

/-- Whether two placed routes meet on a link, a port or a bank in some frame of a rate set. -/
def State.routesMeet (s : State) (ra : Nat) (a : Route) (rb : Nat) (b : Route) : Bool :=
  let A := s.region ra
  let B := s.region rb
  let ea := ((s.tile a.prod).pond a.spond).entry
  let eb := ((s.tile b.prod).pond b.spond).entry
  if a.path = 2 ∧ b.path = 2 ∧ a.prod = b.prod ∧ a.spond = b.spond then false
  else
    let frames := Nat.lcm (hPhases A.hdr) (hPhases B.hdr)
    (List.range 8).any fun set => (List.range frames).any fun f =>
      let na := A.routeLines a ea set (f % hPhases A.hdr)
      let nb := B.routeLines b eb set (f % hPhases B.hdr)
      decide (na ≠ 0) && decide (nb ≠ 0) && (s.routeUse a).any fun u => (s.routeUse b).any fun v =>
        decide (u.1 = v.1) && decide (u.2 < v.2 + nb) && decide (v.2 < u.2 + na)

/-- The routes of a partition, with their regions. -/
def State.allRoutes (s : State) (p : Nat) : List (Nat × Route) :=
  (s.regionsOf p).flatMap fun r => (s.region r).routes.map fun x => (r, x)

/-- Pairs of different places of a list that satisfy a test. -/
def anyPair {α : Type} (f : α → α → Bool) : List α → Bool
  | [] => false
  | x :: xs => xs.any (f x) || anyPair f xs

/-- The routes of a graph's regions are resolved and pass the checks of R259 where they are placed; those of PATH 0, which the
loader has checked, because a hop over a die boundary takes 3 cycles. -/
def State.routesOk (s : State) (regions : List Nat) (fm : Nat) : Bool :=
  let rs := regions.flatMap fun r => (s.region r).routes.map fun x => (r, x)
  let placed := rs.filter fun e => decide (e.2.path ≠ 3)
  (rs.all fun e => e.2.resolved || decide (e.2.path = 3)) &&
    (placed.all fun e =>
      let en := ((s.tile e.2.prod).pond e.2.spond).entry
      let R := s.region e.1
      (List.range 8).all fun set => (List.range (hPhases R.hdr)).all fun ph =>
        let n := R.routeLines e.2 en set ph
        decide (n = 0) || decide (e.2.start + n - 1 + e.2.hops ≤ fm - 1)) &&
    !anyPair (fun a b => decide (a.2.path ≠ 3) &&
      decide (b.2.path ≠ 3) && s.routesMeet a.1 a.2 b.1 b.2) rs

/-! ## Tasks of the work pool (R312 to R316) -/

/-- A field of a task's record. -/
def Task.f (t : Task) (off len : Nat) : Nat := bytesNat ((t.rec_.drop off).take len)
def Task.part (t : Task) : Nat := t.f 2 1
def Task.service (t : Task) : Bool := decide (bitsOf (t.f 4 4) 1 1 = 1)
def Task.image (t : Task) : Nat := t.f 8 2
def Task.ver (t : Task) : Nat := t.f 10 2
/-- Its working set: length and range entry of each descriptor. -/
def Task.wset (t : Task) : List (Nat × Nat) := (List.range 4).map fun k => (t.f (0xC8 + 16 * k) 4, t.f (0xCC + 16 * k) 1)
/-- Whether its record names a timeline wait, with every update of whose counter the task synchronises (R386). -/
def Task.waited (t : Task) : Bool := (List.range 4).any fun k => decide (t.f (0x60 + 16 * k) 8 ≠ 2 ^ 64 - 1)
/-- The dependence counter it uses. -/
def Task.dep (t : Task) : Option Nat := let d := t.f 0xA0 4; if bitsOf d 12 1 = 1 then some (d % 4096) else none

def State.setTasks (s : State) (f : Task → Task) : State := { s with tasks := s.tasks.map f }

/-- A task starts: its dependence counter is bound no longer (R315). -/
def State.taskStarts (s : State) (t : Task) : State :=
  let s1 := s.setTasks fun x => if x.id = t.id then { x with started := true, cold := false } else x
  match t.dep with
  | some d => if tget 0 s1.depTask d = t.id then { s1 with depTask := tset 0 s1.depTask d 0 } else s1
  | none => s1

/-- The task that a staged copy of a record stands for: the copy differs from the record in the region mask only. -/
def State.copyTask (s : State) (copy : List Byte) : Option Task :=
  s.tasks.find? fun t => !t.started && !t.refused && decide (t.rec_.take 32 = copy.take 32) &&
    decide (t.rec_.drop 0x60 = copy.drop 0x60)

def State.startTask (s : State) (copy : List Byte) : State :=
  match s.copyTask copy with
  | some t => s.taskStarts t
  | none => s

/-- REFS of the version that a task names changes (R311, R317). -/
def State.bumpRefs (s : State) (t : Task) (up : Bool) : State :=
  let i := t.image
  let step := fun (n : Nat) => if up then min (n + 1) 0xFFFF else n - 1
  if 1024 ≤ i then s
  else if s.wf (imageAt i 0) 16 16 = t.ver then s.setWf (imageAt i 3) 0 16 (step (s.wf (imageAt i 3) 0 16))
  else if s.wf (imageAt i 0) 32 16 = t.ver then
    let n := step (s.wf (imageAt i 3) 16 16)
    let s1 := s.setWf (imageAt i 3) 16 16 n
    if n = 0 then (s1.setWf (imageAt i 0) 32 16 0).setW (imageAt i 2) 0 else s1
  else s

/-- A task has ended: its version has one task less (R311). -/
def State.releaseTask (s : State) (id : Nat) : State :=
  match s.tasks.find? fun t => decide (t.id = id) with
  | some t =>
    if t.refused || t.released then s
    else (s.setTasks fun x => if x.id = id then { x with released := true } else x).bumpRefs t false
  | none => s

/-- The tasks of a version that have not ended, as REFS counts them (R311). -/
def State.versionTasks (s : State) (i ver : Nat) : Nat :=
  min ((s.tasks.filter fun t => decide (t.image = i) && decide (t.ver = ver) && !t.refused && !t.released).length) 0xFFFF

/-! ## The launch packet (R33, R212, R312) -/

/-- Regions named by a record's mask, in ascending id. -/
def State.maskRegions (s : State) (rec_ : Nat) : List Nat :=
  (List.range 512).filter fun r => decide (bitsOf (s.mget (rec_ + 0x20 + r / 8) 1) (r % 8) 1 = 1)

/-- The version in an image-table entry: the entry's key for CURVER, 1,024 more for OLDVER. -/
def State.imageKey (s : State) (i ver : Nat) : Nat := if s.wf (imageAt i 0) 16 16 = ver then i else 1024 + i

/-- W of a partition (R17). The regions of the running graph decide it: the model's choice (log entry 126). -/
def State.weirW (s : State) (p : Nat) : Nat :=
  let dies := (s.graphRegions p).flatMap fun r => ((s.region r).tilesOf r).map tileDie
  match dies with
  | [] => 24
  | d :: ds => if ds.all (· == d) then 24 else 64

/-- Start a run-ahead thread at a launch: s1 the rank, s2 the argument block (R33); its reads follow the launch (R240). -/
def launchThread (T : Thread) (p rank : Nat) (args : Word) (now : Nat) : Thread :=
  let regs := tset 0 (tset 0 [] 1 (BitVec.ofNat 64 rank)) 2 args
  { rauThreadOf p T.code with status := .running, regs := regs
                              codeUe := T.codeUe
                              codeCe := T.codeCe
                              acqAt := now
                              startRegs := regs
                              startStatus := .running }

/-- LAUNCH of the record at a physical address: the launch serial, or 0 where nothing is sent. -/
def State.launch (s : State) (rec_ : Nat) : State × Word :=
  let rs := s.maskRegions rec_
  match rs with
  | [] => (s, 0)
  | r0 :: _ =>
    let p := (s.region r0).part
    let key := s.imageKey (s.mget (rec_ + 8) 2) (s.mget (rec_ + 10) 2)
    let decl := (s.imageDecl key).map (·.graph)
    let fc := match decl with | some d => d.fc | none => 64
    let fm := match decl with | some d => d.fm | none => 16
    if !(rs.all fun r => (s.region r).placed && decide ((s.region r).part = p)) || !s.routesOk rs fm then (s, 0)
    else
      let n := s.launchSerial + 1
      let args := BitVec.ofNat 64 (s.mget (rec_ + 0x10) 8)
      let set := s.mget (rec_ + 3) 1 % 8
      let start := fun (s : State) (e : Nat × Nat) =>
        let T := s.thread (rauThread e.2)
        let s1 := s.setThread (rauThread e.2) (launchThread T p e.1 args s.now)
        s1.setRegion e.2 { s1.region e.2 with rset := set, phase := 0, serial := n, fin := true, sealed := false,
                                              condq := [], disc := 0 }
      let s1 := ((List.range rs.length).zip rs).foldl start { s with launchSerial := n }
      let task := match s.copyTask (s.bytes rec_ 256) with | some t => t.id | none => 0
      let g : Graph := ⟨key, s.imagePa key, task, n, s.mget rec_ 1, s.now, s.mget (rec_ + 0x0C) 4, s.mget (rec_ + 0xA4) 4,
        s.mget (rec_ + 0x10) 8, 0, rs, decl, rs.map fun r => hPhases (s.region r).hdr⟩
      let s2 := s1.setPart p { s1.part p with
        stage := .boundary
        fc := fc
        fm := fm
        fcyc := 0
        pause := 0
        arcLen := 0
        notBefore := s.now + Config.launchDelay % 661
        frame := 0
        trem := s.mget (rec_ + 0x18) 8
        graph := some g
        sluice := none
        rset := set
        endHeld := false }
      let s3 := (List.range 6).foldl (fun s k => s.setW (dcAt p k) 0) s2
      let s4 := if key < 1024 then s3.setWf (imageAt key 0) 1 1 1 else s3
      (s4.startTask (s.bytes rec_ 256), BitVec.ofNat 64 n)

end Sys2Proof.Machine
end

