-- ==== Sys2Proof/Machine/KillOps.lean ====
section
/-! DEFINITION. Ends of freezes and of graphs: reports, kills with and without relocation, resumption, pre-emption
choices and kills, the checks of a capability (R32, R203, R206, R224, R227, R228, R316, R320 to R325, R330, R340, R347 to
R352, R381, R393). -/

namespace Sys2Proof.Machine

/-! ## Records of freezes -/

def State.freezeOf (s : State) (serial : Nat) : Option Freeze := s.freezes.find? fun f => decide (f.serial = serial)
def State.mapFreeze (s : State) (serial : Nat) (g : Freeze → Freeze) : State :=
  { s with freezes := s.freezes.map fun f => if f.serial = serial then g f else f }

/-- Report a frozen unit to the host (R347): the record enters the report ring; `pass` as in the freeze. -/
def State.report (s : State) (serial pass : Nat) : State :=
  match s.freezeOf serial with
  | none => s
  | some f =>
    let w := s.wf (crbAt 0x9080) 0 32
    let a := 0xA000 + 64 * (w % 64)
    let s1 := (List.range 8).foldl (fun s k => s.setW (crbAt (a + 8 * k)) (f.rec_.getD k 0)) s
    let s2 := (s1.setWf (crbAt 0x9080) 0 32 (w + 1)).mapFreeze serial fun f => { f with reported := true
                                                                                        pass := max f.pass pass }
    let s3 := if f.reported then s2 else s2.bumpDc f.part 2 1
    s3.irq irqReport serial

/-- The freeze is over: its capability is spent, its pool entry is free, and a record no handler holds is discarded. -/
def State.spend (s : State) (f : Freeze) : State :=
  let s1 := if f.reported then s else s.bumpDc f.part 2 1
  if f.handler.isNone then { s1 with freezes := s1.freezes.filter fun x => decide (x.serial ≠ f.serial) }
  else s1.mapFreeze f.serial fun x => { x with spent := true, entry := none }

/-! ## The end of a graph (R320, R348, R349) -/

/-- Set bit q of KICKBMP. -/
def State.setKick (s : State) (q : Nat) : State := s.setWf (crbAt (0x10 + 8 * (q / 64))) (q % 64) 1 1

/-- A channel leaves its timelines and serves in dynamic mode (R289, R294). -/
def State.freeChannel (s : State) (c : Nat) : State :=
  let C := tget Chan.zero s.chans c
  let C1 := { C with steps := [], records := [], retreatSteps := [], retreatRecords := [], part := 0, retreat := false, pos := 0,
                     open_ := [], held := [] }
  { s.setWf (hcbAt c 0) 0 4 8 with chans := tset Chan.zero s.chans c C1 }

/-- The channels assigned to a partition's graph. -/
def State.channelsOf (s : State) (p : Nat) : List Nat :=
  (s.chans.filter fun e => decide (e.2.part = p) && decide (e.2.records ≠ [])).map (·.1)

def State.freeChannels (s : State) (p : Nat) : State := (s.channelsOf p).foldl State.freeChannel s

/-- Nothing of the graph runs any more, its run-ahead threads among it (R352); its pages stay placed. -/
def State.stopGraph (s0 : State) (p : Nat) : State :=
  let s := s0.freeChannels p
  let s1 := s.setPart p { s.part p with
    stage := .idle
    graph := none
    sluice := none
    req := none
    drainAt := none
    preheld := none
    pause := 0
    arcLen := 0
    thermal := false
    endHeld := false }
  (s.graphRegions p).foldl (fun s r =>
    let R := s.region r
    let T := s.thread (rauThread r)
    let s2 := if T.status = .none then s else s.setThread (rauThread r) { T with status := .idle, loads := [] }
    s2.setRegion r { R with ended := true, done := true, fin := true, kind := .idle, sels := [], endAt := none }) s1

/-- Whether the end queue has 256 entries unread, or more, where graphs that were killed ended beside a held retirement. -/
def State.endFull (s : State) : Bool :=
  decide (256 ≤ (s.wf (crbAt 0x6000) 0 32 + 2 ^ 32 - s.wf (crbAt 0x6008) 0 32) % 2 ^ 32)

/-- Append an end record and set bit 255 (R320). -/
def State.endRecord (s : State) (serial status frames : Nat) : State :=
  let w := s.wf (crbAt 0x6000) 0 32
  let a := 0x8000 + 16 * (w % 256)
  let s1 := s.setW (crbAt a) (BitVec.ofNat 64 serial)
  let s2 := s1.setW (crbAt (a + 8)) (BitVec.ofNat 64 (pack [(32, status), (32, frames)]))
  (s2.setWf (crbAt 0x6000) 0 32 (w + 1)).setKick 255

/-- Whether a freeze stands for a fault of the hardware: of the structures that R379 names those that end in a freeze (log
entry 86). -/
def Freeze.hardware (f : Freeze) : Bool :=
  [0x20, 0x22, 0x23, 0x24, 0x40, 0x41].contains f.cause ||
    (decide (f.cause = 0x31) && decide (bitsOf (f.rec_.getD 1 0).toNat 8 8 = 1))

/-- Whether a fault of the hardware stands among the freezes of a partition. -/
def State.hardwareFault (s : State) (p : Nat) : Bool := s.freezes.any fun f => decide (f.part = p) && !f.spent && f.hardware

/-- A job-interrupting failure, where hardware is its cause (R381). -/
def State.countFailure (s : State) (hw : Bool) : State := if hw then s.bumpW (trbAt 0x110) 32 32 1 else s

/-- A graph ends with a status. -/
def State.endGraph (s : State) (p status : Nat) : State :=
  match (s.part p).graph with
  | none => s
  | some g =>
    ((s.endRecord g.serial status (s.part p).frame).stopGraph p).releaseTask g.task

/-! ## Pre-emption (R322 to R325, R352) -/

/-- The choice of a waiting EVAL, by remaining time and priority tokens (R323). -/
def State.pctlChoose (s : State) (p newtok : Nat) : State :=
  let P := s.part p
  match P.graph with
  | none => s
  | some g =>
    let lim := s.wf (crbAt 8) 0 32
    if P.trem - (s.now - g.launched) ≤ lim then
      s.setPart p { P with choice := 1, req := none, drainAt := some (s.now + lim) }
    else if 4 * g.token ≤ newtok then s.setPart p { P with choice := 2, req := some 2, drainAt := none }
    else s.setPart p { P with choice := 3, req := some 3, drainAt := none }

/-- Whether a partition has a frozen region. -/
def State.anyFrozen (s : State) (p : Nat) : Bool := (s.graphRegions p).any fun r => (s.region r).frozen

/-- PREHELD of the records of a partition whose freeze a request meets (R338, R352). -/
def State.markPreheld (s : State) (p : Nat) : State :=
  { s with freezes := s.freezes.map fun f =>
      if f.part = p ∧ !f.spent then
        { f with rec_ := f.rec_.set 1 (BitVec.ofNat 64 (setBits (f.rec_.getD 1 0).toNat 20 1 1)) } else f }

/-- A request of PCTL: 1 EVAL, 2 kill, 3 checkpoint. It waits for a yield point, where the choice is made and takes
effect (R323, R324, R352). A kill or a checkpoint takes the place of a drain, an EVAL does so by its choice (log entry
116). -/
def State.request (s : State) (p req newtok : Nat) : State :=
  let P := s.part p
  if P.graph.isNone then s
  else if s.anyFrozen p then (s.setPart p { P with preheld := some (req, newtok), req := none, drainAt := none }).markPreheld p
  else if req = 1 then s.setPart p { P with req := some 1, newtok := newtok }
  else s.setPart p { P with req := some req, drainAt := none }

/-- A victim's task goes back to the ready set (R323). -/
def State.rerunTask (s : State) (g : Graph) : State :=
  s.setTasks fun t => if t.id = g.task then { t with started := false } else t

/-- A pre-emption kill: the firings stop, the pages are removed, a rerun is queued (R323). -/
def State.preemptNow (s : State) (p : Nat) : State :=
  match (s.part p).graph with
  | none => s
  | some g =>
    let s1 := (s.graphRegions p).foldl (fun s r => (s.killFiring r).removePage r) s
    let s2 := (s1.stopGraph p).rerunTask g
    (s2.setPart p { s2.part p with choice := 2 }).bumpDc p 4 1

/-- After FKILL a held request takes effect at once as a kill (R352). -/
def State.preheldKill (s : State) (p : Nat) : State :=
  if p < 16 ∧ (s.part p).preheld.isSome then s.preemptNow p else s

/-- After FRES a held request is evaluated, once no region of the partition stays frozen (R352). -/
def State.preheldResume (s : State) (p : Nat) : State :=
  match (s.part p).preheld with
  | none => s
  | some (req, newtok) =>
    if p < 16 ∧ !s.anyFrozen p then
      (s.setPart p { s.part p with preheld := none }).request p req newtok else s

/-! ## Relocation (R32) -/

/-- A free region of a shape other than the region itself. -/
def State.otherRegion (s : State) (w h : Nat) (yield : Bool) : Option Nat := (List.range 512).find? fun r => s.fits r w h yield

/-- The tile of the new region that stands for one of the old. -/
def moveTile (r r' : Nat) (w h t : Nat) : Nat :=
  if (blocksOf r w h).any (· == blockOf t) then t + regionTile r' - regionTile r else t

/-- A route after a region has moved: places, port of the first hop, cycles. -/
def Route.move (x : Route) (f : Nat → Nat) : Route :=
  let a := f x.prod
  let b := if x.resolved then f x.cons else x.cons
  let unit := if x.path = 1 ∧ x.resolved then firstPort a b else x.unit
  { x with prod := a, cons := b, hops := if x.resolved then pathCycles a b else x.hops
           raw := BitVec.ofNat 128 (setBits x.raw.toNat 37 2 unit) }

/-- Pointers of a tile after a region has moved, at the port that each route now uses. -/
def movePointers (routes : List Route) (t : Nat) (f : Nat → Nat) (m : Tab RPtr) : Tab RPtr :=
  m.foldl (fun acc e =>
    let q := e.2
    let key := match routes.find? fun x => decide (x.path = 1) && decide (x.prod = t) && decide (x.dpond = q.pond) &&
        decide (x.spond = q.spond) with
      | some x => rptrKey x.unit q.pond
      | none => e.1
    tset RPtr.zero acc key { q with tile := f q.tile }) []

/-- A tile's state in another tile: of the shadow stores only the saved vat state moves (R32). -/
def Tile.moveTo (T U : Tile) : Tile :=
  { T with shadow := U.shadow.filter fun e => decide (512 ≤ e.1), shadowVat := T.shadowVat,
           shUe := T.shUe.filter (· < 512) ++ U.shUe.filter (512 ≤ ·), shCe := T.shCe.filter (· < 512) ++ U.shCe.filter (512 ≤ ·) }

/-- Move a region's page, with its tiles, its thread, its permits and locked translations, to another region. -/
def State.moveRegion (s : State) (r r' : Nat) : State :=
  let R := s.region r
  let f := moveTile r r' R.w R.h
  let olds := R.tilesOf r
  let ts := olds.foldl (fun m t => tset Tile.zero (tset Tile.zero m (f t) ((s.tile t).moveTo (s.tile (f t)))) t
    (s.tile t).vacate) s.tiles
  let s1 := ({ s with tiles := ts }.setRegion r Region.zero).setRegion r' R
  let s2 := (s1.regionsOf R.part).foldl (fun s c =>
    let C := s.region c
    s.setRegion c { C with routes := C.routes.map fun x => x.move f }) s1
  let all := (s2.allRoutes R.part).map (·.2)
  let s3 := (s2.regionsOf R.part).foldl (fun s c =>
    ((s.region c).tilesOf c).foldl (fun s t =>
      s.setTile t { s.tile t with rptr := movePointers all t f (s.tile t).rptr }) s) s2
  let s4 := (s3.setThread (rauThread r') (s3.thread (rauThread r))).setThread (rauThread r) Thread.zero
  let moveTwe := fun (s : State) (b : Nat) => (List.range 4).foldl (fun s n =>
    let u := 4 * b + n
    let u' := 4 * (b + r' - r) + n
    let x := s.twe u
    let keep := x.xlat.filter fun e => decide (e.1 ≠ r)
    let own := (x.xlat.filter fun e => decide (e.1 = r)).map fun e => (r', e.2)
    let ps := x.permits.foldl (fun m e => tset 0 m (64 * f (e.1 / 64) + e.1 % 64) e.2) []
    (s.setTwe u { x with permits := [], asm := [], recs := [], xlat := keep }).setTwe u'
      { s.twe u' with permits := ps, xlat := (s.twe u').xlat ++ own }) s
  let s5 := (blocksOf r R.w R.h).foldl moveTwe s4
  match (s5.part R.part).graph with
  | some g =>
    let g' := { g with regions := g.regions.map fun c => if c = r then r' else c }
    s5.setPart R.part { s5.part R.part with graph := some g' }
  | none => s5

/-- FKILL of a region: its firing is discarded and reruns, on another region when the flag asks and one is free. -/
def State.killRegion (s : State) (r : Nat) (relocate : Bool) : State :=
  let s1 := s.killFiring r
  let R := s1.region r
  if relocate then
    match s1.otherRegion R.w R.h (hYield R.hdr) with
    | some r' => s1.moveRegion r r'
    | none => s1
  else s1

/-! ## Ends of threads (R206, R227, R228, R313, R332) -/

/-- The writes that a thread leaves behind when its context is freed. -/
def State.disown (s : State) (t : Nat) : State :=
  { s with writes := s.writes.map fun w => if w.by_ = .thread t then { w with by_ := .hub } else w }

/-- A service thread ends and frees its context; its task has ended. -/
def State.endService (s : State) (t status : Nat) : State :=
  let id := (s.thread t).task
  (((s.disown t).setThread t Thread.zero).setTasks fun x =>
    if x.id = id ∧ x.started ∧ x.service then { x with ended := some status } else x).releaseTask id

/-- The serials of the valid capabilities that a handler holds, each once. -/
def Thread.heldCaps (T : Thread) : List Nat :=
  (List.range 4).foldl (fun l k =>
    let n := (tget 0 T.h k).toNat % 2 ^ 32
    if tget false T.htag k then addNew n l else l) []

/-- A handler thread ends: units of unspent capabilities it holds are reported (R228). -/
def State.endHandler (s : State) (t : Nat) : State :=
  let s1 := (s.thread t).heldCaps.foldl (fun s n =>
    match s.freezeOf n with
    | some f => if f.spent then s else s.report n 1
    | none => s) s
  let drop := fun (f : Freeze) => if f.handler = some t then { f with handler := none } else f
  let s2 := { s1 with freezes := (s1.freezes.filter fun (f : Freeze) => !(f.spent && decide (f.handler = some t))).map drop }
  (s2.disown t).setThread t Thread.zero

def FUnit.isCellar : FUnit → Bool
  | .cellar _ => true
  | _ => false

/-- The launching stops: no active core (R332, R349). -/
def State.stopPair (s : State) : State :=
  let hw := s.freezes.any fun f => f.unit.isCellar && !f.spent && f.hardware
  ((s.setWf (crbAt 0) 3 1 1).countFailure hw).irq irqCellar 0

/-- A cellar core stops until reset. -/
def State.stopCellar (s : State) (c : Nat) : State := s.setThread c { s.thread c with status := .none, loads := [] }

/-- A cellar core stops at HALT: its watchdog goes on, and its expiry freezes it (R206, R216). -/
def State.haltCellar (s : State) (c : Nat) : State := s.setThread c { s.thread c with status := .idle, loads := [] }

/-- End a thread by its kind. -/
def State.endThread (s : State) (t status : Nat) : State :=
  match (s.thread t).kind with
  | .service => s.endService t status
  | .handler => s.endHandler t
  | .cellar => s.haltCellar t
  | .runAhead => s.setThread t { s.thread t with status := .idle, nextAt := s.now + 1 }

/-! ## Kills (R227, R340, R348) -/

/-- A run-ahead thread that froze between two firings returns to its firing-start state as well (R227). -/
def State.killRauFreeze (s : State) (r : Nat) : State :=
  let R := s.region r
  if R.fin ∧ !R.killed then s.killRau r else s

/-- Kill a unit as by FKILL. A chain and a remote report have no kill of their own: a chain whose freeze a kill of its
partition ends takes its next entry. -/
def State.killUnit (s : State) (u : FUnit) (relocate : Bool) : State :=
  match u with
  | .region r => s.killRegion r relocate
  | .rau r => (s.killRauFreeze r).killRegion r relocate
  | .handler t | .service t => s.endThread t 1
  | .cellar c => s.stopCellar c
  | .chain c => { s with chains := tset Chain.zero s.chains c { tget Chain.zero s.chains c with frozen := false } }
  | .remote _ | .partition _ => s

/-- Whether a record is a failed quiescence check (R273). -/
def Freeze.quiesce (f : Freeze) : Bool := decide (bitsOf (f.rec_.getD 1 0).toNat 19 1 = 1)

/-- A freeze that a kill ends: a failed quiescence check is reported to the host, and the graph stays sealed (R273). -/
def State.spendKill (s : State) (f : Freeze) : State :=
  if f.quiesce && !f.reported then (s.report f.serial 1).spend { f with reported := true } else s.spend f

/-- Whether a unit has a freeze of its own. -/
def State.hasFreeze (s : State) (u : FUnit) : Bool := s.freezes.any fun f => decide (f.unit = u) && !f.spent

/-- Whether a region is frozen by a record of itself or of its thread. -/
def State.regionHasFreeze (s : State) (r : Nat) : Bool := s.hasFreeze (.region r) || s.hasFreeze (.rau r)

/-- The threads of a partition that run on contexts. -/
def State.ctxOf (s : State) (p : Nat) : List Nat :=
  (s.threads.filter fun e => isCtx e.1 && decide (e.2.status ≠ .none) && decide (e.2.part = p)).map (·.1)

/-- Every frozen unit of a partition is killed, those that froze with the whole partition among them, and every capability is
spent (R348, R350). -/
def State.killFrozen (s : State) (p : Nat) : State :=
  let fs := s.freezes.filter fun f => decide (f.part = p) && !f.spent
  let s1 := fs.foldl (fun s f => (s.killUnit f.unit false).spendKill f) s
  let s2 := (s1.regionsOf p).foldl (fun s r => if (s.region r).frozen then s.killRegion r false else s) s1
  (s2.ctxOf p).foldl (fun s t => if (s.thread t).status = .frozen then s.endThread t 1 else s) s2

/-- KILLALL alone: a pre-emption held behind the freezes then takes effect (R348, R352). -/
def State.killAll (s : State) (p : Nat) : State := (s.killFrozen p).preheldKill p

/-- A kill of a whole partition: every unit is killed and the graph ends; a pre-emption held behind a freeze meets no graph.
The handler that asks for the kill, `keep`, runs on to its HEND (R340, R349; log entry 139). -/
def State.killPartition (s : State) (p status : Nat) (keep : Option Nat) : State :=
  let s1 := s.killFrozen p
  let s2 := (s1.regionsOf p).foldl (fun s r => s.killRegion r false) s1
  let s3 := (s2.ctxOf p).foldl (fun s t => if keep = some t then s else s.endThread t 1) s2
  (s3.endGraph p status).countFailure (s.hardwareFault p)

/-- ENDGRAPH beside KILLALL: the frozen units are killed and the graph ends with status 1 (R348). -/
def State.killEnd (s : State) (p : Nat) : State :=
  ((s.killFrozen p).endGraph p 1).countFailure ((s.part p).graph.isSome && s.hardwareFault p)

/-! ## Resumption (R227, R260, R267, R273, R340, R350) -/

/-- A region continues: a rate check that failed at DONE is accepted, a frame start is checked again. -/
def State.resumeRegionOf (s : State) (r : Nat) (f : Freeze) : State :=
  let s1 := s.resumeRegion r
  let R := s1.region r
  if f.quiesce then s1.quiescence R.part
  else if R.recheck then s1
  else if f.cause = 0x11 then s1.setRegion r { R with rateOk := true }
  else s1

/-- Resume what froze only because the pool was full (R350). -/
def State.resumePartition (s : State) (p : Nat) : State :=
  let s1 := (s.regionsOf p).foldl (fun s r =>
    if (s.region r).frozen && !s.regionHasFreeze r then s.resumeRegion r else s) s
  (s1.ctxOf p).foldl (fun s t =>
    if (s.thread t).status = .frozen && !s.hasFreeze (threadUnit (s.thread t) t) then s.resumeThread t else s) s1

/-- FRES of a unit. -/
def State.resumeUnit (s : State) (f : Freeze) : State :=
  match f.unit with
  | .region r => s.resumeRegionOf r f
  | .rau r =>
    let R := s.region r
    (s.setRegion r { R with frozen := false }).resumeThread (rauThread r)
  | .handler t | .service t => s.resumeThread t
  | .cellar c => s.resumeThread c
  | .chain c => { s with chains := tset Chain.zero s.chains c { tget Chain.zero s.chains c with frozen := false } }
  | .remote _ => s
  | .partition p => s.resumePartition p

/-! ## The checks of a capability (R224) -/

/-- Bits of HCAP that give a right: inspect, patch, resume, kill, step. -/
def rInsp : Nat := 56
def rPatch : Nat := 57
def rResume : Nat := 58
def rKill : Nat := 59
def rStep : Nat := 60

/-- The first of the orders 1 to 4 of R224 that fails, or the freeze. -/
def State.capCheck (s : State) (T : Thread) (h right : Nat) : Except Nat Freeze :=
  if !T.tag h then .error 1
  else match s.freezeOf ((T.getR h).toNat % 2 ^ 32) with
    | none => .error 3
    | some f =>
      if f.spent then .error 2
      else if !(T.getR h).toNat.testBit right then .error 4
      else .ok f

/-- Freeze a handler with CAP; AUX is the order that failed (R351). -/
def State.freezeCap (s : State) (t order : Nat) : State :=
  s.freezeThreadT t (s.thread t) { cause := 0x09, aux := BitVec.ofNat 64 order }

/-- Run an instruction of a handler on the unit of a capability. -/
def onCap (s : State) (a : BitVec 6) (right : Nat) (f : Nat → Thread → Freeze → State) : Host.Outcome State Fault Refusal :=
  onThread s [.handler] fun t T =>
    match s.capCheck T a.toNat right with
    | .error n => s.freezeCap t n
    | .ok x => f t T x

end Sys2Proof.Machine
end

