-- ==== Sys2Proof/Machine/IndexOps.lean ====
section
/-! DEFINITION. Control registers (R41, R203), the region status word (R40) and the frozen-state index space (R225, R226,
R345, R346). -/

namespace Sys2Proof.Machine

/-! ## Control registers (R41, R203) -/

/-- The value of a control register of a thread; none for a number that R203 does not list. -/
def State.crRead (s : State) (t : Nat) (T : Thread) (cr : Nat) : Option Word :=
  let p := T.part
  if cr = 0 then some (BitVec.ofNat 64 (threadId t T.kind))
  else if cr = 1 then some (BitVec.ofNat 64 p)
  else if cr = 2 then some (BitVec.ofNat 64 T.priv)
  else if cr = 3 then some (BitVec.ofNat 64 T.nest)
  else if cr = 4 then some (Config.pkgId.setWidth 64)
  else if cr = 8 then some (BitVec.ofNat 64 T.cause)
  else if cr = 9 then some T.faddr
  else if cr = 0xA then some T.funit
  else if cr = 0x10 then some (BitVec.ofNat 64 s.now)
  else if cr = 0x11 then some (BitVec.ofNat 64 s.tband)
  else if cr = 0x12 then some (BitVec.ofNat 64 s.tstate)
  else if cr = 0x13 then some (T.lattol.setWidth 64)
  else if 0x20 ≤ cr ∧ cr ≤ 0x2B then some (s.w (prbAt p (0x1100 + 8 * (cr - 0x20))))
  else if 0x30 ≤ cr ∧ cr ≤ 0x35 then some (s.w (dcAt p (cr - 0x30)))
  else none

/-- The bits of the watchpoint registers, n from 0 to 11: WPB 57 bits, WPL at most 4,096, WPM 64 (R203). -/
def watchValue (n : Nat) (v : Word) : Word :=
  if n < 4 then BitVec.ofNat 64 (v.toNat % 2 ^ 57)
  else if n < 8 then BitVec.ofNat 64 (min v.toNat 4096)
  else v

/-! ## The region status word (R40) -/

def Region.status (R : Region) : Word :=
  BitVec.ofNat 64 (pack [(5, R.row), (1, R.sel.toNat), (1, R.done.toNat), (1, R.frozen.toNat), (4, R.phase), (3, R.rset),
    (1, 0), (16, R.stage), (32, R.iter)])

/-- A region as its status word shows it while it runs: ROW is the row selected in this cycle, SSEL and ITER are that row's;
in a bubble, those of the iteration that has ended (R40). -/
def Region.current (R : Region) : Region :=
  match R.sels.head? with
  | some (some (row, i)) => { R with pos := row % 16, sel := decide (16 ≤ row), iter := i }
  | _ =>
    if R.iterNow = R.iter then R
    else
      let A := { R with sel := !R.sel, iter := R.iterNow }
      { A with pos := A.ii - 1 }

/-- A patch of ROW, SSEL or ITER; none where another field would change, or where ROW leaves the schedule that SSEL names:
16 or more with SSEL 0, below 16 with SSEL 1, a position at or beyond the schedule's II. Pending bubbles go where the
patch changes ROW or SSEL (log entry 97). -/
def Region.patchStatus (R : Region) (v : Word) : Option Region :=
  let n := v.toNat
  let row := bitsOf n 0 5
  let sel := decide (bitsOf n 5 1 = 1)
  let pos := if sel then row - 16 else row
  let ii := if sel then hIib R.hdr else hIia R.hdr
  let other := fun (m : Nat) => setBits (setBits m 0 6 0) 32 32 0
  if other n ≠ other R.status.toNat then none
  else if (sel && (decide (row < 16) || !hDual R.hdr)) || (!sel && decide (16 ≤ row)) || decide (ii ≤ pos) then none
  else
    let moved := decide (row ≠ R.row) || decide (sel ≠ R.sel)
    some { R with pos := pos, sel := sel, iter := bitsOf n 32 32
                  bub := if moved then 0 else R.bub
                  nextSel := if moved then none else R.nextSel }

/-- The condition queue as an item: count, entries with the oldest in bit 4. -/
def Region.condItem (R : Region) : Word :=
  let bits := (List.range 4).map fun i => (1, (R.condq.getD i false).toNat)
  BitVec.ofNat 64 (pack ((4, R.condq.length) :: bits))

def Region.patchCond (R : Region) (v : Word) : Option Region :=
  let n := v.toNat
  let c := bitsOf n 0 3
  if 2 ^ 8 ≤ n ∨ 4 < c then none
  else some { R with condq := (List.range c).map fun i => n.testBit (4 + i) }

/-! ## Items of a tile -/

def Line.piece (l : Line) (i : Nat) : Word := BitVec.ofNat 64 (bitsOf l.bits.toNat (64 * i) 64)
def Line.setPiece (l : Line) (i : Nat) (v : Word) : Line :=
  { l with bits := BitVec.ofNat 512 (setBits l.bits.toNat (64 * i) 64 v.toNat) }
def vecPiece (b : Vec) (i : Nat) : Word := BitVec.ofNat 64 (bitsOf b.toNat (64 * i) 64)
def vecSetPiece (b : Vec) (i : Nat) (v : Word) : Vec := BitVec.ofNat 512 (setBits b.toNat (64 * i) 64 v.toNat)

/-- The bank key of a line of a slot; none where the pond, slot or line does not exist. -/
def Tile.slotBank (T : Tile) (p x l : Nat) : Option Nat :=
  let e := (T.pond p).entry
  if peValid e ∧ x < peCount e ∧ l < peLines e then some (1536 * peBank e + peLine e x l % 1536) else none

/-- The item of a per-tile space (R345); none where it is not defined. -/
def Tile.item (T : Tile) (rcyc space i : Nat) : Option Word :=
  let u := fun (n : Nat) => BitVec.ofNat 64 n
  if space = 0x01 then
    let r := bitsOf i 6 4
    if i < 2 ^ 11 ∧ bitsOf i 3 3 = 0 ∧ r < 12 then some ((T.vreg (bitsOf i 10 1) r).piece (i % 8)) else none
  else if space = 0x02 then
    let r := bitsOf i 6 4
    if i < 2 ^ 11 ∧ bitsOf i 0 6 = 0 ∧ r < 12 then some (T.vreg (bitsOf i 10 1) r).pois else none
  else if space = 0x03 then
    if i = 0 then some (T.vmode0.setWidth 64)
    else if i = 1 then some (T.vmode1.setWidth 64)
    else if i = 2 then some (T.tap0.setWidth 64)
    else if i = 3 then some (T.tap1.setWidth 64)
    else if i = 4 then some (T.scale.setWidth 64)
    else if i = 5 then some T.dropthr
    else if i = 6 then some (T.rngkey.setWidth 64)
    else if i = 7 then some (u (T.rngkey.toNat / 2 ^ 64))
    else if i = 8 then some ((T.imm.map (·.2)).getD 0)
    else if i < 16 then some (T.kreg (i - 8))
    else if i = 16 then some (T.kreg 0)
    else none
  else if space = 0x04 then
    let g := T.gen (i % 8)
    match i / 8 with
    | 0 => some (g.img.setWidth 64)
    | 1 => some (u (g.img.toNat / 2 ^ 64))
    | 2 => some g.run
    | _ => none
  else if space = 0x05 then
    let q := T.pond (i % 32)
    match i / 32 with
    | 0 => some q.entry
    | 1 => some (q.cr.setWidth 64)
    | 2 => some (q.cw.setWidth 64)
    | 3 => some (q.wr.setWidth 64)
    | 4 => some (q.ww.setWidth 64)
    | 5 => some q.mon
    | _ => none
  else if space = 0x06 then
    let p := i % 32
    let x := i / 32
    if peValid (T.pond p).entry ∧ x < peCount (T.pond p).entry then some (T.slot p x) else none
  else if space = 0x07 then
    if 2 ^ 26 ≤ i then none
    else (T.slotBank (i % 32) (bitsOf i 5 8) (bitsOf i 13 10)).map fun k => vecPiece (tget 0 T.banks k) (bitsOf i 23 3)
  else if space = 0x08 then
    if 2 ^ 23 ≤ i then none
    else (T.slotBank (i % 32) (bitsOf i 5 8) (bitsOf i 13 10)).map fun k =>
      if T.bankUe.any (· == k) then BitVec.allOnes 64 else 0
  else if space = 0x09 then
    if i < 2 ^ 17 ∧ bitsOf i 3 11 < 1536 then
      some (vecPiece (tget 0 T.banks (1536 * (i % 8) + bitsOf i 3 11)) (bitsOf i 14 3)) else none
  else if space = 0x0A then
    let a := i % 4
    if 2 ^ 13 ≤ i then none
    else if bitsOf i 12 1 = 0 then some (u (T.vat.cell a (bitsOf i 2 5) (bitsOf i 7 5)))
    else if a % 2 = 0 then some (u (T.vat.cell64 a (bitsOf i 2 5) (bitsOf i 7 5)))
    else none
  else if space = 0x0B then
    if 2 ^ 7 ≤ i then none
    else some (u (pack ((List.range 32).map fun j => (1, (T.vat.poisoned (i % 4) (i / 4) j).toNat))))
  else if space = 0x0C then
    if i < 4 then some (u (T.vat.accstRead i)) else if i = 4 then some T.vctl.vatst else none
  else if space = 0x0D then
    if 2 ^ 11 ≤ i then none
    else some (u (bitsOf (tget Col.zero T.vat.bbuf (32 * (i % 2) + bitsOf i 1 5)).bits.toNat (64 * bitsOf i 6 5) 64))
  else if space = 0x0E then
    if i < 8 then some (T.vctl.header i)
    else if 0x200 ≤ i ∧ i < 0x600 then some ((tget 0 T.vctl.scl (i - 0x200)).setWidth 64)
    else none
  else if space = 0x0F then
    let w := match i % 4 with
      | 0 => some Dest.pin
      | 1 => some Dest.aout
      | 2 => some (Dest.feed 0)
      | _ => none
    if 2 ^ 5 ≤ i then none else w.map fun d => ((latchAt T.dels d rcyc).getD Line.zero).piece (i / 4)
  else if space = 0x11 then
    if 2 ^ 8 ≤ i then none
    else
      let q := tget RPtr.zero T.rptr (rptrKey (i % 4) (bitsOf i 2 5))
      some ((if bitsOf i 7 1 = 1 then q.comm else q.work).setWidth 64)
  else none

/-- Slot metadata that a patch may write (R255). -/
def slotPatch (v : Word) : Option Word :=
  if smState v = 3 ∨ (!smSluice v ∧ smNrs v ≠ 0) then none else some (BitVec.ofNat 64 (v.toNat % 2 ^ 33))

/-- FPATCH of an item of a per-tile space; none where it is not defined, not writable, or the value too wide. Reserved bits
read zero whatever the patch holds (R6, R7). -/
def Tile.patchItem (T : Tile) (iter space i : Nat) (v : Word) : Option Tile :=
  let n := v.toNat
  if (T.item 0 space i).isNone then none
  else if space = 0x01 then
    let st := bitsOf i 10 1
    let r := bitsOf i 6 4
    some { T with v := tset Line.zero T.v (12 * st + r) ((T.vreg st r).setPiece (i % 8) v) }
  else if space = 0x03 then
    if i = 0 then (if n < 2 ^ 32 then some { T with vmode0 := BitVec.ofNat 32 (n % 2 ^ 8) } else none)
    else if i = 1 then (if n < 2 ^ 32 then some { T with vmode1 := BitVec.ofNat 32 (n % 2 ^ 8) } else none)
    else if i = 2 then (if n < 2 ^ 8 then some { T with tap0 := v.setWidth 8 } else none)
    else if i = 3 then (if n < 2 ^ 8 then some { T with tap1 := v.setWidth 8 } else none)
    else if i = 4 then (if n < 2 ^ 32 then some { T with scale := v.setWidth 32 } else none)
    else if i = 5 then some { T with dropthr := v }
    else if i = 6 then some { T with rngkey := BitVec.ofNat 128 (setBits T.rngkey.toNat 0 64 n) }
    else if i = 7 then some { T with rngkey := BitVec.ofNat 128 (setBits T.rngkey.toNat 64 64 (setBits n 15 1 0)) }
    else if i = 8 then some { T with imm := some ((T.imm.map (·.1)).getD iter, v), kUe := T.kUe.filter (· ≠ 8) }
    else if i < 16 then some (T.setKreg (i - 8) v)
    else none
  else if space = 0x04 then
    let g := T.gen (i % 8)
    some (T.setGen (i % 8) (match i / 8 with
      | 0 => { g with img := BitVec.ofNat 128 (setBits g.img.toNat 0 64 n) }
      | 1 => { g with img := BitVec.ofNat 128 (setBits g.img.toNat 64 64 n) }
      | _ => { g with run := BitVec.ofNat 64 (n % 2 ^ 58) }))
  else if space = 0x05 then
    if 2 ^ 32 ≤ n then none
    else match i / 32 with
      | 3 => some (T.setPond (i % 32) { T.pond (i % 32) with wr := v.setWidth 32 })
      | 4 => some (T.setPond (i % 32) { T.pond (i % 32) with ww := v.setWidth 32 })
      | _ => none
  else if space = 0x06 then (slotPatch v).map fun m => T.setSlot (i % 32) (i / 32) m
  else if space = 0x07 then
    (T.slotBank (i % 32) (bitsOf i 5 8) (bitsOf i 13 10)).map fun k =>
      { T with banks := tset 0 T.banks k (vecSetPiece (tget 0 T.banks k) (bitsOf i 23 3) v) }
  else if space = 0x09 then
    let k := 1536 * (i % 8) + bitsOf i 3 11
    some { T with banks := tset 0 T.banks k (vecSetPiece (tget 0 T.banks k) (bitsOf i 14 3) v) }
  else if space = 0x0A then
    let a := i % 4
    let row := bitsOf i 2 5
    let col := bitsOf i 7 5
    let fix := fun (c : VatCore) (l : List Nat) => { c with resid := c.resid.filter fun k => !(l.any (· == k)) }
    if bitsOf i 12 1 = 1 then
      some { T with vat := fix (T.vat.setCell64 a row col n) [cellKey a row col, cellKey (a + 1) row col] }
    else if n < 2 ^ 32 then some { T with vat := fix (T.vat.setCell a row col n) [cellKey a row col] }
    else none
  else if space = 0x0C then
    let old := T.vat.accstRead i
    if i < 4 ∧ setBits n 23 9 0 = setBits old 23 9 0 then
      some { T with vat := T.vat.setSt i (setBits (T.vat.st i) 23 9 (bitsOf n 23 9)) }
    else none
  else if space = 0x0D then
    let k := 32 * (i % 2) + bitsOf i 1 5
    let c := tget Col.zero T.vat.bbuf k
    let c' : Col := { c with bits := BitVec.ofNat 2048 (setBits c.bits.toNat (64 * bitsOf i 6 5) 64 n) }
    some { T with vat := { T.vat with bbuf := tset Col.zero T.vat.bbuf k c' } }
  else if space = 0x0E then
    if i < 8 then some { T with vctl := T.vctl.setHeader i (BitVec.ofNat 64 (n % 2 ^ 23)) }
    else if n < 2 ^ 32 then some { T with vctl := { T.vctl with scl := tset 0 T.vctl.scl (i - 0x200) (v.setWidth 32) } }
    else none
  else if space = 0x11 then
    if 2 ^ 32 ≤ n ∨ bitsOf i 7 1 = 1 then none
    else
      let k := rptrKey (i % 4) (bitsOf i 2 5)
      some { T with rptr := tset RPtr.zero T.rptr k { tget RPtr.zero T.rptr k with work := v.setWidth 32 } }
  else none

/-- FCLRP of an item (R346): the poison of a register, the POIS of a slot, of a line, the marks of a row; none where the
index is not defined (R224). -/
def Tile.clearItem (T : Tile) (space i : Nat) : Option Tile :=
  if (T.item 0 space i).isNone then none
  else if space = 0x01 ∨ space = 0x02 then
    let st := bitsOf i 10 1
    let r := bitsOf i 6 4
    some { T with v := tset Line.zero T.v (12 * st + r) { T.vreg st r with pois := 0, org := 0 } }
  else if space = 0x06 then
    some (T.setSlot (i % 32) (i / 32) (smSet (T.slot (i % 32) (i / 32)) 3 1 0))
  else if space = 0x07 ∨ space = 0x08 then
    (T.slotBank (i % 32) (bitsOf i 5 8) (bitsOf i 13 10)).map fun k =>
      { T with bankUe := T.bankUe.filter fun x => decide (x ≠ k) }
  else if space = 0x0A ∨ space = 0x0B then some { T with vat := T.vat.unmarkRows (i % 4) (bitsOf i 2 5) 1 }
  else none

/-- Clear every poison mark of a tile, and of the deliveries it holds (R226, R346). -/
def Tile.clearAll (T : Tile) : Tile :=
  let clean := fun (l : Line) => { l with pois := 0, org := 0 }
  let slots := T.slots.foldl (fun m e => tset 0 m e.1 (smSet e.2 3 1 0)) []
  let img := fun (c : Col) => { c with pois := 0, orgs := [] }
  let pair := fun (x : Nat × PairOp) => match x.2 with
    | .feed acc first slot accs fed bad org before after =>
      (x.1, PairOp.feed acc first slot accs { fed with img := img fed.img, spois := fed.spois.map fun _ => 0 } bad org
        { before with accPois := [] } { after with accPois := [] })
    | _ => x
  let core := { T.vat with accPois := [], bbuf := (T.vat.bbuf.map fun e => (e.1, img e.2)).filter fun e => decide (e.2 ≠ Col.zero) }
  let v := T.v.foldl (fun m e => tset Line.zero m e.1 (clean e.2)) []
  { T with
    v := v
    slots := slots
    bankUe := []
    vat := core
    vctl := { T.vctl with sclPois := [], pend := T.vctl.pend.map pair }
    dels := T.dels.map fun d => { d with line := clean d.line } }

/-- The lines that TWEs hold for a frozen region lose their poison. -/
def Region.clearJobs (R : Region) : Region :=
  let clean := fun (l : Line) => { l with pois := 0, org := 0 }
  let drain := fun (d : Drain) => { d with lines := d.lines.map fun ls => ls.map clean }
  { R with jobs := R.jobs.map fun (j : TweJob) => { j with lines := j.lines.map clean }
           drains := R.drains.map drain }

/-! ## Items of a unit (R345) -/

def ixSpace (x : Word) : Nat := bitsOf x.toNat 56 8
def ixCol (x : Word) : Nat := bitsOf x.toNat 50 6
def ixRow (x : Word) : Nat := bitsOf x.toNat 45 5
def ixItem (x : Word) : Nat := bitsOf x.toNat 0 45

def tileSpace (n : Nat) : Bool := decide (1 ≤ n) && decide (n ≤ 0x11)

/-- The region that a unit's fabric spaces reach. -/
def FUnit.region? : FUnit → Option Nat
  | .region r | .rau r => some r
  | _ => none

/-- The thread that a unit's thread spaces reach. -/
def FUnit.thread? : FUnit → Option Nat
  | .region r | .rau r => some (rauThread r)
  | .handler t | .service t | .cellar t => some t
  | _ => none

def word80Half (w : W80) (hi : Bool) : Word := if hi then BitVec.ofNat 64 (w.toNat / 2 ^ 64) else w.setWidth 64
/-- A word with one half patched; none where 16 bits would not hold the value. -/
def patch80 (w : W80) (hi : Bool) (v : Word) : Option W80 :=
  if hi then (if v.toNat < 2 ^ 16 then some (BitVec.ofNat 80 (setBits w.toNat 64 16 v.toNat)) else none)
  else some (BitVec.ofNat 80 (setBits w.toNat 0 64 v.toNat))

/-- The row-store word of a tile: the west edge holds a region's words, every other tile zero (R25; R345 names the
west edge only: log entry 105). -/
def Region.rowWord (R : Region) (col row i : Nat) : W80 := if col = 0 then tget 0 R.rows (32 * row + i % 32) else 0

/-- FINSP's item of a region. -/
def State.regionItem (s : State) (r space col row i : Nat) : Option Word :=
  let R := s.region r
  if space = 0 then
    if col ≠ 0 ∨ row ≠ 0 then none
    else match i with
      | 0 => some R.status
      | 1 => some R.condItem
      | 2 => some (R.hdr.setWidth 64)
      | 3 => some (BitVec.ofNat 64 (R.hdr.toNat / 2 ^ 64))
      | 4 => some (BitVec.ofNat 64 (pack [(3, R.pendSet), (1, R.sealed.toNat)]))
      | _ => none
  else if 2 * R.w ≤ col ∨ 2 * R.h ≤ row then none
  else if space = 0x10 then
    if i < 2 ^ 6 then some (word80Half (R.rowWord col row i) (decide (i / 32 = 1))) else none
  else (s.tile (regionTile r + 64 * row + col)).item R.rcyc space i

/-- The iteration that a tile at a column offset stands in: of the word it executes or has executed last. -/
def Region.tileIter (R : Region) (col : Nat) : Nat :=
  match (R.sels.drop col).findSome? id with
  | some (_, i) => i
  | none => R.iter

/-- After a patch of a working write index or of a pointer: a pointer and the pond it writes stand for one index (R162). -/
def State.syncWrite (s : State) (t space i : Nat) (v : Word) : State :=
  if space = 0x05 ∧ i / 32 = 4 then s.syncPointers t (i % 32) (v.setWidth 32)
  else if space = 0x11 then
    let q := tget RPtr.zero (s.tile t).rptr (rptrKey (i % 4) (bitsOf i 2 5))
    if q.valid then s.setWork q.tile q.pond (v.setWidth 32) else s
  else s

def State.patchRegion (s : State) (r space col row i : Nat) (v : Word) : Option State :=
  let R := s.region r
  if space = 0 then
    if col ≠ 0 ∨ row ≠ 0 then none
    else match i with
      | 0 => (R.patchStatus v).map fun x => s.setRegion r x
      | 1 => (R.patchCond v).map fun x => s.setRegion r x
      | _ => none
  else if 2 * R.w ≤ col ∨ 2 * R.h ≤ row then none
  else if space = 0x10 then
    if col = 0 ∧ i < 2 ^ 6 then
      let k := 32 * row + i % 32
      (patch80 (tget 0 R.rows k) (decide (i / 32 = 1)) v).map fun w =>
        s.setRegion r { R with rows := tset 0 R.rows k w
                               rowUe := R.rowUe.filter fun x => decide (x ≠ k)
                               rowCe := R.rowCe.filter fun x => decide (x ≠ k) }
    else none
  else
    let t := regionTile r + 64 * row + col
    ((s.tile t).patchItem (R.tileIter col) space i v).map fun x => (s.setTile t x).syncWrite t space i v

/-- FINSP's item of a thread: registers, control registers, code words. -/
def State.threadItem (s : State) (t space i : Nat) : Option Word :=
  let T := s.thread t
  if space = 0x20 then
    if i < 32 then some (T.getR i) else if i = 32 then some T.pc else if i ≤ 36 then some (T.getR (i - 1)) else none
  else if space = 0x21 then s.crRead t T i
  else if space = 0x22 then
    if i < 2 ^ 17 ∧ i % 2 ^ 16 < T.codeLen then
      some (word80Half (tget guardWord T.code (i % 2 ^ 16)) (decide (i / 2 ^ 16 = 1))) else none
  else none

def State.patchThread (s : State) (t space i : Nat) (v : Word) : Option State :=
  let T := s.thread t
  if space = 0x20 then
    if 1 ≤ i ∧ i < 32 then some (s.setThread t { T.setR i v with regUe := T.regUe.filter fun x => decide (x ≠ i) })
    else if i = 32 then some (s.setThread t { T with pc := v })
    else none
  else if space = 0x22 then
    let k := i % 2 ^ 16
    if i < 2 ^ 17 ∧ k < T.codeLen then
      (patch80 (tget guardWord T.code k) (decide (i / 2 ^ 16 = 1)) v).map fun w =>
        s.setThread t { T with code := tset guardWord T.code k w
                               codeUe := T.codeUe.filter fun x => decide (x ≠ k)
                               codeCe := T.codeCe.filter fun x => decide (x ≠ k) }
    else none
  else none

/-- FINSP: the 64 bits of frozen state at an index; none where the index is not defined for the unit. -/
def State.inspect (s : State) (f : Freeze) (x : Word) : Option Word :=
  let sp := ixSpace x
  let flat := decide (ixCol x = 0) && decide (ixRow x = 0)
  if sp ≤ 0x11 then f.unit.region?.bind fun r => s.regionItem r sp (ixCol x) (ixRow x) (ixItem x)
  else if !flat then none
  else if sp ≤ 0x22 then f.unit.thread?.bind fun t => s.threadItem t sp (ixItem x)
  else match sp, f.unit with
    | 0x23, .chain c => if ixItem x < 4 then some (s.winRead 0 (chainAt (c / 16) (c % 16) (ixItem x))) else none
    | 0x24, .remote _ | 0x24, .partition _ =>
      if ixItem x = 0 then some (s.fquse f.part) else if ixItem x = 1 then some (s.pctl f.part) else none
    | _, _ => none

/-- FPATCH of an index. -/
def State.patch (s : State) (f : Freeze) (x v : Word) : Option State :=
  let sp := ixSpace x
  if sp ≤ 0x11 then f.unit.region?.bind fun r => s.patchRegion r sp (ixCol x) (ixRow x) (ixItem x) v
  else if ixCol x ≠ 0 ∨ ixRow x ≠ 0 then none
  else if sp ≤ 0x22 then f.unit.thread?.bind fun t => s.patchThread t sp (ixItem x) v
  else none

/-- FCLRP of an index, or of all marks. -/
def State.clearPoison (s : State) (f : Freeze) (x : Word) : Option State :=
  match f.unit.region? with
  | none => if x = BitVec.allOnes 64 then some s else none
  | some r =>
    let R := s.region r
    if x = BitVec.allOnes 64 then some ((s.setRegion r R.clearJobs).mapTiles (R.tilesOf r) Tile.clearAll)
    else if 2 * R.w ≤ ixCol x ∨ 2 * R.h ≤ ixRow x then none
    else
      let t := regionTile r + 64 * ixRow x + ixCol x
      ((s.tile t).clearItem (ixSpace x) (ixItem x)).map fun T => s.setTile t T

end Sys2Proof.Machine
end

