-- ==== Sys2Proof/Machine/RegOps.lean ====
section
/-! DEFINITION. Stores to the register window, one function for each register with behaviour of its own (R203, R279, R284,
R294, R297, R298, R306, R308, R309, R311 to R316, R320, R324 to R327, R341, R347, R348, R356, R357, R360 to R364, R368, R373,
R394 to R396). A function of type `Option State` answers none where the storing thread freezes with PROTECT. A read-only
register and a reserved field ignore what is stored (R6). -/

namespace Sys2Proof.Machine

/-- Store the masked bits of a register. -/
def State.putMasked (s : State) (pa mask : Nat) (v : Word) : State := s.setW pa (v &&& BitVec.ofNat 64 mask)

/-- Clear the bits that a W1C field takes a 1 in. -/
def State.w1c (s : State) (pa mask : Nat) (v : Word) : State := s.setW pa (s.w pa &&& ~~~(v &&& BitVec.ofNat 64 mask))

/-- reached(c, t) of R200. -/
def reached (c t : Word) : Bool := decide ((c - t).toNat < 2 ^ 63)

/-! ## Timeline counters (R208, R314) -/

def State.counter (s : State) (i : Nat) : Word := tget 0 s.counters i

/-- Whether a thread's own update of a counter of this package is still on its way: a later access of the thread to the
counter comes after it (R235). -/
def State.signalling (s : State) (t i : Nat) : Bool :=
  s.writes.any fun w => decide (w.by_ = .thread t) && !w.performed && (otherPkg w.pa).isNone && match w.kind with
    | .tlsig j _ => decide (j = i)
    | _ => false

/-- A held thread is released: D takes a value, and the instruction completes. -/
def State.release (s : State) (t d : Nat) (v : Word) : State :=
  s.setThread t { (s.thread t).setR d v |>.complete s.now 1 with status := .running }
/-- Later loads read no earlier than now (R238). -/
def State.acquireNow (s : State) (t : Nat) : State := s.setThread t { s.thread t with acqAt := s.now }

/-- Threads whose TLWT the new value of a counter meets are released (R208, R210). -/
def State.meetTlwt (s : State) (i : Nat) (v : Word) : State :=
  (s.threads.map (·.1)).foldl (fun s t => match (s.thread t).status with
    | .waiting (.tlwt d j target _) =>
      if j = i ∧ reached v target ∧ !s.signalling t i then (s.acquireNow t).release t d 1 else s
    | _ => s) s

/-- A counter takes a value: waits of threads and tasks that it meets are met, event 3 if it advanced. -/
def State.setCounter (s : State) (i : Nat) (v : Word) : State :=
  let old := s.counter i
  let s1 := { s with counters := tset 0 s.counters i v }
  let s2 := s1.setTasks fun t => { t with waits := t.waits.filter fun w => !(decide (w.1 = i) && reached v w.2) }
  let s3 := s2.meetTlwt i v
  if v ≠ old ∧ reached v old then s3.raiseP (i / 256) 3 else s3

/-- An update of TLSIG: add, or adv, which never moves a counter backwards (R209). -/
def State.signal (s : State) (i : Nat) (add : Bool) (v : Word) : State :=
  let c := s.counter i
  if add then s.setCounter i (c + v)
  else if reached v c ∧ v ≠ c then s.setCounter i v
  else s

/-! ## Pools (R326) -/

/-- Whether a queue that holds u entries is granted one more; `all` gives every queue's entries and minimum. -/
def poolGrants (size : Nat) (all : List (Nat × Nat)) (u mn cap : Nat) : Bool :=
  let used := (all.map (·.1)).foldl (· + ·) 0
  let owed := (all.map fun x => x.2 - x.1).foldl (· + ·) 0
  decide (u < mn) || (decide (u < max cap mn) && decide (owed < size - used))

def sumBelow (f : Nat → Nat) (n : Nat) : Nat := ((List.range n).map f).foldl (· + ·) 0

/-! ## Range entries (R279) -/

/-- The area of R277 that an address lies in. -/
def areaOf (pa : Nat) : Nat :=
  if pa < Config.hbmBytes then 1
  else if inWin pa then 2
  else if 2 ^ 48 ≤ pa ∧ pa < 2 ^ 51 then 3
  else if 2 ^ 51 ≤ pa ∧ pa < 2 ^ 52 then 4
  else 0

def sameArea (a n : Nat) : Bool := decide (areaOf a ≠ 0) && decide (areaOf a = areaOf (a + n - 1))

/-- The conditions under which VALID takes effect. -/
def State.rangeOk (s : State) (p n : Nat) (shd : Bool) : Bool :=
  let size := s.rLimit p n - s.rBase p n
  decide (s.rBase p n < s.rLimit p n) &&
    ([s.rBase p n, s.rLimit p n, s.rLive p n, s.rShadow p n, s.rCow p n].all fun x => decide (x % 64 = 0)) &&
    sameArea (s.rLive p n) size && (!shd || sameArea (s.rShadow p n) size)

/-- A store to word w of a range entry. -/
def State.storeRange (s : State) (p n w : Nat) (v : Word) : Option State :=
  let a := rangeAt p n w
  let valid := s.rValid p n
  if w = 0 then
    let want := v.toNat.testBit 0 && s.rangeOk p n (v.toNat.testBit 4)
    if valid ∧ !want ∧ (s.rLock p n ≠ 0 ∨ s.rShst p n ≠ 0) then none
    else
      let s1 := s.setWf a 0 5 (want.toNat + 2 * bitsOf v.toNat 1 4)
      some (if want ∧ !valid then s1.setWf a 32 32 1 else s1)
  else if valid then none
  else if w = 1 ∨ w = 2 then some (s.putMasked a (2 ^ 57 - 1) v)
  else if w ≤ 5 then some (s.putMasked a (2 ^ 52 - 1) v)
  else some s

/-! ## Partition registers -/

/-- MIGCTL: EN stays 0 while a graph of the partition runs (R298). -/
def State.storeMigctl (s : State) (p : Nat) (v : Word) : State :=
  let en := v.toNat.testBit 0 && (s.part p).graph.isNone
  s.setW (prbAt p 0x1008) (BitVec.ofNat 64 (pack [(1, en.toNat), (15, 0), (16, bitsOf v.toNat 16 16), (32, bitsOf v.toNat 32 32)]))

/-- FQCFG (R341). -/
def State.storeFqcfg (s : State) (p : Nat) (v : Word) : Option State :=
  let mn := bitsOf v.toNat 0 9
  let cap := bitsOf v.toNat 16 9
  let sum := sumBelow (fun q => if q = p then mn else s.wf (prbAt q 0x1040) 0 9) 16
  if 256 < mn ∨ cap = 0 ∨ 256 < cap ∨ 256 < sum then none
  else some (s.putMasked (prbAt p 0x1040) 0x1FF01FF v)

/-- RESTORE: wait until every region of the saved context is free (R325). -/
def State.storeRestore (s : State) (p : Nat) : State :=
  if (s.part p).swapGraph.isSome then s.setPart p { s.part p with restorePend := true } else s

/-- PCTL (R324). -/
def State.storePctl (s : State) (p : Nat) (v : Word) : State :=
  let req := bitsOf v.toNat 0 2
  let s1 := if req = 0 then s else s.request p req (bitsOf v.toNat 32 16)
  if v.toNat.testBit 2 then s1.storeRestore p else s1

/-- REDISPATCH: records passed over after HEND become eligible again (R348). -/
def State.redispatch (s : State) (p : Nat) : State :=
  { s with freezes := s.freezes.map fun f => if f.part = p ∧ f.pass = 1 then { f with pass := 0 } else f }

/-- PKILL (R348). -/
def State.storePkill (s : State) (p : Nat) (v : Word) : State :=
  let n := v.toNat
  let s1 := if !n.testBit 0 then s else if n.testBit 1 then s.killEnd p else s.killAll p
  if n.testBit 2 then s1.redispatch p else s1

/-- A register of PRB(p) at 0x1000 to 0x11FF. -/
def State.storePrb (s : State) (p off : Nat) (v : Word) : Option State :=
  let a := prbAt p off
  if off = 0x1000 then some (s.putMasked a (2 ^ 52 - 2 ^ 21) v)
  else if off = 0x1008 then some (s.storeMigctl p v)
  else if off = 0x1010 then some (s.putMasked a (2 ^ 57 - 2 ^ 16) v)
  else if off = 0x1018 then some (s.putMasked a (2 ^ 52 - 2 ^ 6) v)
  else if off = 0x1020 then some (s.putMasked a (2 ^ 52 - 2 ^ 21 + 1) v)
  else if off = 0x1030 then some (s.storePctl p v)
  else if off = 0x1040 then s.storeFqcfg p v
  else if off = 0x1050 then some (s.storePkill p v)
  else if off = 0x1060 then some (s.putMasked a (2 ^ 16 - 1) v)
  else if off = 0x1068 then some (s.putMasked a (2 ^ 48 - 1) v)
  else if 0x1100 ≤ off ∧ off < 0x1160 then some (s.setW a (watchValue ((off - 0x1100) / 8) v))
  else if 0x1160 ≤ off ∧ off ≤ 0x1188 then some (s.setW a 0)
  else some s

/-! ## Copy-engine chains (R306) -/

def State.chain (s : State) (c : Nat) : Chain := tget Chain.zero s.chains c
def State.setChain (s : State) (c : Nat) (x : Chain) : State := { s with chains := tset Chain.zero s.chains c x }

/-- RESUME: the failed entry of a halted chain is retried. -/
def State.chainResume (s : State) (c : Nat) : State :=
  let C := s.chain c
  if C.halted then s.setChain c { C with halted := false, busy := false, ctl := 0, watch := none } else s

/-- SKIP: the failed entry counts as complete. -/
def State.chainSkip (s : State) (c : Nat) : State :=
  let C := s.chain c
  if C.halted then
    match C.entries with
    | e :: es => s.setChain c { C with halted := false, busy := false, ctl := 0, watch := none
                                       seq := e.num, entries := es }
    | [] => s
  else s

def State.storeChainCtl (s : State) (c : Nat) (v : Word) : State :=
  if v.toNat.testBit 4 then s.chainResume c else if v.toNat.testBit 5 then s.chainSkip c else s

/-! ## Runoff windows (R360 to R362) -/

def State.runWin (s : State) (p n : Nat) : Window := tget Window.zero s.windows (8 * p + n)
def State.setRunWin (s : State) (p n : Nat) (x : Window) : State := { s with windows := tset Window.zero s.windows (8 * p + n) x }
def State.wnValid (s : State) (p n : Nat) : Bool := decide (s.wf (windowAt p n 0) 0 1 = 1)
def State.wnBase (s : State) (p n : Nat) : Nat := s.wf (windowAt p n 0) 9 43 * 512
def State.wnBlocks (s : State) (p n : Nat) : Nat := s.wf (windowAt p n 1) 0 16 + 1
def State.wnMask (s : State) (p n : Nat) : Nat := s.wf (windowAt p n 2) 6 46 * 64
def State.wnOpen (s : State) (p n : Nat) : Bool := decide (s.wf (windowAt p n 3) 2 1 = 1)

/-- Mask words of a window. -/
def maskWords (blocks : Nat) : Nat := (blocks + 63) / 64

/-- The conditions under which VALID of a window takes effect, for the base that a store brings. -/
def State.windowOk (s : State) (p n base : Nat) : Bool :=
  let len := 512 * s.wnBlocks p n
  decide (base + len ≤ Config.hbmBytes) &&
    decide (s.wnMask p n + 8 * maskWords (s.wnBlocks p n) ≤ Config.hbmBytes) &&
    decide (s.wf (windowAt p n 1) 16 12 / 256 = p) &&
    (List.range 16).all fun q => (List.range 8).all fun m =>
      (decide (q = p) && decide (m = n)) || !s.wnValid q m || !overlaps base len (s.wnBase q m) (512 * s.wnBlocks q m)

/-- ARM: a valid window that is closed opens (R361). -/
def State.armWindow (s : State) (p n : Nat) : State :=
  if s.wnValid p n ∧ !s.wnOpen p n then
    let d := s.wf (windowAt p n 1) 32 32
    (s.setW (windowAt p n 3) 4).setRunWin p n ⟨[], if d = 0 then none else some (s.now + d), true⟩
  else s

/-- The mask word i of a window from its filled blocks. -/
def maskWord (filled : List Nat) (i : Nat) : Nat :=
  filled.foldl (fun m b => if b / 64 = i then Nat.lor m (2 ^ (b % 64)) else m) 0

/-- The close of an open window (R362). -/
def State.closeWindow (s : State) (p n : Nat) : State :=
  if s.wnValid p n ∧ s.wnOpen p n then
    let filled := (s.runWin p n).filled
    let blocks := s.wnBlocks p n
    let clear := (List.range blocks).filter fun b => !(filled.any (· == b))
    let s1 := clear.foldl (fun s b => s.storeBytes .hub (s.wnBase p n + 512 * b) (List.replicate 512 0)) s
    let s2 := (List.range (maskWords blocks)).foldl (fun s i =>
      s.storeBytes .hub (s.wnMask p n + 8 * i) (natBytes (maskWord filled i) 8)) s1
    let s3 := s2.signal (s2.wf (windowAt p n 1) 16 12) true 1
    let s4 := (s3.setWf (windowAt p n 3) 2 1 0).setRunWin p n ⟨filled, none, false⟩
    s4.bumpDc p 1 clear.length
  else s

def State.storeWindow (s : State) (p n w : Nat) (v : Word) : Option State :=
  let a := windowAt p n w
  if w = 3 then
    let s1 := if v.toNat.testBit 0 then s.armWindow p n else s
    some (if v.toNat.testBit 1 then s1.closeWindow p n else s1)
  else if s.wnOpen p n then none
  else if w = 0 then
    let base := bitsOf v.toNat 9 43 * 512
    let ok := v.toNat.testBit 0 && s.windowOk p n base
    some (s.setW a (BitVec.ofNat 64 (base + ok.toNat)))
  else if w = 1 then some (s.putMasked a (2 ^ 64 - 2 ^ 32 + 2 ^ 28 - 1) v)
  else some (s.putMasked a (2 ^ 52 - 2 ^ 6) v)

/-! ## HBM channel blocks (R294, R297, R394 to R396) -/

def State.chan (s : State) (c : Nat) : Chan := tget Chan.zero s.chans c
def State.setChan (s : State) (c : Nat) (x : Chan) : State := { s with chans := tset Chan.zero s.chans c x }

/-- A delay byte above 63 takes 63. -/
def clampBytes (v : Nat) : Nat → Nat
  | 0 => 0
  | n + 1 => min (v % 256) 63 + 256 * clampBytes (v / 256) n

/-- A write of 1 to DEGR clears the state. -/
def State.clearDegr (s : State) (c : Nat) : State := s.setWf (hcbAt c 0) 4 1 0

/-- LREP as a store leaves it: enables and lanes as stored, delays at most 63. -/
def lrepValue (v : Word) : Word :=
  BitVec.ofNat 64 (v.toNat % 2 ^ 16 + 2 ^ 16 * clampBytes (v.toNat / 2 ^ 16) 4)

/-- Repairs that LREP does not take (R396). -/
def lrepBad (v : Word) : Bool :=
  let n := v.toNat
  let e0 := n.testBit 0
  let e1 := n.testBit 8
  (e0 && e1 && decide (bitsOf n 1 7 = bitsOf n 9 7)) || (e0 && decide (71 < bitsOf n 1 7)) || (e1 && decide (71 < bitsOf n 9 7))

/-- A store that a running test defers until BUSY clears (R395). -/
def State.storeDelay (s : State) (t c off : Nat) (v : Word) : State :=
  if s.wf (hcbAt c 0xD8) 0 1 = 1 then
    let C := s.chan c
    s.setChan c { C with deferred := C.deferred ++ [(t, off, v)] }
  else s.setW (hcbAt c off) v

def State.storeLrep (s : State) (t c : Nat) (v : Word) : Option State :=
  if lrepBad v then none else some (s.storeDelay t c 0xF0 (lrepValue v))

/-- Whether a GO takes effect (R395). -/
def State.goOk (s : State) (c : Nat) : Bool :=
  decide (s.wf (hcbAt c 0xD8) 0 1 = 0) && decide (s.wf (hcbAt c 0) 3 1 = 1) && decide (s.wf (hcbAt c 0) 4 1 = 0) &&
    (decide (s.tstate = 1) || decide (s.tstate = 4) || decide (s.tstate = 5))

/-- A refused GO sets REFUSED and DONE. -/
def State.refuseGo (s : State) (c : Nat) : State := (s.setWf (hcbAt c 0xD8) 1 2 3)

/-- An accepted GO: the test starts with what stands in the registers; its length is free, at most 2,000 cycles. -/
def State.startTest (s : State) (c : Nat) (dir : Bool) : State :=
  let ctl := (s.w (hcbAt c 0xD0)).toNat
  let s1 := (s.setW (hcbAt c 0xE0) 0).setW (hcbAt c 0xE8) 0
  let s2 := (s1.setWf (hcbAt c 0xD8) 0 1 1).bumpW (hcbAt c 0xD8) 16 16 1
  let (k, s3) := s2.choose 2000
  s3.setChan c { s3.chan c with
    test := if dir then 2 else 1
    testEnd := s3.now + 1 + k
    latch := [dir.toNat, bitsOf ctl 8 6, bitsOf ctl 14 14, bitsOf ctl 32 5, s3.wf (hcbAt c 0xF8) 0 31] }

def trainMask : Nat := 0x1F0FFFFF06

/-- A store to the training control register. -/
def State.storeTrain (s : State) (c : Nat) (v : Word) : State :=
  let a := hcbAt c 0xD0
  if v.toNat.testBit 0 then
    if s.goOk c then (s.putMasked a trainMask v).startTest c (v.toNat.testBit 1) else s.refuseGo c
  else s.putMasked a trainMask v

def State.storeHcb (s : State) (t c off : Nat) (v : Word) : Option State :=
  let a := hcbAt c off
  if off = 0 then some (if v.toNat.testBit 4 then s.clearDegr c else s)
  else if 0x40 ≤ off ∧ off < 0xD0 then some (s.storeDelay t c off (BitVec.ofNat 64 (clampBytes v.toNat 8)))
  else if off = 0xD0 then some (s.storeTrain c v)
  else if off = 0xD8 then some (s.w1c a 6 v)
  else if off = 0xF0 then s.storeLrep t c v
  else if off = 0xF8 then some (s.putMasked a (2 ^ 31 - 1) v)
  else some s

/-! ## Thermal block (R373) -/

def State.storeCmd (s : State) (cmd : Nat) : State := if cmd = 0 then s else s.setW (trbAt 8) (BitVec.ofNat 64 cmd)

def State.storeTrb (s : State) (off : Nat) (v : Word) : State :=
  if off = 0 then s.w1c (trbAt 0) 0xC0 v
  else if off = 8 then s.storeCmd (v.toNat % 4)
  else if off = 0x10 then s.putMasked (trbAt 0x10) 0xFF v
  else s

/-! ## Byiraer block (R356, R357, R363) -/

/-- A store to the route entry of a package: a change of PORT holds new lines while old ones are unacknowledged. The entry of
the package's own PKGID is ignored, and that a store leaves its fields 0 is the model's choice (log entry 125). -/
def State.storeRoute (s : State) (d : Nat) (v : Word) : State :=
  let a := brbRouteAt d
  let port := bitsOf v.toNat 1 5
  let old := s.wf a 1 5
  let valid := v.toNat.testBit 0 && decide (port ≤ 23)
  let n := pack [(1, valid.toNat), (5, port), (2, 0), (6, bitsOf v.toNat 8 6), (2, 0), (2, bitsOf v.toNat 16 2)]
  if d = Config.pkgId.toNat then s
  else
    let busy := decide (s.linesTo d ≠ []) && (decide (port ≠ old) || decide (s.wf a 18 1 = 1))
    let s1 := s.setW a (BitVec.ofNat 64 (n + if busy then 2 ^ 18 else 0))
    if busy ∧ s.wf a 18 1 = 0 then { s1 with oldPort := tset 0 s1.oldPort d (old + 1) } else s1

/-- RIDX: none where it would move backwards or beyond WIDX. -/
def State.storeRidx (s : State) (q : Nat) (v : Nat) : Option State :=
  let a := brbQueueAt q 1
  let old := s.wf a 32 32
  let w := s.wf a 0 32
  if (w + 2 ^ 32 - old) % 2 ^ 32 < (v + 2 ^ 32 - old) % 2 ^ 32 then none else some (s.setWf a 32 32 v)

/-- QPOOLMIN and QPOOLCAP of a request queue. -/
def State.storeReqLimit (s : State) (q : Nat) (v : Word) : Option State :=
  let sum := sumBelow (fun k => if k = q then bitsOf v.toNat 0 16 else s.wf (brbQueueAt k 2) 0 16) 64
  if 4096 < sum then none else some (s.setWf (brbQueueAt q 2) 0 32 (bitsOf v.toNat 0 32))

def State.storeReq (s : State) (q w : Nat) (v : Word) : Option State :=
  let a := brbQueueAt q w
  let slog := bitsOf v.toNat 5 4
  if w = 0 then
    let ok := v.toNat.testBit 0 && decide (1 ≤ slog) && decide (slog ≤ 12)
    some (s.setW a (BitVec.ofNat 64 (pack [(1, ok.toNat), (8, bitsOf v.toNat 1 8), (3, 0), (40, bitsOf v.toNat 12 40)])))
  else if w = 1 then s.storeRidx q (bitsOf v.toNat 32 32)
  else if w = 2 then s.storeReqLimit q v
  else if w = 3 then some (s.putMasked a 0x1FFF v)
  else some s

/-! ## Launch queues and tasks (R309 to R316, R327) -/

/-- The pool of task entries: entries held and minimum of every queue. -/
def State.workUse (s : State) : List (Nat × Nat) := (List.range 256).map fun q => (s.qUsed q, s.wf (crbAt (0x4000 + 8 * q)) 0 16)

/-- Whether the work pool grants queue q one more entry. -/
def State.workGrants (s : State) (q : Nat) : Bool :=
  let a := crbAt (0x4000 + 8 * q)
  poolGrants 1024 s.workUse (s.qUsed q) (s.wf a 0 16) (s.wf a 16 16)

def State.storeQpool (s : State) (q : Nat) (v : Word) : Option State :=
  let sum := sumBelow (fun k => if k = q then bitsOf v.toNat 0 16 else s.wf (crbAt (0x4000 + 8 * k)) 0 16) 256
  if 1024 < sum then none else some (s.putMasked (crbAt (0x4000 + 8 * q)) (2 ^ 32 - 1) v)

/-- The actors of an image's graph as the 64-byte set ACTS. -/
def actorSet (n : Nat) : Nat := 2 ^ n - 1

/-- A timeline handle that a task of a partition may name: of this package and of the partition. -/
def handleOk (h p : Nat) : Bool :=
  decide (h < 2 ^ 22) && decide (bitsOf h 12 10 = Config.pkgId.toNat) && decide (bitsOf h 0 12 / 256 = p)

/-- The record of a task is refused (R312, R313). A version whose entry names no accepted image is not valid (log entry 137). -/
def State.recRefused (s : State) (q : Nat) (t : Task) : Bool :=
  let i := t.image
  let cur := decide (s.wf (imageAt i 0) 16 16 = t.ver) && decide (t.ver ≠ 0)
  let old := decide (s.wf (imageAt i 0) 32 16 = t.ver) && decide (t.ver ≠ 0)
  let decl := if cur then s.imageDecl i else s.imageDecl (1024 + i)
  let sets := match decl with
    | some d => d.graph.rates.length
    | none => 0
  let actors := match decl with
    | some d => d.graph.actors.length
    | none => 0
  let waits := (List.range 4).map fun k => t.f (0x60 + 16 * k) 8
  let wsets := (List.range 4).map fun k => (t.f (0xC0 + 16 * k) 8, t.f (0xC8 + 16 * k) 4, t.f (0xCC + 16 * k) 1, t.f (0xCD + 16 * k) 3)
  let dep := t.f 0xA0 4
  let none64 := 2 ^ 64 - 1
  let layout := decide (bitsOf (t.f 0 2) 1 7 ≠ 0) || decide (t.f 1 1 ≠ 1) || decide (8 ≤ t.f 3 1) || decide (4 ≤ t.f 4 4) ||
    decide (2 ^ 57 ≤ t.f 0x10 8) || decide (bitsOf dep 13 3 ≠ 0) || wsets.any fun x => decide (x.2.2.2 ≠ 0)
  let version := decide (1024 ≤ i) || decide (s.wf (imageAt i 0) 0 1 = 0) || !(cur || old) || decl.isNone
  let graph := if t.service then
      decide (t.f 3 1 ≠ 0) || decide (t.f 0xA4 4 ≠ 0) || decide (256 ≤ t.f 0x20 2) || decide (t.f 0x22 62 ≠ 0)
    else decide (sets ≤ t.f 3 1) || decide (t.f 0xA4 4 = 0) || decide (t.f 0x20 64 ≠ actorSet actors)
  let handles := (waits ++ [t.f 0xA8 8]).any fun h => decide (h ≠ none64) && !handleOk h t.part
  let bound := match t.dep with
    | some d => decide (tget 0 s.depTask d ≠ 0)
    | none => false
  let wset := wsets.any fun x => decide (x.2.1 ≠ 0) && (decide (64 ≤ x.2.2.1) || !s.rShd t.part x.2.2.1 ||
    s.rSink t.part x.2.2.1 || decide (targetOf x.1 ≠ .host) || decide (targetOf (x.1 + 65536 * x.2.1 - 1) ≠ .host))
  layout || decide (t.part ≠ s.wf (queueAt q 0) 8 4) || version || decide (t.f 0x0C 4 = 0) || graph || handles || bound || wset

/-- A dependence counter at zero makes its task ready. -/
def State.depReady (s : State) (d : Nat) : State :=
  let id := tget 0 s.depTask d
  if id = 0 then s else s.setTasks fun t => if t.id = id then { t with ready := true } else t

/-- DEPSET's effect: the counter, UNDER cleared, a value of 0 makes the task ready (R211, R315). -/
def State.depSet (s : State) (d : Nat) (v : BitVec 32) : State :=
  let s1 := { s with deps := tset 0 s.deps d v }
  let id := tget 0 s.depTask d
  let s2 := match s1.tasks.find? fun t => decide (t.id = id) with
    | some t => s1.setWf (queueAt t.queue 3) 0 1 0
    | none => s1
  if v = 0 then s2.depReady d else s2

/-- The record at index i of queue q enters the work pool as a task (R307, R315). -/
def State.createTask (s : State) (q i : Nat) : State :=
  let slot := i % 2 ^ s.wf (queueAt q 0) 1 4
  let a := s.wf (queueAt q 1) 8 44 * 256 + 256 * slot
  let n := s.taskSerial + 1
  let t : Task := ⟨n, q, s.bytes (memKey a) 256, false, true, [], false, none, false, false, []⟩
  let bad := s.recRefused q t
  let waits := if bad then [] else
    ((List.range 4).map fun k => (t.f (0x60 + 16 * k) 8, BitVec.ofNat 64 (t.f (0x68 + 16 * k) 8))).filter fun x =>
      decide (x.1 ≠ 2 ^ 64 - 1) && !reached (s.counter (x.1 % 4096)) x.2
  let t1 := { t with refused := bad
                     ready := !bad && t.dep.isNone
                     waits := waits.map fun x => (x.1 % 4096, x.2)
                     gens := t.wset.map fun x => s.rGen t.part x.2 }
  let s1 := { s with taskSerial := n
                     tasks := s.tasks ++ [t1]
                     qread := addNew q s.qread }
  if bad then s1.setWf (queueAt q 3) 1 1 1
  else
    let s2 := s1.bumpRefs t1 true
    match t1.dep with
    | some d => ({ s2 with depTask := tset 0 s2.depTask d n }).depSet d (BitVec.ofNat 32 (bitsOf (t1.f 0xA0 4) 16 16))
    | none => s2

/-- A store to CONS: moving it past one record reads that record; a pool that refuses leaves CONS unchanged (R310). -/
def State.storeCons (s : State) (q v : Nat) : State :=
  let a := queueAt q 2
  let i := s.wf a 0 32
  if s.wf (queueAt q 0) 0 1 = 1 ∧ v = (i + 1) % 2 ^ 32 then
    if s.workGrants q then (s.createTask q i).setWf a 0 32 v
    else s.bumpW (queueAt q 3) 32 16 1
  else s.setWf a 0 32 v

def State.storeQueue (s : State) (q w : Nat) (v : Word) : State :=
  let a := queueAt q w
  let slog := bitsOf v.toNat 1 4
  if q = 255 then s
  else if w = 0 then
    let ok := v.toNat.testBit 0 && decide (1 ≤ slog) && decide (slog ≤ 12)
    s.setW a (BitVec.ofNat 64 (ok.toNat + 2 * bitsOf v.toNat 1 11))
  else if w = 1 then s.putMasked a (2 ^ 52 - 2 ^ 8) v
  else if w = 2 then s.storeCons q (v.toNat % 2 ^ 32)
  else s.w1c a 3 v

/-! ## The image table (R311) -/

/-- An edit of a version: the first of the outcomes of R311 that applies; none where the thread freezes. CURREFS counts the
tasks of the version that is then current. -/
def State.imageEdit (s : State) (i ver pa : Nat) : Option State :=
  let a := imageAt i 0
  let cur := s.wf a 16 16
  let old := s.wf a 32 16
  let put := fun (s : State) => ((s.setWf a 16 16 ver).setW (imageAt i 1) (BitVec.ofNat 64 (pa % 2 ^ 52))).setWf (imageAt i 3) 0 16
    (s.versionTasks i ver)
  if s.wf a 1 1 = 0 then some (put s)
  else if ver = cur ∨ (ver = old ∧ old ≠ 0) ∨ s.wf (imageAt i 3) 16 16 ≠ 0 then none
  else
    let s1 := (s.setWf a 32 16 cur).setW (imageAt i 2) (s.w (imageAt i 1))
    let refs := s1.wf (imageAt i 3) 0 16
    let s2 := s1.setWf (imageAt i 3) 16 16 refs
    some ((put s2).setWf a 1 1 0)

def State.storeImage (s : State) (i w : Nat) (v : Word) : Option State :=
  let a := imageAt i 0
  let n := v.toNat
  if w = 0 then
    let s1 := s.setWf a 0 1 (bitsOf n 0 1)
    let ver := bitsOf n 16 16
    let staged := tget 0 s.stagedPa i
    if ver = s.wf a 16 16 ∧ staged = 0 then some s1
    else
      let pa := if staged = 0 then s.wf (imageAt i 1) 0 52 else staged - 1
      (s.imageEdit i ver pa).map fun s2 => { s2.setWf a 0 1 (bitsOf n 0 1) with stagedPa := tset 0 s2.stagedPa i 0 }
  else if w = 1 then
    if s.wf a 1 1 = 1 then some { s with stagedPa := tset 0 s.stagedPa i (n % 2 ^ 52 + 1) }
    else some (s.putMasked (imageAt i 1) (2 ^ 52 - 1) v)
  else if w = 3 then some (s.setWf (imageAt i 3) 32 4 (bitsOf n 32 4))
  else some s

/-! ## The cellar block (R308) -/

/-- ENDR: a held final retirement goes on once an entry is free (R320). -/
def State.storeEndr (s : State) (v : Nat) : State := s.setWf (crbAt 0x6008) 0 32 (v % 2 ^ 32)

/-- A write to KICK(q). -/
def State.kick (s : State) (q : Nat) : State := if q < 255 then s.setKick q else s

/-- A kick by the host: a clear of the same cycle leaves the bit set (R214). -/
def State.hostKick (s : State) (q : Nat) : State :=
  if q < 255 then { s.setKick q with kicked := addNew q s.kicked } else s

def State.storeCrb (s : State) (off : Nat) (v : Word) : Option State :=
  if off = 8 then some (s.putMasked (crbAt 8) (2 ^ 32 - 1) v)
  else if 0x1000 ≤ off ∧ off < 0x1800 then some (s.kick ((off - 0x1000) / 8))
  else if 0x2000 ≤ off ∧ off < 0x4000 then some (s.storeQueue ((off - 0x2000) / 32) (off % 32 / 8) v)
  else if 0x4000 ≤ off ∧ off < 0x4800 then s.storeQpool ((off - 0x4000) / 8) v
  else if off = 0x6008 then some (s.storeEndr v.toNat)
  else if off = 0x9088 then some (s.setWf (crbAt 0x9088) 0 32 (v.toNat % 2 ^ 32))
  else if 0x10000 ≤ off ∧ off < 0x20000 then s.storeImage ((off - 0x10000) / 64) (off % 64 / 8) v
  else if 0x100000 ≤ off then none
  else some s

/-! ## Any register -/

/-- A store to the register that an address `pa` names, by a thread `t`. None: the thread freezes with PROTECT. -/
def State.wregStore (s : State) (t pa : Nat) (v : Word) (w : WReg) : Option State :=
  match w with
  | .range p n w => s.storeRange p n w v
  | .prb p off => s.storePrb p off v
  | .chain p e w => some (if w = 3 then s.storeChainCtl (16 * p + e) v else s)
  | .window p n w => s.storeWindow p n w v
  | .mat _ _ => some (s.putMasked pa 0x00FFFFFF00FFFFFF v)
  | .hcb c off => s.storeHcb t c off v
  | .twb _ _ => some s
  | .pool _ _ _ => none
  | .trb off => some (s.storeTrb off v)
  | .brbPort _ _ => some s
  | .brbRoute d => some (s.storeRoute d v)
  | .brbQueue q w => s.storeReq q w v
  | .crb off => s.storeCrb off v
  | .none => some s

/-- A store of 64 bits to the window by a thread, its privilege checked (R42); none where the thread freezes with PROTECT. -/
def State.regStore (s : State) (t pa : Nat) (v : Word) : Option State := s.wregStore t pa v (wreg pa)

/-- The completion word of a task is written at its CMPL, its serial in bytes 8 to 11: the task's entry is free, and a task
that never started has ended (R321, R327). -/
def State.taskCompleted (s : State) (pa serial : Nat) : State :=
  match s.tasks.find? fun t => decide (t.f 0xB8 8 = pa) && decide (t.id % 2 ^ 32 = serial) with
  | some t =>
    let s1 := s.releaseTask t.id
    { s1 with tasks := s1.tasks.filter fun x => decide (x.id ≠ t.id) }
  | none => s

end Sys2Proof.Machine
end

