-- ==== Sys2Proof/Machine/ArriveOps.lean ====
section
/-! DEFINITION. What arrives from other packages: ordered lines and their way onward, runoff blocks, request records, atomics,
arc records, lane repair (R241, R249, R262 to R264, R285, R297, R353, R357 to R366, R378). A package and a partition number in
a header name the partition that the traffic enters (log entry 30). -/

namespace Sys2Proof.Machine

/-- Answers that leave: an acknowledgement, a denial with its cause, RETRY_LATER, an old value. -/
def State.ackOut (s : State) (src seq : Nat) : State := s.out [10, src, seq]
def State.denyOut (s : State) (src seq cause : Nat) : State := s.out [9, src, seq, cause]

/-- An access of the host that is answered with Completer Abort, and counted (R285; log entry 114). -/
def State.hostAbort (s : State) (link p pa : Nat) : State :=
  { s.out [18, link, p, pa] with hostAborts := s.hostAborts + 1 }

/-- Whether a master of kind 7 may use a local address for a partition (R284, R285). -/
def State.remoteRight (s : State) (p pa right : Nat) : Bool :=
  match matTarget pa with
  | some t => s.matRight t p 7 right
  | none => true

/-! ## Arcs (R261 to R264) -/

/-- An arc of a partition's running graph, for the end in this package. -/
def State.findArc (s : State) (p a : Nat) (cons : Bool) : Option ArcDecl :=
  match (s.part p).graph with
  | none => none
  | some g => match g.decl with
    | none => none
    | some d => match d.arcs[a]? with
      | some x => if (if cons then x.consPkg else x.prodPkg) = Config.pkgId.toNat then some x else none
      | none => none

/-- The region of an actor of a partition's graph. -/
def State.regionOfActor (s : State) (p a : Nat) : Option Nat :=
  (s.graphRegions p).find? fun r => decide ((s.region r).actor = a)

/-- Act on the consumer pond of an arc in every tile of its region. -/
def State.onArcPond (s : State) (p a : Nat) (f : Nat → Tile → Tile) : State :=
  match s.findArc p a true with
  | none => s
  | some x => match s.regionOfActor p x.cons with
    | none => s
    | some r => s.mapTiles ((s.region r).tilesOf r) (f x.consPond)

/-- A line of an arc that passed its checks lands in the consumer slot (R262); with no bytes it is a sluice marker. The
stamp is the one the consumer's pond expects (log entry 31). A slot that is not EMPTY takes none: the producer is answered. -/
def State.arcArrive (s : State) (l : LineIn) (a line : Nat) (v : Nat) : State :=
  match s.findArc l.part a true with
  | none => s
  | some x =>
    let t := ((s.regionOfActor l.part x.cons).map regionTile).getD 0
    let N := s.tile t
    let q := N.pond x.consPond
    let m := N.slot x.consPond q.ww.toNat
    let r := (s.regionOfTile t).getD 0
    let c := { s.frameCtx r t with cyc := (s.region r).rcyc }
    if smState m = 2 ∨ (smState m = 1 ∧ (smClosed m ∨ line = 0)) then s.out [11, l.src, l.seq, a]
    else if l.len = 0 then
      let N1 := N.setSlot x.consPond q.ww.toNat
        (smMake 1 true (smPois m) true (v % 8) q.ww.toNat (peSwz q.entry) (peFmt q.entry))
      (s.setTile t (N1.setWork x.consPond (q.ww + 1))).ackOut l.src l.seq
    else
      let o := N.writeSlot c x.consPond q.ww.toNat line (N.ownTarget x.consPond) ⟨BitVec.ofNat 512 v, 0, 0⟩ 0 skPond
      let N1 := o.tile.setPond x.consPond { o.tile.pond x.consPond with mon := q.mon }
      (s.setTile t (if o.closed then N1.setWork x.consPond (q.ww + 1) else N1)).ackOut l.src l.seq

/-- The route of an arc that leaves this package: its region and place in the list. -/
def State.arcRoute (s : State) (p a : Nat) : Option (Nat × Route) :=
  (s.allRoutes p).find? fun e => decide (e.2.path = 3) && decide (e.2.peer = a)

/-- A denial for an arc line reaches the producing region (R262, R364). -/
def State.arcDenied (s : State) (p a cause : Nat) : State :=
  match s.arcRoute p a with
  | none => s
  | some (r, x) =>
    let o := s.frameOrigin r x.prod 5 cause
    s.freezeRegion r x.prod { cause := cause, origin := o, sink := o }

/-- A line of an arc is given up at its producer: the commit of the firing is withheld (R359). -/
def State.arcGone (s : State) (p a : Nat) : State :=
  let commit := fun (w : PWrite) => decide (w.by_ = .arc p a) && w.retryAt.isSome && match w.kind with
    | .arc 2 _ => true
    | _ => false
  let waits := s.writes.any commit
  { s with writes := s.writes.filter fun w => !commit w
           arcLost := if waits then s.arcLost else addNew (arcKey p a) s.arcLost }

/-! ## The checks of an ordered line (R249, R357 to R359) -/

/-- Tag failures of a line so far. -/
def State.tagCount (s : State) (src seq : Nat) : Nat :=
  match s.tagFails.find? fun x => decide (x.1 = src) && decide (x.2.1 = seq) with
  | some x => x.2.2
  | none => 0

/-- A tag failure: counted, replayed end to end; a third one gives an arc line up at its consumer. -/
def State.tagFailure (s : State) (l : LineIn) : State :=
  let n := s.tagCount l.src l.seq + 1
  let s1 := s.bumpW (brbPortAt l.port 1) 32 16 1
  let s2 := { s1 with tagFails := (l.src, l.seq, n) :: s1.tagFails.filter fun x =>
                        !(decide (x.1 = l.src) && decide (x.2.1 = l.seq)) }
  if n < 3 then s2.out [8, l.src, l.seq]
  else match l.arc with
    | some (a, _) => { s2 with arcBad := addNew (arcKey l.part a) s2.arcBad }
    | none => s2

/-- The lanes that a port still uses. -/
def State.laneIn (s : State) (i lane : Nat) : Bool := decide (s.wf (brbPortAt i 0) (1 + lane) 1 = 1)

/-- A CRC error at a port: counted unless its lane has been removed (R365, R366). -/
def State.noteCrc (s : State) (i lane : Nat) : State :=
  if s.laneIn i lane then
    let P := tget Port.zero s.ports i
    let recent := (s.now :: tget [] P.errs lane).filter fun n => decide (s.now < n + 1100000)
    { s with ports := tset Port.zero s.ports i { P with errs := tset [] P.errs lane recent } }.bumpW (brbPortAt i 1) 0 16 1
  else s

/-- A CRC error of an ordered line is answered with a replay (R359). -/
def State.crcFailure (s : State) (l : LineIn) : State := (s.noteCrc l.port l.lane).out [14, l.port]

/-- Eight CRC errors of one lane within 1,100,000 cycles. -/
def State.laneBad (s : State) (i lane : Nat) : Bool :=
  decide (8 ≤ ((tget [] (tget Port.zero s.ports i).errs lane).filter fun n => decide (s.now < n + 1100000)).length)

/-- Put an input back until the next cycle: it is held by link credit. -/
def State.defer (s : State) (i : Turn) : State := { s with inbox := s.inbox ++ [(s.now + 1, i)] }

/-- Whether an entry is of a line's source, destination and channel. -/
def RxWait.isWith (x : RxWait) (l : LineIn) : Bool := decide (x.src = l.src) && decide (x.dst = l.dst) && decide (x.vc = l.vc)

/-- Whether an entry is a line's own. -/
def RxWait.isOf (x : RxWait) (l : LineIn) : Bool := x.isWith l && decide (x.seq = l.seq)

/-- Whether a gateway that holds a line has counted it. -/
def State.rxCounted (s : State) (l : LineIn) : Bool := s.rx.any fun x => x.isOf l && x.counted

/-- A line has not passed: later ones of its source, destination and channel wait for it, up to 10 ms from now on. -/
def State.rxNote (s : State) (l : LineIn) (counted : Bool) : State :=
  let at_ := ((s.rx.find? fun x => x.isOf l).map (·.at_)).getD s.now
  { s with rx := s.rx.filter (fun x => !x.isOf l) ++ [⟨l.src, l.dst, l.vc, l.seq, l.arc.map (·.1), at_, counted⟩] }

/-- A line is done with: none waits for it any more. -/
def State.rxDone (s : State) (l : LineIn) : State := { s with rx := s.rx.filter fun x => !x.isOf l }

/-- The next sequence number of a line's source and channel under a key. -/
def State.rxNext (s : State) (l : LineIn) (key : BitVec 768) : Nat :=
  (((tget [] s.rxSeq (4 * l.src + l.vc)).find? fun e => decide (e.1 = key)).map (·.2)).getD 0

/-- A line has passed under a key: a replay of it is never performed again. -/
def State.rxPass (s : State) (l : LineIn) (key : BitVec 768) : State :=
  let k := 4 * l.src + l.vc
  let others := ((tget [] s.rxSeq k).filter fun e => decide (e.1 ≠ key)).take 1
  { s.rxDone l with rxSeq := tset [] s.rxSeq k ((key, max (s.rxNext l key) (l.seq + 1)) :: others) }

/-- A line that waits in its place. -/
def State.rxHold (s : State) (l : LineIn) (again : Turn) : State := (s.rxNote l (s.rxCounted l)).defer again

/-- Whether an earlier line of the same source, destination and channel still waits: one not seen again for 10 ms holds
nothing back. -/
def State.rxBlocked (s : State) (l : LineIn) : Bool :=
  s.rx.any fun x => x.isWith l && decide (x.seq < l.seq) && decide (s.now < x.at_ + Config.tenMs)

/-- A line's address in its 128 bytes, as its tag and its encryption take it. -/
def lineBase (l : LineIn) : Nat := l.addr / 128 * 128

/-- The key under which a line's tag passes: of the slot that this package's route entry for the source names (R358). -/
def State.lineKey (s : State) (l : LineIn) : Option (BitVec 768) :=
  s.tagKey (s.routeSlot l.src) l.src l.seq (lineBase l) l.data l.tag

/-- What a line decrypts to under a key. -/
def linePlain (l : LineIn) (key : BitVec 768) : Nat := (Config.xtsDecrypt key (lineBase l) l.data).toNat

/-- A tag failure leaves the line waiting, until its third, with which it is given up. -/
def State.tagWait (s : State) (l : LineIn) : State :=
  if s.tagCount l.src l.seq + 1 < 3 then (s.tagFailure l).rxNote l false else (s.tagFailure l).rxDone l

/-- A line for another package leaves by this package's own route entry, on the next channel, unchanged; it waits where its
port or its route does. One without a route is dropped like one at the end of its channels (R357, R358; log entry 134). -/
def State.forward (s : State) (l : LineIn) : State :=
  let i := s.routePort l.dst
  if s.rxBlocked l then s.rxHold l (.line l)
  else if l.vc = 3 ∨ !s.routeValid l.dst then (s.rxDone l).bumpW (brbPortAt l.port 1) 48 16 1
  else if s.routeHeld l.dst ∨ !s.portUp i then s.rxHold l (.line l)
  else (s.rxDone l).out ([7, i, l.vc + 1, l.src, l.part, l.owner, l.dst, l.seq, l.addr, l.len, l.data.toNat, l.tag.toNat])

/-- The checks of every ordered line in turn: CRC, destination, replay, order, tag. A key where it passes; else it has been
dealt with for now. -/
def State.checkLine (s : State) (l : LineIn) (again : Turn) : State × Option (BitVec 768) :=
  if !l.crcOk then ((s.crcFailure l).rxNote l false, none)
  else if l.dst ≠ Config.pkgId.toNat then (s.forward l, none)
  else match s.lineKey l with
    | some key =>
      if l.seq < s.rxNext l key then (s.ackOut l.src l.seq, none)
      else if s.rxBlocked l then (s.rxHold l again, none)
      else (s, some key)
    | none => if s.rxBlocked l then (s.rxHold l again, none) else (s.tagWait l, none)

/-- An admitted line asks to enter its partition. -/
def State.lineGate (s : State) (l : LineIn) : State × Gate := s.gateway l.part l.owner ((l.len + 63) / 64) (s.rxCounted l)

/-- A line that the gateway holds waits; its refusal has been counted. -/
def State.gateHold (s : State) (l : LineIn) (again : Turn) : State := (s.rxNote l true).defer again

/-! ## Ordered writes -/

/-- What the tag area takes of a line (R358). -/
def State.setCipher (s : State) (a : Nat) (c : Cipher) : State := { s with cipher := tset none s.cipher (a / 128) (some c) }

/-- A write of another package is performed at its home here, from the line that its key opens; the line's cipher flag is
set. -/
def State.remoteWrite (s : State) (l : LineIn) (key : BitVec 768) : State :=
  match remoteTarget l.addr with
  | .hbm a =>
    let v := s.remapVote (chanOf a)
    if !v.2 then v.1.denyOut l.src l.seq 0x06
    else
      let bs := natBytes (linePlain l key / 2 ^ (8 * (l.addr % 128))) l.len
      ((v.1.storeBytes (.remote l.src) a bs).setCipher a
        ⟨s.routeSlot l.src, l.src, l.seq, l.tag, l.data⟩).ackOut l.src l.seq
  | _ => s.denyOut l.src l.seq 0x06

/-- An ordered line arrives. -/
def State.lineArrive (s : State) (l : LineIn) : State :=
  let c := s.checkLine l (.line l)
  match c.2 with
  | none => c.1
  | some key =>
    if l.arc.isNone ∧ !c.1.homeServes l.addr then c.1.rxHold l (.line l)
    else
      let g := c.1.lineGate l
      match g.2, l.arc with
      | .held, _ => g.1.gateHold l (.line l)
      | .denied, some (a, _) => (g.1.rxPass l key).out [9, l.src, a, 0x42]
      | .denied, none => (g.1.rxPass l key).denyOut l.src l.seq 0x06
      | .admitted, some (a, line) => (g.1.rxPass l key).arcArrive l a line (linePlain l key)
      | .admitted, none =>
        if !g.1.remoteRight l.part l.addr 1 then (g.1.rxPass l key).denyOut l.src l.seq 0x06
        else (g.1.rxPass l key).remoteWrite l key

/-- Whether a line of an arc before a commit has not passed: it was given up on the way (R262, R359). -/
def State.arcOpen (s : State) (l : LineIn) : Bool :=
  s.rx.any fun x => x.isWith l && decide (x.seq < l.seq) && decide (x.arc = l.arc.map (·.1))

/-- A commit record follows the lines of a firing: what they wrote becomes FULL, unless a line was given up. -/
def State.arcCommit (s : State) (p a : Nat) : State :=
  if s.arcBad.any (· == arcKey p a) then s else s.onArcPond p a fun q T => T.commitWrites q

/-- An abort record: staged slots of the killed firing return to EMPTY. -/
def State.arcAbort (s : State) (p a : Nat) : State :=
  { s with arcBad := s.arcBad.filter (· ≠ arcKey p a) }.onArcPond p a fun q T => T.dropStaged q

/-- A commit or abort record arrives in its place in the order of its channel (R262, R263). -/
def State.arcRecord (s : State) (l : LineIn) (abort : Bool) : State :=
  let c := s.checkLine l (.arcRec l abort)
  match c.2, l.arc with
  | some key, some (a, _) =>
    let s1 := (c.1.rxPass l key).ackOut l.src l.seq
    if abort then
      { s1 with rx := s1.rx.filter fun x => !(x.isWith l && decide (x.seq < l.seq) && decide (x.arc = some a)) }.arcAbort l.part a
    else if s1.arcOpen l then s1
    else s1.arcCommit l.part a
  | some key, none => c.1.rxPass l key
  | none, _ => c.1

/-- A credit record gives the consumer's new read index (R264). -/
def State.creditArrive (s : State) (l : LineIn) : State :=
  let c := s.checkLine l (.credit l)
  match c.2, l.arc with
  | some key, some (a, _) =>
    let s1 := (c.1.rxPass l key).ackOut l.src l.seq
    { s1 with credits := tset 0 s1.credits (arcKey l.part a) (BitVec.ofNat 64 (linePlain l key % 2 ^ 32)) }
  | some key, none => c.1.rxPass l key
  | none, _ => c.1

/-! ## Runoff blocks (R360, R361) -/

/-- The valid window that holds a block, with the block's number. -/
def State.windowOf (s : State) (a : Nat) : Option (Nat × Nat × Nat) :=
  (List.range 128).findSome? fun k =>
    let p := k / 8
    let n := k % 8
    let b := s.wnBase p n
    if s.wnValid p n ∧ b ≤ a ∧ a < b + 512 * s.wnBlocks p n then some (p, n, (a - b) / 512) else none

def State.runLost (s : State) (port : Option Nat) : State :=
  match port with
  | some i => s.bumpW (brbPortAt i 2) 0 32 1
  | none => s

/-- An intact runoff block comes to its window: from another package by a port, with its owner identifier and what the tag
area takes of its lines, or from an engine of partition `own` of this package. The window's partition asks its gateway and
the access table (R284, R361, R364). -/
def State.runoffPlace (s : State) (m : Master) (port own : Option Nat) (owner a : Nat) (bs : List Byte) (cs : List Cipher) : State :=
  match s.windowOf a with
  | none => s.runLost port
  | some (p, n, b) =>
    let w := windowAt p n 3
    let W := s.runWin p n
    let g := if own = some p then (s, .admitted) else s.gateway p owner 8 false
    let right := match own with
      | some q => g.1.matRight (chanOf a) q 4 1
      | none => g.1.remoteRight p a 1
    let v := g.1.remapVote (chanOf a)
    if !g.1.wnOpen p n || !g.2.ok || !right || W.filled.any (· == b) then g.1.bumpW w 16 16 1
    else if !v.2 then v.1.bumpW w 16 16 1
    else
      let at_ := v.1.wnBase p n + 512 * b
      let s1 := ((List.range cs.length).zip cs).foldl (fun s e => s.setCipher (at_ + 128 * e.1) e.2) (v.1.storeBytes m at_ bs)
      let s2 := (s1.setRunWin p n { W with filled := W.filled ++ [b] }).setWf w 32 17 (s1.wf w 32 17 + 1)
      if s2.wf w 32 17 = s2.wnBlocks p n then s2.closeWindow p n else s2

/-- The key of line i of a block. -/
def State.blockKey (s : State) (b : BlockIn) (i : Nat) (x : RunLine) : Option (BitVec 768) :=
  s.tagKey (s.routeSlot b.src) b.src x.seq (b.addr + 128 * i) x.data x.tag

/-- The lines of a block with their places. -/
def blockPlaces (b : BlockIn) : List (Nat × RunLine) := (List.range 4).zip b.lines

/-- The checks that lines of a block fail are counted at their port (R355, R360). -/
def State.noteBlock (s : State) (b : BlockIn) : State :=
  (blockPlaces b).foldl (fun s e =>
    if !e.2.crcOk then s.noteCrc b.port e.2.lane
    else if (s.blockKey b e.1 e.2).isNone then s.bumpW (brbPortAt b.port 1) 32 16 1
    else s) s

/-- A block for another package: its lines go onward, or are dropped and counted; none waits for a route change, and a port
that carries nothing loses them (R357, R365; log entry 134). -/
def State.forwardBlock (s : State) (b : BlockIn) : State :=
  let i := s.routePort b.dst
  let pass := b.lines.filter (·.crcOk)
  let s1 := b.lines.foldl (fun s x => if x.crcOk then s else s.noteCrc b.port x.lane) s
  if b.vc = 3 ∨ !s.routeValid b.dst then s1.bumpW (brbPortAt b.port 1) 48 16 b.lines.length
  else if !s.portUp i then s1.runLost (some i)
  else s1.out ([7, i, b.vc + 1, b.src, b.part, b.owner, b.dst, b.addr] ++ pass.flatMap fun x => [x.seq, x.data.toNat, x.tag.toNat])

/-- A runoff block arrives from another package. -/
def State.runoffArrive (s : State) (b : BlockIn) : State :=
  if b.dst ≠ Config.pkgId.toNat then s.forwardBlock b
  else
    let a := b.addr % 2 ^ 40
    let ks := (blockPlaces b).filterMap fun e => if e.2.crcOk then s.blockKey b e.1 e.2 else none
    if ks.length ≠ 4 then (s.noteBlock b).runLost (some b.port)
    else if (s.windowOf a).isSome ∧ !s.chanServes a then s.defer (.block b)
    else
      let bs := ((blockPlaces b).zip ks).flatMap fun e => natBytes (Config.xtsDecrypt e.2 (b.addr + 128 * e.1.1) e.1.2.data).toNat 128
      let cs := b.lines.map fun x => (⟨s.routeSlot b.src, b.src, x.seq, x.tag, x.data⟩ : Cipher)
      s.runoffPlace (.remote b.src) (some b.port) none b.owner a bs cs

/-! ## Request records (R363) -/

/-- Entries and minimum of every request queue. -/
def State.reqUse (s : State) : List (Nat × Nat) := (List.range 64).map fun q =>
  ((s.wf (brbQueueAt q 1) 0 32 + 2 ^ 32 - s.wf (brbQueueAt q 1) 32 32) % 2 ^ 32, s.wf (brbQueueAt q 2) 0 16)

/-- The fate of a request record: placed, answered RETRY_LATER, held by link credit, denied. -/
inductive Placed where
  | placed
  | retry
  | held
  | denied
  deriving DecidableEq, Repr

/-- Place a record in a request queue's ring, or answer RETRY_LATER, or deny it, or hold it for the gateway's allowance or the
ring's channel (R289, R363, R364); `owner` is none for a record of the queue's own partition, and `again` says that the
gateway has counted it. -/
def State.placeRecord (s : State) (q src part : Nat) (owner : Option Nat) (again : Bool) (payload : List Byte) : State × Placed :=
  let c := s.w (brbQueueAt q 0)
  let p := bitsOf c.toNat 1 4
  let slots := 2 ^ bitsOf c.toNat 5 4
  let w := s.wf (brbQueueAt q 1) 0 32
  let a := bitsOf c.toNat 12 40 * 4096 + 64 * (w % slots)
  let used := (s.reqUse.getD q (0, 0)).1
  if c.toNat % 2 = 0 then (s, .denied)
  else if !s.chanServes a then (s, .held)
  else
    let g := match owner with
      | some o => s.gateway p o 1 again
      | none => (s, .admitted)
    match g.2 with
    | .denied => (g.1, .denied)
    | .held => (g.1, .held)
    | .admitted =>
      let mn := s.wf (brbQueueAt q 2) 0 16
      let cap := max (min (s.wf (brbQueueAt q 2) 16 16) slots) mn
      if poolGrants 4096 s.reqUse used mn cap && decide (used < slots) then
        let v := g.1.remapVote (chanOf a)
        if !v.2 then (v.1, .denied)
        else
        let hdr := pack [(1, 1), (10, src), (4, part), (1, 0), (48, w)]
        let s1 := (v.1.storeBytes .hub (a + 8) payload).storeBytes .hub a (natBytes hdr 8)
        let s2 := s1.setWf (brbQueueAt q 1) 0 32 (w + 1)
        (if s2.wf (brbQueueAt q 3) 12 1 = 1 then s2.signal (s2.wf (brbQueueAt q 3) 0 12) true 1 else s2, .placed)
      else (g.1.bumpW (brbQueueAt q 2) 48 16 1, .retry)

/-- A request record from another package is placed and acknowledged, or answered RETRY_LATER, or denied; without allowance
it is held (R359, R363, R364). -/
def State.recordArrive (s : State) (l : LineIn) : State :=
  let again := Turn.request l
  let c := s.checkLine l again
  match c.2, remoteTarget l.addr with
  | none, _ => c.1
  | some key, .request q =>
    let r := c.1.placeRecord q l.src l.part (some l.owner) (c.1.rxCounted l)
      (natBytes (linePlain l key / 2 ^ (8 * (l.addr % 128) + 64)) 56)
    match r.2 with
    | .placed => (r.1.rxPass l key).ackOut l.src l.seq
    | .retry => (r.1.rxPass l key).out [12, l.src, l.seq]
    | .held => r.1.gateHold l again
    | .denied => (r.1.rxPass l key).denyOut l.src l.seq 0x06
  | some key, _ => (c.1.rxPass l key).denyOut l.src l.seq 0x06

/-! ## Atomics of other packages (R241, R353) -/

/-- The operation of an arriving atomic: 0 to 10 as R62, 11 CAS, 12 and 13 TLSIG adv and add. -/
def atomicNew (op w old b expect : Nat) : Nat := if op = 11 then (if old = expect then b else old) else amoNew op w old b

/-- The watchpoint of a partition that a remote atomic matches, with the virtual address: by each of its valid range entries
that holds the target (R353). -/
def State.remoteWatch (s : State) (p pa n : Nat) : Option (Nat × Nat) :=
  (List.range 64).findSome? fun e =>
    let va := s.rBase p e + (pa - s.rLive p e)
    if s.rValid p e ∧ s.rLive p e ≤ pa ∧ va < s.rLimit p e then (s.watchHit p va n).map fun k => (k, va) else none

/-- The die of a local HBM address: its stack's. -/
def hbmDie (a : Nat) : Nat := chanOf a / 96

/-- AUX of a WATCH record (R351). -/
def watchAux (k n src queue : Nat) : Word := BitVec.ofNat 64 (pack [(2, k), (6, 0), (8, min n 255), (16, 0), (10, src), (6, queue)])

/-- Reports of a remote atomic that has applied: one for each partition whose watchpoint it matches. -/
def State.reportWatch (s : State) (src queue a n : Nat) : State :=
  (List.range 16).foldl (fun s p => match s.remoteWatch p a n with
    | none => s
    | some (k, va) => s.latchFreeze (.remote src) p (hbmDie a) 0 false 0
        { cause := 0x30, faddr := BitVec.ofNat 64 va, aux := watchAux k 1 src queue }) s

/-- An admitted atomic at its home, with its operand and the value a CAS expects. -/
def State.remoteAtomic (s : State) (l : LineIn) (queue sz op a operand expect : Nat) : State :=
  let v := s.hbmServe a
  if !v.2 then v.1.denyOut l.src l.seq 0x20
  else
    let n := 2 ^ sz
    let old := v.1.mget a n
    let new := atomicNew op (8 * n) old (operand % 2 ^ (8 * n)) (expect % 2 ^ (8 * n))
    let fails := decide (op = 11) && decide (old ≠ expect % 2 ^ (8 * n))
    let s0 := if fails then v.1 else v.1.storeBytes (.remote l.src) a (natBytes new n)
    let s1 := s0.out [13, l.src, l.seq, old]
    if fails then s1 else s1.reportWatch l.src queue a n

/-- An atomic of another package arrives: its operand stands in the first 16 bytes of its line, the value a CAS expects in the
next 16 (log entry 15). It performs at its home, and may leave reports. -/
def State.atomicArrive (s : State) (l : LineIn) (queue sz op : Nat) : State :=
  let again := Turn.atomic l queue sz op
  let c := s.checkLine l again
  match c.2 with
  | none => c.1
  | some key =>
    let x := linePlain l key
    let signal := decide (op = 12) || decide (op = 13)
    if !signal && !c.1.homeServes l.addr then c.1.rxHold l again
    else
      let g := c.1.lineGate l
      match g.2 with
      | .held => g.1.gateHold l again
      | .denied => (g.1.rxPass l key).denyOut l.src l.seq 0x06
      | .admitted =>
        let s1 := g.1.rxPass l key
        if signal then (s1.signal (l.addr % 4096) (decide (op = 13)) (BitVec.ofNat 64 x)).ackOut l.src l.seq
        else match remoteTarget l.addr with
          | .hbm a =>
            if !s1.remoteRight l.part a 2 then s1.denyOut l.src l.seq 0x06
            else s1.remoteAtomic l queue sz op a (x % 2 ^ 128) (x / 2 ^ 128 % 2 ^ 128)
          | _ => s1.denyOut l.src l.seq 0x06

/-! ## Ports (R355, R365, R366) -/

/-- Send what waits for a port: the replays that were cancelled first, in their order (R365). -/
def State.flushPort (s : State) (i : Nat) : State :=
  let ds := s.writes.foldl (fun l w => match otherPkg w.pa with
    | some d => if s.routePort d = i then addNew d l else l
    | none => l) []
  let again := s.writes.filter fun w => w.sealed_ ≠ [] ∧ w.retryAt.isSome ∧ (otherPkg w.pa).any fun d => decide (s.routePort d = i)
  ds.foldl State.flushLines (again.foldl (fun s w => match otherPkg w.pa with
    | some d => s.sendLine d w
    | none => s) s)

/-- A lane repair starts. -/
def State.repairStart (s : State) (i lane : Nat) : State :=
  if s.wf (brbPortAt i 0) 0 1 = 1 ∧ s.wf (brbPortAt i 0) 9 1 = 0 ∧ s.laneIn i lane ∧ s.laneBad i lane then
    let P := tget Port.zero s.ports i
    { s.setWf (brbPortAt i 0) 9 1 1 with ports := tset Port.zero s.ports i { P with repair := some (lane, s.now) } }
  else s

/-- The port has retrained on the remaining lanes; with fewer than 6 it goes down. -/
def State.repairDone (s : State) (i : Nat) : State :=
  let P := tget Port.zero s.ports i
  match P.repair with
  | none => s
  | some (lane, _) =>
    let s1 := ((s.setWf (brbPortAt i 0) 9 1 0).setWf (brbPortAt i 0) (1 + lane) 1 0).bumpW (brbPortAt i 0) 32 16 1
    let s2 := { s1 with ports := tset Port.zero s1.ports i { P with repair := none, errs := tset [] P.errs lane [] } }
    let left := ((List.range 8).filter fun k => s2.laneIn i k).length
    if left < 6 then (s2.setWf (brbPortAt i 0) 0 1 0).irq irqPort i else s2.flushPort i

end Sys2Proof.Machine
end

