-- ==== Sys2Proof/Machine/CopyOps.lean ====
section
/-! DEFINITION. Copy engines (R193, R244, R246, R281, R285, R298, R303 to R306, R353, R354, R360, R363): reading an entry,
its checks, the pieces of its lines, halting, completing. Chain c is 16 × partition + engine. -/

namespace Sys2Proof.Machine

/-! ## Entries (R303) -/

structure CopyEntry where
  src : Nat
  dst : Nat
  len : Nat
  rows : Nat
  spitch : Nat
  dpitch : Nat
  op : Nat
  zero : Nat
  deriving DecidableEq, Repr

def CopyEntry.ofBytes (bs : List Byte) : CopyEntry :=
  let n := bytesNat bs
  ⟨bitsOf n 64 64, bitsOf n 128 64, bitsOf n 192 32, bitsOf n 224 32, bitsOf n 256 64, bitsOf n 320 64, bitsOf n 384 32,
    bitsOf n 448 64⟩

def CopyEntry.fill (x : CopyEntry) : Bool := decide (x.op = 1)

/-- A field out of range: STATUS 7. -/
def CopyEntry.bad (x : CopyEntry) : Bool :=
  decide (3 ≤ x.op) || decide (x.zero ≠ 0) || decide (x.len = 0) || decide (65536 < x.len) || decide (x.rows = 0) ||
    decide (65536 < x.rows) || decide (65536 < x.len * x.rows)

/-- Where a linked entry stands: a cellar thread links by device physical address, every other thread by virtual address
(R199, R391); none where it has no translation. -/
def State.entryPa (s : State) (p : Nat) (e : ChainEntry) : Option Nat :=
  if e.by_ < 2 then (if targetOf e.va.toNat = .none then none else some e.va.toNat)
  else match s.translate p e.va.toNat with
    | some x => if targetOf x.pa = .none then none else some (s.placeRead p e.va.toNat x)
    | none => none

/-! ## Pieces of a line (R244, R281, R304) -/

/-- Bytes from an address up to the end of its line of `unit` bytes, at most n. -/
def lineRest (a unit n : Nat) : Nat := min n (unit - a % unit)

/-- The lines of a row: destination offset and length, each within one line of the destination, whose length its address
gives. -/
def rowLines (dst : Nat) (unit : Nat → Nat) : Nat → Nat → Nat → List (Nat × Nat)
  | 0, _, _ => []
  | fuel + 1, off, left =>
    if left = 0 then []
    else
      let n := lineRest (dst + off) (unit (dst + off)) left
      (off, n) :: rowLines dst unit fuel (off + n) (left - n)

/-- The lines of an entry: source address, destination address, length. -/
def CopyEntry.lines (x : CopyEntry) (unit : Nat → Nat) : List (Nat × Nat × Nat) :=
  (List.range x.rows).flatMap fun r =>
    let s := x.src + r * x.spitch
    let d := x.dst + r * x.dpitch
    (rowLines d unit x.len 0 x.len).map fun l => ((s + l.1) % 2 ^ 64, (d + l.1) % 2 ^ 64, l.2)

/-- Why an entry ends without completing: its STATUS (R305). -/
def stPROTECT : Nat := 2
def stXLATE : Nat := 3
def stUE : Nat := 4
def stCONFLICT : Nat := 5
def stLOOP : Nat := 6
def stRANGE : Nat := 7

/-- Whether a transfer to an address of a range entry is staged: it goes to the shadow (R304). -/
def State.stages (s : State) (p n : Nat) : Bool := s.rShd p n && !s.rSink p n && decide (s.rShst p n ≤ 1)

/-- Where an engine reads an address: SNAPGEN's copy, the live one, for a snapshot copy while SHST is 2 (R304). Where it
writes: the shadow of a staged transfer, the copy-on-write copy, or the live copy. -/
def State.enginePa (s : State) (p va : Nat) (x : Xlat) (write snapshot : Bool) : Nat :=
  match x.entry with
  | none => x.pa
  | some n =>
    if write then (if s.stages p n then s.rShadow p n + (va - s.rBase p n) else s.writePa p va x)
    else if snapshot ∧ s.rShst p n = 2 then x.pa else s.placeRead p va x

/-- Whether an engine's access has the right in its translation and in the target's MAT for master kind 4 (R284, R285). -/
def State.engineRight (s : State) (p pa : Nat) (x : Xlat) (write : Bool) : Bool :=
  (if write then x.wr else x.rd) && match matTarget pa with
    | some t => s.matRight t p 4 write.toNat
    | none => true

/-- Translate an address for an engine to the place it reaches, with its rights. -/
def State.engineXlat (s : State) (p va : Nat) (write snapshot : Bool) : Except Nat Xlat :=
  if 2 ^ 57 ≤ va then .error stXLATE
  else match s.translate p va with
    | none => .error stXLATE
    | some x =>
      let pa := s.enginePa p va x write snapshot
      if targetOf pa = .none then .error stXLATE
      else if targetOf pa = .window ∨ (!write ∧ noRead pa) then .error stPROTECT
      else if !s.engineRight p pa x write then .error stPROTECT
      else .ok { x with pa := pa }

/-- The pieces that a source line falls into: physical address and length. Two parts join where they follow on one
another in one home. -/
def State.sourceParts (s : State) (p va n : Nat) (snapshot : Bool) : Except Nat (List (Nat × Nat)) :=
  let a := lineRest va 64 n
  match s.engineXlat p va false snapshot with
  | .error e => .error e
  | .ok x =>
    let pa := x.pa
    if a = n then .ok [(pa, n)]
    else match s.engineXlat p (va + a) false snapshot with
      | .error e => .error e
      | .ok y =>
        let pb := y.pa
        if pb = pa + a ∧ x.sameUnit va y (va + a) ∧ homeOf pa = homeOf pb ∧ areaOf pa = areaOf pb then .ok [(pa, n)]
        else .ok [(pa, a), (pb, n - a)]

/-- An engine writes to an address (R283, R304): a staged transfer is marked, a chunk is copied before its first write. -/
def State.engineDest (s : State) (p va : Nat) (x : Xlat) : State × Nat :=
  match x.entry with
  | some n => if s.stages p n then (s.setWf (rangeAt p n 0) 6 2 1, x.pa) else s.placeWrite p va x
  | none => (s, x.pa)

/-- The fill pattern at rising addresses. -/
def fillBytes (pattern a : Nat) : Nat → List Byte
  | 0 => []
  | n + 1 => BitVec.ofNat 8 (bitsOf pattern (8 * (a % 8)) 8) :: fillBytes pattern (a + 1) n

/-! ## Halting and completing (R304 to R306) -/

/-- Whether the engine may read or write an entry where it stands: the right of its translation, which an entry linked by
device physical address has none of, and the MAT's (R285; log entry 99). -/
def State.entryRight (s : State) (p : Nat) (e : ChainEntry) (write : Bool) : Bool :=
  if e.by_ < 2 then s.engineRight p e.va.toNat ⟨e.va.toNat, true, true, true, none, 0⟩ write
  else match s.translate p e.va.toNat with
    | some x => s.engineRight p (if write then s.writePa p e.va.toNat x else s.placeRead p e.va.toNat x) x write
    | none => false

/-- The place of a write into a linked entry, after the copy of its chunk where it needs one (R283). -/
def State.entryPlace (s : State) (p : Nat) (e : ChainEntry) : State × Option Nat :=
  if e.by_ < 2 then (s, s.entryPa p e)
  else match s.translate p e.va.toNat with
    | some x =>
      let r := s.placeWrite p e.va.toNat x
      if targetOf r.2 = .none then (s, none) else (r.1, some r.2)
    | none => (s, none)

/-- Whether a write into a linked entry can be made now: no SNAP holds it at its translation, and the homes that it needs
serve (R248, R289). -/
def State.entryReady (s : State) (p : Nat) (e : ChainEntry) : Bool :=
  if e.by_ < 2 then s.homeServes e.va.toNat
  else match s.translate p e.va.toNat with
    | none => true
    | some x =>
      s.homeServes (s.writePa p e.va.toNat x) && match x.entry with
        | some n => !s.entryHeld p n && s.cowReady p n e.va.toNat
        | none => true

/-- Count an access to a linked entry (R298). -/
def State.countEntry (s : State) (p : Nat) (e : ChainEntry) (pa : Nat) : State :=
  if e.by_ < 2 then s else s.countMig p e.va.toNat pa

/-- Write the STATUS of an entry where it stands: false where it cannot be written, or its home suppresses it. -/
def State.writeStatus (s : State) (c : Nat) (e : ChainEntry) (v : Nat) : State × Bool :=
  if !s.entryRight (c / 16) e true then (s, false)
  else
    let r := s.entryPlace (c / 16) e
    match r.2 with
    | some pa =>
      if (otherPkg pa).isSome ∨ targetOf pa = .window then (s, false)
      else (r.1.countEntry (c / 16) e pa).hubStore (.engine c) (pa + 0x34) (natBytes v 4)
    | none => (s, false)

/-- An entry that fails ends once its STATUS can be written: the chain halts, event 8, the host is interrupted. Lines already
issued still land. -/
def State.endEntry (s : State) (c : Nat) : State :=
  let C := s.chain c
  match C.ending with
  | none => s
  | some status =>
    if C.entries.head?.any fun e => !s.entryReady (c / 16) e then s
    else
      let s1 := match C.entries with
        | e :: _ => (s.writeStatus c e status).1
        | [] => s
      let s2 := s1.setChain c { s1.chain c with
        halted := true
        busy := false
        ending := none
        watch := none
        ctl := BitVec.ofNat 64 (2 * (status - 1)) }
      (s2.raiseP (c / 16) 8).irq irqChain c

/-- An entry fails; the first failure gives its STATUS. -/
def State.haltChain (s : State) (c status : Nat) : State :=
  let C := s.chain c
  (s.setChain c { C with busy := true, ending := some (C.ending.getD status) }).endEntry c

/-- A line fails on its way: what is not yet performed is dropped, and the chain halts. -/
def State.dropChain (s : State) (c status : Nat) : State :=
  let keep := fun (w : PWrite) => decide (w.by_ ≠ .engine c) || w.performed || ((otherPkg w.pa).isSome && w.retryAt.isNone)
  if (s.chain c).busy then { s with writes := s.writes.filter keep }.haltChain c status
  else { s with writes := s.writes.filter keep }

/-- A chain meets a watchpoint match after its entry (R336, R353). -/
def State.freezeChain (s : State) (c : Nat) (e : ChainEntry) (w : Word × Nat × Nat) : State :=
  let s1 := s.setChain c { s.chain c with frozen := true, watch := none }
  s1.latchFreeze (.chain c) (c / 16) 0 0 false 0
    { cause := 0x30, faddr := w.1, origin := e.va, sink := e.num, aux := watchAux w.2.1 w.2.2 0 0 }

/-- The entry a chain moves is complete, once its STATUS can be written: STATUS 1, then SEQ; a match freezes the chain before
its next entry. -/
def State.completeEntry (s : State) (c : Nat) : State :=
  let C := s.chain c
  match C.entries with
  | [] => s
  | e :: rest =>
    if rest.any fun x => decide (x.va = e.va) then s.haltChain c stLOOP
    else if !s.entryReady (c / 16) e then s
    else
      let r := s.writeStatus c e 1
      if !r.2 then r.1.haltChain c stPROTECT
      else
        let s2 := r.1.setChain c { C with seq := e.num, entries := rest, busy := false, watch := none }
        match C.watch with
        | some w => s2.freezeChain c e w
        | none => s2

/-! ## Moving the lines -/

/-- Count a watchpoint match of a line. -/
def Chain.matched (C : Chain) (va k : Nat) : Chain :=
  { C with watch := match C.watch with
      | none => some (BitVec.ofNat 64 va, k, 1)
      | some (a, j, n) => some (a, j, n + 1) }

/-- The watchpoint matches of a line, each of its 64-byte lines a write of its own (R353). -/
def State.noteWatch (s : State) (c va n : Nat) : State :=
  (rowLines va (fun _ => 64) n 0 n).foldl (fun s l => match s.watchHit (c / 16) (va + l.1) l.2 with
    | some k => s.setChain c ((s.chain c).matched ((va + l.1) / 64 * 64) k)
    | none => s) s

/-- n accesses of a chain have split (R244). -/
def State.noteSplit (s : State) (c n : Nat) : State :=
  s.setChain c { s.chain c with split := min ((s.chain c).split + n) (2 ^ 32 - 1) }

/-- The accesses that read one destination line's source: offset and length of each. -/
def sourceLines (va n : Nat) : List (Nat × Nat) := if n ≤ 64 then [(0, n)] else rowLines va (fun _ => 64) n 0 n

/-- The pieces of the source of a line of at most 512 bytes, and how many of its 64-byte accesses fall into two. -/
def State.lineParts (s : State) (p va n : Nat) (snapshot : Bool) : Except Nat (List (Nat × Nat) × Nat) :=
  (sourceLines va n).foldl
    (fun (acc : Except Nat (List (Nat × Nat) × Nat)) k => match acc with
      | .error e => .error e
      | .ok l => match s.sourceParts p (va + k.1) k.2 snapshot with
        | .error e => .error e
        | .ok m => .ok (l.1 ++ m, l.2 + (m.length - 1))) (.ok ([], 0))

/-- Read the bytes of source parts now; none where a line has an uncorrectable error. -/
def State.readParts (s : State) : List (Nat × Nat) → State × Option (List Byte)
  | [] => (s, some [])
  | (pa, n) :: ps =>
    let v := s.serveLine pa
    if !v.2 then (v.1, none)
    else
      let r := v.1.readParts ps
      (r.1, r.2.map fun bs => v.1.bytes (memKey pa) n ++ bs)

/-- A write of an engine. -/
def engineWrite (c p pa va : Nat) (data : List Byte) (kind : WKind) (len : Nat) : PWrite where
  id := 0
  by_ := .engine c
  part := p
  pa := pa
  ea := BitVec.ofNat 64 va
  len := len
  data := data
  kind := kind
  ord := 0
  scope := 0
  performed := false
  deny := 0
  retryAt := none
  issued := 0
  sealed_ := []
  fails := 0
  counted := false

/-- One record of an entry goes to a request queue of this package, through the gateway of the queue's partition where that
is another one; a refused one is sent again later (R12, R363). -/
def State.sendRecord (s : State) (c q pa va : Nat) (again : Bool) (bs : List Byte) : State × Bool :=
  let p := c / 16
  let w := engineWrite c p pa va bs .store 64
  let part := s.wf (brbQueueAt q 0) 1 4
  let r := s.placeRecord q Config.pkgId.toNat p (if part = p then none else some (s.gwOwner p)) again (bs.drop 8)
  match r.2 with
  | .placed => (r.1, true)
  | .retry => (r.1.issue { w with retryAt := some (s.now + 1024) }, true)
  | .held => (r.1.issue { w with retryAt := some (s.now + 1), counted := true }, true)
  | .denied => (r.1, false)

/-- Issue the pieces of one line whose destination has been found. A line toward another package that cannot leave is denied
(R356, R358), and its denial ends the entry; a runoff block is gone once it leaves (R387). -/
def State.issueLine (s : State) (c pa dva n : Nat) (fill : Option (List Byte)) (parts : List (Nat × Nat)) : Except Nat State :=
  let p := c / 16
  let away := (otherPkg pa).isSome
  let whole := away || (match targetOf pa with
    | .request _ | .runoff _ | .dead => true
    | _ => false) || fill.isSome
  if whole then
    let r := match fill with
      | some bs => (s, some bs)
      | none => s.readParts parts
    match r.2 with
    | none => .error stUE
    | some bs =>
      if away then
        if r.1.localDenial pa then .error stPROTECT else .ok (r.1.issueWrite (engineWrite c p pa dva bs .store n))
      else match targetOf pa with
        | .request q =>
          let x := r.1.sendRecord c q pa dva false bs
          if x.2 then .ok x.1 else .error stPROTECT
        | .runoff q => .ok (r.1.runoffPlace (.engine c) none (some p) (r.1.gwOwner p) q bs [])
        | _ => .ok (r.1.issueWrite (engineWrite c p pa dva bs .store n))
  else
    .ok ((parts.foldl (fun (x : State × Nat) q =>
      (x.1.issueWrite (engineWrite c p (pa + x.2) (dva + x.2) [] (.copy c q.1) q.2), x.2 + q.2)) (s, 0)).1)

/-- Every access of a source is counted once, at its first byte (R298). -/
def State.countSource (s : State) (p sva n : Nat) (snapshot : Bool) : State :=
  (sourceLines sva n).foldl (fun s k => match s.sourceParts p (sva + k.1) k.2 snapshot with
    | .ok (q :: _) => s.countMig p (sva + k.1) q.1
    | _ => s) s

/-- One line of an entry: translated, checked, issued; or the STATUS that ends the entry. -/
def State.moveLine (s : State) (c : Nat) (x : CopyEntry) (l : Nat × Nat × Nat) : Except Nat State :=
  let p := c / 16
  let (sva, dva, n) := l
  match (if x.fill then .ok ([], 0) else s.lineParts p sva n (decide (x.op = 2))) with
  | .error e => .error e
  | .ok (ps, splits) => match s.engineXlat p dva true false with
    | .error e => .error e
    | .ok y =>
      let s1 := if x.fill then s else s.countSource p sva n (decide (x.op = 2))
      let s2 := s1.countMig p dva y.pa
      let (s3, pa) := s2.engineDest p dva y
      let s4 := (s3.noteWatch c dva n).noteSplit c splits
      s4.issueLine c pa dva n (if x.fill then some (fillBytes x.src dva n) else none) ps

/-- Every line of an entry in order, up to the first that fails. -/
def State.moveLines (s : State) (c : Nat) (x : CopyEntry) : List (Nat × Nat × Nat) → State × Option Nat
  | [] => (s, none)
  | l :: ls => match s.moveLine c x l with
    | .error e => (s, some e)
    | .ok s1 => s1.moveLines c x ls

/-- The place that a destination address leads to: the copy that its write goes to (R304). -/
def State.copyTarget (s : State) (p va : Nat) : Target :=
  match s.translate p va with
  | some y => targetOf (s.enginePa p va y true false)
  | none => .none

/-- The length of a line toward a place: blocks of runoff, records, or plain lines. -/
def Target.unit : Target → Nat
  | .runoff _ => 512
  | _ => 64

/-- A destination limit of R354 that an entry breaks. -/
def copyMisfit (t : Target) (x : CopyEntry) : Bool :=
  match t with
  | .runoff _ => decide (x.len % 512 ≠ 0) || decide (x.dst % 512 ≠ 0) || decide (x.dpitch % 512 ≠ 0)
  | .request _ => decide (x.len % 64 ≠ 0) || decide (x.dst % 64 ≠ 0)
  | _ => false

/-- Whether some destination line falls in an entry with SINK 1. -/
def State.copyConflict (s : State) (p : Nat) (ls : List (Nat × Nat × Nat)) : Bool :=
  ls.any fun l => match s.rangeOf p l.2.1 with
    | some n => s.rSink p n
    | none => false

/-- Whether no SNAP holds a destination line at its translation (R248), and every home that must act at once serves now: of a
copy that a write makes of its chunk, of the source of a line that leaves at its issue, of a runoff block of this package. -/
def State.copyReady (s : State) (p : Nat) (x : CopyEntry) (ls : List (Nat × Nat × Nat)) : Bool :=
  (ls.all fun l => match s.rangeOf p l.2.1 with
    | some n => !s.entryHeld p n && s.cowReady p n l.2.1
    | none => true) && (ls.all fun l => match s.copyTarget p l.2.1 with
    | .runoff a => s.chanServes a
    | _ => true) && (x.fill || ls.all fun l =>
    match s.translate p l.2.1 with
    | none => true
    | some y =>
      let pa := s.enginePa p l.2.1 y true false
      match otherPkg pa, targetOf pa with
      | none, .hbm _ | none, .host => true
      | _, _ => (rowLines l.1 (fun _ => 64) l.2.2 0 l.2.2).all fun k => match s.translate p (l.1 + k.1) with
        | some z => s.homeServes z.pa
        | none => true)

/-- Whether an engine moves an entry of some chain. -/
def State.engineBusy (s : State) (e : Nat) : Bool := (List.range 16).any fun p => (s.chain (16 * p + e)).busy

/-- Start the entry at the head of a chain with its fields: the checks in order, then its lines. -/
def State.moveEntry (s : State) (c : Nat) (x : CopyEntry) : State :=
  let p := c / 16
  let ls := x.lines fun va => (s.copyTarget p va).unit
  if x.bad || ls.any fun l => copyMisfit (s.copyTarget p l.2.1) x then s.haltChain c stRANGE
  else if s.copyConflict p ls then s.haltChain c stCONFLICT
  else if !s.copyReady p x ls then s
  else
    let r := (s.setChain c { s.chain c with busy := true }).moveLines c x ls
    match r.2 with
    | some e => r.1.haltChain c e
    | none => r.1

/-- The next entry of a chain starts when the engine is free and the chain neither halted nor frozen. -/
def State.copyStart (s : State) (p e : Nat) : State :=
  let c := 16 * p + e
  let C := s.chain c
  if C.halted || C.frozen || s.engineBusy e then s
  else match C.entries with
    | [] => s
    | x :: rest =>
      if rest.any fun y => decide (y.va = x.va) then s.haltChain c stLOOP
      else match s.entryPa p x with
        | none => s.haltChain c stXLATE
        | some pa =>
          if (otherPkg pa).isSome ∨ targetOf pa = .window ∨ !s.entryRight p x false then s.haltChain c stPROTECT
          else if !s.homeServes pa then s
          else
            let v := (s.countEntry p x pa).serveLine pa
            if !v.2 then v.1.haltChain c stUE else v.1.moveEntry c (CopyEntry.ofBytes (v.1.bytes (memKey pa) 64))

/-- An entry completes once none of its writes is left; one that fails ends once its STATUS can be written. -/
def State.copyDone (s : State) (p e : Nat) : State :=
  let c := 16 * p + e
  if (s.chain c).ending.isSome then s.endEntry c
  else if (s.chain c).busy && !(s.writes.any fun w => decide (w.by_ = .engine c)) then s.completeEntry c else s

/-- A refused record is sent again, 1,024 cycles later (R363). -/
def State.resend (s : State) (id : Nat) : State :=
  match s.writes.find? fun w => decide (w.id = id) with
  | none => s
  | some w =>
    match w.retryAt, w.by_, otherPkg w.pa, targetOf w.pa with
    | some n, .engine c, none, .request q =>
      if s.now < n then s
      else
        let s1 := { s with writes := s.writes.filter fun x => decide (x.id ≠ id) }
        let r := s1.sendRecord c q w.pa w.ea.toNat w.counted w.data
        if r.2 then r.1 else r.1.dropChain c stPROTECT
    | some n, _, some d, _ => if s.now < n then s else s.flushLines d
    | _, _, _, _ => s

end Sys2Proof.Machine
end

