-- ==== Sys2Proof/Machine/LoadOps.lean ====
section
/-! DEFINITION. Accesses of control threads: addresses, loads and their replies, releases, waits, the performing and the
acknowledgement of writes (R183, R193 to R201, R235 to R242, R285, R295, R297, R363, R393). -/

namespace Sys2Proof.Machine

/-! ## Threads that go on or wait -/

/-- The thread completes its instruction and may start the next one in the next cycle. -/
def State.stepOn (s : State) (t : Nat) : State := s.setThread t ((s.thread t).complete s.now 1)
/-- The thread tries the same instruction again in the next cycle: nothing has happened yet. -/
def State.retryNext (s : State) (t : Nat) : State := s.setThread t { s.thread t with nextAt := s.now + 1, held := true }
/-- The thread is held. -/
def State.waitFor (s : State) (t : Nat) (w : Wait) : State := s.setThread t { s.thread t with status := .waiting w }
/-- The thread goes on with a result. -/
def State.stepWith (s : State) (t d : Nat) (v : Word) : State := s.setThread t (((s.thread t).result s.now d 1 v).complete s.now 1)

/-! ## Addresses and freezes of accesses (R193) -/

/-- EA of a C-MEM instruction. -/
def Thread.ea (T : Thread) (m : MemArgs) : Word := T.getR m.a.toNat + m.off.signExtend 64
/-- Access size of SZ. -/
def accSize (sz : BitVec 3) : Nat := 2 ^ sz.toNat

/-- Freeze a thread at a failed check, with FADDR := EA and, at a watchpoint, its number (R351). -/
def State.freezeAccess (s : State) (t cause : Nat) (ea : Word) (size : Nat) : State :=
  let T := s.thread t
  let aux := if cause = 0x30 then
      match s.watchHit T.part ea.toNat size with
      | some k => watchAux k 1 0 0
      | none => 0
    else 0
  s.freezeThreadT t T { cause := cause, faddr := ea, aux := aux }

/-- Run an access whose checks pass. -/
def State.withAccess (s : State) (t : Nat) (T : Thread) (ea : Word) (size : Nat) (k : AccKind) (f : Xlat → State) : State :=
  match s.checkAccess T ea.toNat size size k with
  | .error c => s.freezeAccess t c ea size
  | .ok x => f x

/-! ## Releases (R195, R235 to R237, R285) -/

/-- Whether a denied acknowledgement is one that a release at the scope waits for. -/
def Thread.hears (T : Thread) (scope : Nat) : Option (Nat × Word) :=
  match T.denied with
  | some (c, ea, dev) => if scope = 5 ∨ (scope ≠ 0 ∧ dev) then some (c, ea) else none
  | none => none

/-- The thread freezes with the denial it heard. -/
def State.freezeDenied (s : State) (t : Nat) (d : Nat × Word) : State :=
  let T := { s.thread t with denied := none, status := .running }
  (s.setThread t T).freezeThreadT t T { cause := d.1, faddr := d.2 }

/-- A release at a scope: the effect `k` comes once the writes it waits for are acknowledged. -/
def State.afterRelease (s : State) (t scope : Nat) (k : State → State) : State :=
  if scope = 0 then k s
  else match (s.thread t).hears scope with
    | some d => s.freezeDenied t d
    | none => if s.quiet (.thread t) scope then k s else s.retryNext t

/-- The scope at which a C-MEM instruction releases, THREAD where it does not. -/
def relScope (m : MemArgs) : Nat := if m.ord.toNat / 2 = 1 then m.scope.toNat else 0
/-- Whether it acquires at more than THREAD scope. -/
def acquires (m : MemArgs) : Bool := decide (m.ord.toNat % 2 = 1) && decide (m.scope.toNat ≠ 0)

/-! ## Loads (R183, R195, R238) -/

/-- Ts of a pinned range entry that an address lies in, 0 without one (R248). -/
def State.pinnedAt (s : State) (T : Thread) (ea : Nat) : Nat :=
  match (if T.asCellar then none else s.rangeOf T.part ea) with
  | some n => if 2 ≤ s.rShst T.part n then tget 0 s.snapAt (64 * T.part + n) else 0
  | none => 0

/-- Send a load to its home. -/
def State.sendLoad (s : State) (t : Nat) (m : MemArgs) (signed : Bool) (ea : Word) (pa : Nat) : State :=
  let T := s.thread t
  let lo := max (max T.acqAt (s.now - 1024)) (s.pinnedAt T ea.toNat)
  let l : PLoad := ⟨s.nextId, m.d.toNat, m.sz.toNat, signed, ea, pa, T.pc, lo, acquires m, m.scope.toNat, false, false,
    none, none⟩
  { s with nextId := s.nextId + 1 }.setThread t ({ T with loads := T.loads ++ [l] }.complete s.now 1)

/-- LD and LDS. -/
def State.load (s : State) (t : Nat) (T : Thread) (m : MemArgs) (signed : Bool) : State :=
  let ea := T.ea m
  s.withAccess t T ea (accSize m.sz) .load fun x =>
    let s1 := if T.asCellar then s else s.countMig T.part ea.toNat x.pa
    s1.sendLoad t m signed ea (if T.asCellar then x.pa else s1.placeRead T.part ea.toNat x)

/-- The value that a load writes to D, from the bytes that came. -/
def PLoad.result (l : PLoad) (v : BitVec 128) : Word :=
  if l.signed then BitVec.ofInt 64 (intOf true (8 * 2 ^ l.sz) v.toNat) else v.setWidth 64

/-- Deliver the replies at the head of the queue, in program order; a fault freezes the thread at its load, and later
loads are discarded. A frozen thread takes no fault. -/
def State.drainLoads (s : State) (t : Nat) : Nat → State
  | 0 => s
  | n + 1 =>
    let T := s.thread t
    match T.loads with
    | [] => s
    | l :: ls =>
      match l.got with
      | none => s
      | some (.ok v) =>
        let T1 := { T with loads := ls, acqAt := if l.acq then s.now else T.acqAt }
        let T2 := T1.setR l.d (l.result v)
        let T3 := if l.sz = 4 then T2.setR (l.d + 1) (BitVec.ofNat 64 (v.toNat / 2 ^ 64)) else T2
        (s.setThread t T3).drainLoads t n
      | some (.bad c) =>
        if T.status = .frozen then s
        else
          let T1 := { T with pc := l.pc, loads := [], status := .running }
          (s.setThread t T1).freezeThreadT t T1 { cause := c, faddr := l.ea }

/-- Record the reply of one load. -/
def State.reply (s : State) (t id : Nat) (r : Reply) : State :=
  let T := s.thread t
  s.setThread t { T with loads := T.loads.map fun l => if l.id = id then { l with got := some r } else l }

/-- Whether an own atomic on the location has still to be performed: the load then waits for it (R235). -/
def State.atomicAhead (s : State) (t : Nat) (l : PLoad) : Bool :=
  s.writes.any fun w => decide (w.by_ = .thread t) && decide (w.id < l.id) && !w.performed &&
    overlaps (memKey l.pa) (2 ^ l.sz) (memKey w.pa) w.len && (match w.kind with
      | .amo _ _ | .cas _ _ _ => true
      | _ => false)

/-- Serve a load of memory: the home checks the line, unless it has done so, and the read instant is free within its
bounds. -/
def State.serveLoad (s : State) (t : Nat) (l : PLoad) : State :=
  let a := memKey l.pa
  let n := 2 ^ l.sz
  let v := if l.clean then (s, true) else s.serveLine l.pa
  if !v.2 then v.1.reply t l.id (.bad 0x20)
  else
    let s1 := v.1
    if l.acq then s1.reply t l.id (.ok (BitVec.ofNat 128 (bytesNat (s1.readAt (.thread t) l.id a s1.now n))))
    else
      let lo := min s1.now (max l.lo (ownLatest s1.hist (.thread t) a n))
      let (k, s2) := s1.choose (s1.now - lo + 1)
      s2.reply t l.id (.ok (BitVec.ofNat 128 (bytesNat (s2.readAt (.thread t) l.id a (lo + k) n))))

/-- The home of a load or atomic answers that it has taken it without fault; the value comes later. Places whose read has
an effect, and other packages, answer once, with the value (R183, R235; log entry 98). -/
def State.clearLoad (s : State) (t id : Nat) : State :=
  match (s.thread t).loads.find? fun l => decide (l.id = id) && l.got.isNone && l.val.isNone && !l.clean with
  | none => s
  | some l =>
    let plain := match targetOf l.pa with
      | .hbm _ | .host => (otherPkg l.pa).isNone
      | _ => false
    if !plain || !s.homeServes l.pa then s
    else
      let v := s.serveLine l.pa
      if !v.2 then v.1
      else
        let T := v.1.thread t
        v.1.setThread t { T with loads := T.loads.map fun l => if l.id = id then { l with clean := true } else l }

/-- The channel whose block a register of the window lies in. -/
def hcbOf (pa : Nat) : Option Nat :=
  match wreg pa with
  | .hcb c _ => some c
  | _ => none

/-- Whether a register load waits for an earlier load of its thread from the same block HCB(c) (R397). -/
def State.blockAhead (s : State) (t : Nat) (l : PLoad) : Bool :=
  (hcbOf l.pa).isSome && (s.thread t).loads.any fun k => decide (k.id < l.id) && k.got.isNone && decide (hcbOf k.pa = hcbOf l.pa)

/-- What a thread's register load gives: the value of its own latest store that the hub holds, else the register's (R393). -/
def State.windowValue (s : State) (t : Nat) (l : PLoad) : Word :=
  match s.heldAcc.reverse.find? fun w => decide (w.by_ = .thread t) && decide (w.pa = l.pa) && decide (w.id < l.id) with
  | some w => BitVec.ofNat 64 (bytesNat w.data)
  | none => s.winRead t l.pa

/-- The reply to a load comes; `ext` is the old value that another package answers an atomic with. -/
def State.memoryReply (s : State) (t id : Nat) (ext : BitVec 128) : State :=
  let T := s.thread t
  match T.loads.find? fun l => decide (l.id = id) && l.got.isNone with
  | none => s
  | some l =>
    let s1 :=
      if l.atomic then
        match l.val, otherPkg l.pa with
        | some v, _ => s.reply t id (.ok v)
        | none, some _ => s.reply t id (.ok ext)
        | none, none => s
      else if targetOf l.pa = .window then
        (if s.blockAhead t l then s else s.reply t id (.ok ((s.windowValue t l).setWidth 128)))
      else if !s.homeServes l.pa || s.atomicAhead t l then s
      else s.serveLoad t l
    s1.drainLoads t T.loads.length

/-! ## Stores (R195, R393) -/

/-- Whether the hub holds what a take-over thread issues (R393). -/
def State.holdsOf (s : State) (T : Thread) : Bool := T.takeover && decide (s.wf (crbAt 0) 2 1 = 1)

/-- Hold an access of the take-over thread, as the latest of its accesses so far. -/
def State.holdAccess (s : State) (w : PWrite) : State :=
  { s with nextId := s.nextId + 1, heldAcc := s.heldAcc ++ [{ w with id := s.nextId }] }

/-- Whether some bytes are those of a store that is held: a later store to them stays behind it. -/
def State.heldOver (s : State) (pa n : Nat) : Bool := s.heldAcc.any fun w => overlaps (memKey pa) n (memKey w.pa) w.len

/-- The bytes that a store writes: D, or D and D + 1. -/
def Thread.storeData (T : Thread) (m : MemArgs) : List Byte :=
  natBytes ((T.getR m.d.toNat).toNat + (if m.sz = 4 then 2 ^ 64 * (T.getR (m.d.toNat + 1)).toNat else 0)) (accSize m.sz)

def threadWrite (t : Nat) (T : Thread) (pa : Nat) (ea : Word) (data : List Byte) (kind : WKind) (ord scope : Nat) : PWrite where
  id := 0
  by_ := .thread t
  part := T.part
  pa := pa
  ea := ea
  len := data.length
  data := data
  kind := kind
  ord := ord
  scope := scope
  performed := false
  deny := 0
  retryAt := none
  issued := 0
  sealed_ := []
  fails := 0
  counted := false

/-- Whether writes to the entry of an address are held at their translation: a SNAP waits (R248), or a home of the copy that
the write makes of its chunk does not serve now. -/
def State.snapHolds (s : State) (T : Thread) (ea : Nat) : Bool :=
  match (if T.asCellar then none else s.rangeOf T.part ea) with
  | some n => s.entryHeld T.part n || !s.cowReady T.part n ea
  | none => false

/-- A store whose checks passed: into the window at once, else on its way to its home. -/
def State.storeAt (s : State) (t : Nat) (T : Thread) (m : MemArgs) (ea : Word) (x : Xlat) : State :=
  if targetOf x.pa = .window then
    match s.regStore t x.pa (T.getR m.d.toNat) with
    | some s1 => s1.stepOn t
    | none => s.freezeAccess t 0x06 ea 8
  else
    if s.snapHolds T ea.toNat then s.retryNext t
    else
    let s1 := if T.asCellar then s else s.countMig T.part ea.toNat x.pa
    let (s2, pa) := if T.asCellar then (s1, x.pa) else s1.placeWrite T.part ea.toNat x
    (s2.issueWrite (threadWrite t T pa ea (T.storeData m) .store m.ord.toNat m.scope.toNat)).stepOn t

def State.store (s : State) (t : Nat) (T : Thread) (m : MemArgs) : State :=
  let ea := T.ea m
  s.withAccess t T ea (accSize m.sz) .store fun x =>
    if s.holdsOf T ∧ (relScope m = 5 ∨ s.heldOver x.pa (accSize m.sz)) then
      (s.holdAccess (threadWrite t T x.pa ea (T.storeData m) .store m.ord.toNat m.scope.toNat)).stepOn t
    else s.afterRelease t (relScope m) fun s => s.storeAt t T m ea x

/-! ## Atomics (R196, R197, R241, R242) -/

/-- Issue an AMO or CAS: its write, and the load entry that its old value answers. -/
def State.atomicAt (s : State) (t : Nat) (T : Thread) (m : MemArgs) (ea : Word) (x : Xlat) (data : List Byte)
    (kind : Nat → WKind) (acq : Bool) : State :=
  if s.snapHolds T ea.toNat then s.retryNext t
  else
  let s1 := if T.asCellar then s else s.countMig T.part ea.toNat x.pa
  let (s2, pa) := if T.asCellar then (s1, x.pa) else s1.placeWrite T.part ea.toNat x
  let id := s2.nextId
  let l : PLoad := ⟨id, m.d.toNat, m.sz.toNat, false, ea, pa, T.pc, s2.now, acq, m.scope.toNat, true, false, none, none⟩
  let s3 := { s2 with nextId := id + 1 }.issueWrite (threadWrite t T pa ea data (kind id) m.ord.toNat m.scope.toNat)
  let T1 := s3.thread t
  s3.setThread t ({ T1 with loads := T1.loads ++ [l] }.complete s3.now 1)

/-- A pair of registers as 128 bits. -/
def Thread.pair (T : Thread) (n : Nat) : Nat := (T.getR n).toNat + 2 ^ 64 * (T.getR (n + 1)).toNat

/-- The low bits of a register, or a pair of them. -/
def Thread.operand (T : Thread) (n : Nat) (sz : BitVec 3) : Nat :=
  if sz = 4 then T.pair n else (T.getR n).toNat % 2 ^ (8 * accSize sz)

def State.amo (s : State) (t : Nat) (T : Thread) (m : MemArgs) : State :=
  let ea := T.ea m
  s.withAccess t T ea (accSize m.sz) .atomic fun x =>
    s.afterRelease t (relScope m) fun s =>
      s.atomicAt t T m ea x (natBytes (T.operand m.b.toNat m.sz) (accSize m.sz)) (fun id => .amo m.aop.toNat id) (acquires m)

/-- CAS holds the thread when either outcome may acquire. -/
def State.cas (s : State) (t : Nat) (T : Thread) (m : MemArgs) : State :=
  let ea := T.ea m
  s.withAccess t T ea (accSize m.sz) .atomic fun x =>
    s.afterRelease t (relScope m) fun s =>
      let expect := BitVec.ofNat 128 (T.operand m.d.toNat m.sz)
      let ford := decide (m.ford = 1) && decide (m.scope.toNat ≠ 0)
      s.atomicAt t T m ea x (natBytes (T.operand m.b.toNat m.sz) (accSize m.sz)) (fun id => .cas expect id ford)
        (acquires m || ford)

/-- The home answers an atomic: its old value, and for a CAS whether what happened is an acquire. -/
def State.answerAtomic (s : State) (w : PWrite) (old : Nat) : State :=
  match w.by_, w.kind with
  | .thread t, .amo _ id =>
    let T := s.thread t
    s.setThread t { T with loads := T.loads.map fun l => if l.id = id then { l with val := some (BitVec.ofNat 128 old) } else l }
  | .thread t, .cas e id ford =>
    let T := s.thread t
    let ok := decide (old = e.toNat)
    let acq := decide (w.scope ≠ 0) && (if ok then decide (w.ord % 2 = 1) else ford)
    let put := fun (l : PLoad) => if l.id = id then { l with val := some (BitVec.ofNat 128 old), acq := acq } else l
    s.setThread t { T with loads := T.loads.map put }
  | _, _ => s

/-- The load entry of an atomic gets a cause instead of a value. -/
def State.failAtomic (s : State) (w : PWrite) (cause : Nat) : State :=
  match w.by_, w.kind with
  | .thread t, .amo _ id | .thread t, .cas _ id _ => s.reply t id (.bad cause)
  | _, _ => s

/-! ## Performing (R237, R241, R297) -/

/-- Whether an earlier write of the same master still stands before a write: on the same bytes, or, before a counter
update, one that its release waits for. -/
def State.aheadOf (s : State) (w : PWrite) : Bool :=
  s.writes.any fun u => decide (u.id < w.id) && decide (u.by_ = w.by_) &&
    match w.kind, u.kind with
    | .tlsig i _, .tlsig j _ => decide (i = j) && !u.performed
    | .tlsig _ _, _ => u.waitedAt w.scope
    | _, .tlsig _ _ => false
    | _, _ => !u.performed && overlaps (memKey u.pa) u.len (memKey w.pa) w.len

/-- Whether an earlier load of the same thread on the same bytes has not its value yet. -/
def State.loadAhead (s : State) (w : PWrite) : Bool :=
  match w.by_, w.kind with
  | _, .tlsig _ _ => false
  | .thread t, _ => (s.thread t).loads.any fun l => decide (l.id < w.id) && !l.atomic && l.got.isNone &&
      overlaps (memKey l.pa) (2 ^ l.sz) (memKey w.pa) w.len
  | _, _ => false

/-- Whether a write may be performed now. -/
def State.mayPerform (s : State) (w : PWrite) : Bool :=
  !w.performed && w.retryAt.isNone && (otherPkg w.pa).isNone && !s.aheadOf w && !s.loadAhead w &&
    match w.kind with
    | .tlsig _ _ => true
    | .copy _ src => s.homeServes w.pa && s.homeServes src
    | _ => s.homeServes w.pa

def State.dropWrite (s : State) (id : Nat) : State := { s with writes := s.writes.filter fun w => decide (w.id ≠ id) }
def State.markWrite (s : State) (id deny : Nat) : State :=
  { s with writes := s.writes.map fun w => if w.id = id then { w with performed := true, deny := deny } else w }

/-- A completion word is a cellar thread's store of 16 bytes (R321). -/
def State.noteCompletion (s : State) (w : PWrite) : State :=
  match w.by_ with
  | .thread t => if t < 2 ∧ w.len = 16 then s.taskCompleted w.pa (bytesNat ((w.data.drop 8).take 4)) else s
  | _ => s

/-- Whether the home has answered an atomic already that it has taken it without fault. -/
def State.taken (s : State) (w : PWrite) : Bool :=
  match w.by_, w.kind with
  | .thread t, .amo _ id | .thread t, .cas _ id _ => (s.thread t).loads.any fun l => decide (l.id = id) && l.clean
  | _, _ => false

/-- What an atomic wrote: its own later loads are forwarded it until it is acknowledged, nothing of a CAS that failed. -/
def State.noteAtomic (s : State) (id : Nat) (bs : List Byte) : State :=
  { s with writes := s.writes.map fun w => if w.id = id then { w with data := bs, len := bs.length } else w }

/-- An atomic at its home: read, compute, write in one step. -/
def State.performAtomic (s : State) (w : PWrite) : State :=
  let v := if s.taken w then (s, true) else s.serveLine w.pa
  if !v.2 then (v.1.failAtomic w 0x20).dropWrite w.id
  else
    let a := memKey w.pa
    let old := v.1.mget a w.len
    let new := match w.kind with
      | .amo op _ => some (amoNew op (8 * w.len) old (bytesNat w.data))
      | .cas e _ _ => if old = e.toNat then some (bytesNat w.data) else none
      | _ => none
    let s1 := match new with
      | some n => v.1.storeBytes w.by_ a (natBytes n w.len)
      | none => v.1
    let bs := match new with
      | some n => natBytes n w.len
      | none => []
    ((s1.answerAtomic w old).noteAtomic w.id bs).markWrite w.id 0

/-- Perform a write at its home. -/
def State.perform (s : State) (w : PWrite) : State :=
  match w.kind with
  | .tlsig i add => (s.dropWrite w.id).signal i add (BitVec.ofNat 64 (bytesNat w.data))
  | .amo _ _ | .cas _ _ _ => s.performAtomic w
  | .store | .arc _ _ =>
    let v := s.voteLine w.pa
    if !v.2 then v.1.markWrite w.id 0x06
    else ((v.1.storeBytes w.by_ (memKey w.pa) w.data).noteCompletion w).markWrite w.id 0
  | .copy c src =>
    let v := s.serveLine src
    if !v.2 then v.1.dropWrite w.id |>.dropChain c stUE
    else
      let d := v.1.voteLine w.pa
      if !d.2 then d.1.markWrite w.id 0x06
      else (d.1.storeBytes w.by_ (memKey w.pa) (d.1.bytes (memKey src) w.len)).markWrite w.id 0

/-- A home applies a write that waits for it. -/
def State.homePerform (s : State) (id : Nat) : State :=
  match s.writes.find? fun w => decide (w.id = id) with
  | some w => if s.mayPerform w then s.perform w else s
  | none => s

/-! ## Acknowledgements (R237, R285, R305, R359) -/

/-- The master of a write hears of a denial. -/
def State.hearDenial (s : State) (w : PWrite) (cause : Nat) : State :=
  match w.by_, w.kind with
  | .thread t, .amo _ _ | .thread t, .cas _ _ _ =>
    (s.failAtomic w cause).drainLoads t (s.thread t).loads.length
  | .thread t, _ => s.denyThread t cause w.ea (w.waitedAt 4)
  | .engine c, _ => s.dropChain c (if cause = 0x06 then stPROTECT else stUE)
  | .host l, _ => s.hostAbort l w.part w.pa
  | .arc p a, .arc what _ => if 2 ≤ what then s else if cause = 0x06 then s.arcDenied p a 0x06 else s.arcGone p a
  | _, _ => s

/-- A write is acknowledged: performed here, or in another package with what its answer says. -/
def State.acknowledge (s : State) (w : PWrite) (denied : Bool) (ext : BitVec 128) : State :=
  let s1 := s.dropWrite w.id
  if w.performed then (if w.deny = 0 then s1 else s1.hearDenial w w.deny)
  else if denied then s1.hearDenial w 0x06
  else (s1.answerAtomic w ext.toNat).noteCompletion w

/-- Whether RETRY_LATER answers a write: a record of a copy engine to a request queue of another package (R363). -/
def PWrite.isRecord (w : PWrite) : Bool :=
  match w.by_, remoteTarget (w.pa % 2 ^ 41) with
  | .engine _, .request _ => (otherPkg w.pa).isSome
  | _, _ => false

/-- An acknowledgement comes. From another package: `denied` carries a PROTECT denial, and `ext` the old value of an
atomic, or 1 for RETRY_LATER. -/
def State.writeAck (s : State) (id : Nat) (denied : Bool) (ext : BitVec 128) : State :=
  match s.writes.find? fun w => decide (w.id = id) with
  | none => s
  | some w =>
    match otherPkg w.pa with
    | none => if w.performed then s.acknowledge w false 0 else s
    | some d =>
      if w.performed then s.acknowledge w false 0
      else if w.retryAt.isSome then s
      else if w.isRecord ∧ !denied ∧ ext = 1 then
        let later := fun (u : PWrite) => if u.id = id then { u with retryAt := some (s.now + 1024), sealed_ := [] } else u
        { s with writes := s.writes.map later }.settleRoute d
      else (s.acknowledge w denied ext).settleRoute d

/-! ## Counter updates on their way (R209) -/

/-- Not to be sent before its release allows it. -/
def heldBack : Nat := 2 ^ 70

/-- A TLSIG leaves the thread: a local one waits at the counter unit for its release, a remote one is sent after it. -/
def State.issueSignal (s : State) (w : PWrite) : State :=
  match otherPkg w.pa with
  | none => s.issue w
  | some _ => if s.localDenial w.pa then s.issueWrite w else s.issue { w with retryAt := some heldBack }

/-- What waits to be sent again is sent once it may: a record after 1,024 cycles, a counter update after its release. -/
def State.sendAgain (s : State) (id : Nat) : State :=
  match s.writes.find? fun w => decide (w.id = id) with
  | none => s
  | some w => match w.kind, otherPkg w.pa with
    | .tlsig _ _, some d =>
      if w.retryAt = some heldBack ∧ !s.aheadOf w then
        let now_ := fun (u : PWrite) => if u.id = id then { u with retryAt := some s.now } else u
        { s with writes := s.writes.map now_ }.flushLines d
      else s.resend id
    | _, _ => s.resend id

end Sys2Proof.Machine
end

