-- ==== Sys2Proof/Machine/Mem.lean ====
section
/-! DEFINITION. The meanings of the C-MEM class (R193 to R200) and of what comes about in the memory system for it: replies,
performing, acknowledgement, the ends of waits (R183, R237, R238, R241). -/

namespace Sys2Proof.Machine

/-! ## Loads, stores, atomics -/

def execLd (m : MemArgs) (s : State) := onThread s kAll fun t T => s.load t T m false
def execLds (m : MemArgs) (s : State) := onThread s kAll fun t T => s.load t T m true
def execSt (m : MemArgs) (s : State) := onThread s kSHC fun t T => s.store t T m
def execAmo (m : MemArgs) (s : State) := onThread s kSHC fun t T => s.amo t T m
def execCas (m : MemArgs) (s : State) := onThread s kSHC fun t T => s.cas t T m

def execMemoryReply (t n : Nat) (ext : BitVec 128) (s : State) := hubOp (s.memoryReply t n ext)
def execHomeWritePerform (id : Nat) (s : State) := hubOp (s.homePerform id)
def execWriteAck (id : Nat) (denied : Bool) (ext : BitVec 128) (s : State) := hubOp (s.writeAck id denied ext)

/-! ## FENCE (R198) -/

/-- The earlier loads have completed when a FENCE starts (R183); what is left to wait for are acknowledgements. -/
def execFence (m : MemArgs) (s : State) := onThread s kAll fun t _ =>
  if m.scope = 0 then s.stepOn t
  else s.waitFor t (.fence (decide (m.ord.toNat % 2 = 1)) (decide (m.ord.toNat / 2 = 1)) m.scope.toNat)

/-- A held FENCE completes once every write it waits for is acknowledged, or freezes with a denial. -/
def State.fenceComplete (s : State) (t : Nat) : State :=
  let T := s.thread t
  match T.status with
  | .waiting (.fence acq rel scope) =>
    let done := fun (s : State) => (if acq then s.acquireNow t else s).setThread t
      ({ (if acq then s.acquireNow t else s).thread t with status := .running }.complete s.now 1)
    if !rel then done s
    else match T.hears scope with
      | some d => s.freezeDenied t d
      | none => if s.quiet (.thread t) scope then done s else s
  | _ => s

def execFenceComplete (t : Nat) (s : State) := hubOp (s.fenceComplete t)

/-! ## ENQ and SEQW (R199, R200) -/

/-- The chain that s[B] names for a thread; none where a bit is set that must be zero. -/
def Thread.chainOf (T : Thread) (b : Word) : Option Nat :=
  let n := b.toNat
  if 2 ^ 8 ≤ n ∨ (!T.asCellar ∧ 2 ^ 4 ≤ n) then none
  else some (16 * (if T.asCellar then n / 16 else T.part) + n % 16)

/-- The entry at the tail of a chain, once one has been linked. -/
def Chain.tailEntry (C : Chain) (t : Nat) : Option ChainEntry :=
  if C.last = 0 then none
  else some ⟨C.tail, 0, match C.entries.getLast? with
    | some e => e.by_
    | none => t⟩

/-- Write NEXT of an entry that a link touches, at its home; the access is counted (R298). -/
def State.writeNext (s : State) (p : Nat) (e : ChainEntry) (v : Nat) : State :=
  let r := s.entryPlace p e
  match r.2 with
  | none => s
  | some pa =>
    let s1 := r.1.countEntry p e pa
    match otherPkg pa with
    | some _ => s1.issueWrite { engineWrite 0 p pa e.va.toNat (natBytes v 8) .store 8 with by_ := .hub }
    | none => (s1.hubStore .hub pa (natBytes v 8)).1

/-- Link an entry after the tail of a chain; it takes the next number. -/
def State.linkEntry (s : State) (c t : Nat) (ea : Word) : State :=
  let C := s.chain c
  let s1 := match C.tailEntry t with
    | some e => s.writeNext (c / 16) e ea.toNat
    | none => s
  let s2 := s1.writeNext (c / 16) ⟨ea, 0, t⟩ 0
  s2.setChain c { C with last := C.last + 1, tail := ea, entries := C.entries ++ [⟨ea, C.last + 1, t⟩] }

/-- Whether both NEXT fields can be written now (R248, R289). -/
def State.linkReady (s : State) (c t : Nat) (ea : Word) : Bool :=
  s.entryReady (c / 16) ⟨ea, 0, t⟩ && match (s.chain c).tailEntry t with
    | some e => s.entryReady (c / 16) e
    | none => true

def State.enq (s : State) (t : Nat) (T : Thread) (m : MemArgs) : State :=
  match T.chainOf (T.getR m.b.toNat) with
  | none => s.freezeThread t 0x06
  | some c =>
    let ea := T.ea m
    s.withAccess t T ea 64 .enq fun _ =>
      s.afterRelease t 4 fun s =>
        if !s.linkReady c t ea then s.retryNext t
        else
          let s1 := s.linkEntry c t ea
          s1.stepWith t m.d.toNat (s1.chain c).last

def execEnq (m : MemArgs) (s : State) := onThread s kSHC fun t T => s.enq t T m

/-- A deadline n units of 1,024 cycles ahead; none for 0. -/
def deadlineOf (now n : Nat) : Option Nat := if n = 0 then none else some (now + 1024 * n)

def State.seqw (s : State) (t : Nat) (T : Thread) (m : MemArgs) : State :=
  match T.chainOf (T.getR m.b.toNat) with
  | none => s.freezeThread t 0x06
  | some c =>
    let target := T.getR m.a.toNat
    let seq := (s.chain c).seq
    if reached seq target then (s.acquireNow t).release t m.d.toNat seq
    else s.waitFor t (.seqw m.d.toNat c target (deadlineOf s.now m.off.toNat))

def execSeqw (m : MemArgs) (s : State) := onThread s kSHC fun t T => s.seqw t T m

/-- A held SEQW is released by its threshold: an acquire at DEVICE. -/
def State.seqwRelease (s : State) (t : Nat) : State :=
  match (s.thread t).status with
  | .waiting (.seqw d c target _) =>
    let seq := (s.chain c).seq
    if reached seq target then (s.acquireNow t).release t d seq else s
  | _ => s

/-- A held SEQW is released by its timeout, with the sequence number as it stands. -/
def State.seqwTimeout (s : State) (t : Nat) : State :=
  match (s.thread t).status with
  | .waiting (.seqw d c target (some n)) =>
    let seq := (s.chain c).seq
    if n ≤ s.now && !reached seq target then s.release t d seq else s
  | _ => s

def execSeqwRelease (t : Nat) (s : State) := hubOp (s.seqwRelease t)
def execSeqwTimeout (t : Nat) (s : State) := hubOp (s.seqwTimeout t)

end Sys2Proof.Machine
end

