-- ==== Sys2Proof/Machine/TweOps.lean ====
section
/-! DEFINITION. Tile-walk engines and compiled timelines (R244, R246, R247, R265, R286 to R296, R299 to R302): which
region a step serves, its shape record, reads into the assembly buffer, fills, operand-cache deliveries, drains, repair
slots, the commands of a timeline. -/

namespace Sys2Proof.Machine

/-! ## Loading timelines (R289, R293, R294) -/

/-- The timelines of a graph's image. -/
def State.timelinesOf (s : State) (p : Nat) : List TimelineDecl :=
  match (s.part p).graph with
  | some g => match s.declAt g.pa with
    | some d => d.timelines
    | none => []
  | none => []

/-- Assign a channel to a partition's graph with its cold and retreat timelines; a channel that runs another graph's
timelines stays with it (log entry 32). -/
def State.loadTimeline (s : State) (p : Nat) (t : TimelineDecl) : State :=
  let C := s.chan t.chan
  if C.records ≠ [] ∧ C.part ≠ p then s
  else
    let C1 := if t.retreat then { C with part := p, retreatSteps := t.steps, retreatRecords := t.records }
      else { C with part := p, steps := t.steps, records := t.records, retreat := false, pos := 0, open_ := [], held := [] }
    let s1 := s.setChan t.chan C1
    let b := if t.retreat then 1 else 0
    (s1.setWf (hcbAt t.chan 0) b 1 1).setWf (hcbAt t.chan 0) 2 2 0

def State.loadTimelines (s : State) (p : Nat) : State := (s.timelinesOf p).foldl (fun s t => s.loadTimeline p t) s

/-- The steps and records in use. -/
def Chan.useSteps (C : Chan) : List (BitVec 128) := if C.retreat then C.retreatSteps else C.steps
def Chan.useRecords (C : Chan) : List Word := if C.retreat then C.retreatRecords else C.records
def Chan.step (C : Chan) (n : Nat) : BitVec 128 := (C.useSteps[n]?).getD 0

/-- TSTATE of COLD_RUN (R371). -/
def coldRun : Nat := 4

/-- The timeline a channel runs from this frame boundary on (R293): retreat while TB1 asks for it, cold again once TSTATE
is COLD_RUN, none in TB2, where the controller serves in dynamic mode. -/
def State.chooseTimeline (s : State) (c : Nat) : State :=
  let C := s.chan c
  let r := if s.tstate = coldRun then false else if s.tband = 1 ∧ C.retreatRecords ≠ [] then true else C.retreat
  let since := if !r then none else if C.retreat then C.refFrom else some s.now
  let C1 := { C with
    retreat := r
    pos := 0
    held := []
    refs := if r then C.refs else []
    refFrom := since
    refMiss := r && C.refMiss }
  if s.tband = 2 then (s.setChan c { C1 with pos := C1.useRecords.length }).setWf (hcbAt c 0) 3 1 1
  else ((s.setChan c C1).setWf (hcbAt c 0) 2 1 r.toNat).setWf (hcbAt c 0) 3 1 0

/-- Whether the window of 256 ms that ends now holds fewer REF records than the band asks for. -/
def Chan.shortOfRefs (C : Chan) (now : Nat) : Bool :=
  match C.refFrom with
  | some n => decide (n + Config.refreshWindow ≤ now) &&
      decide ((C.refs.filter fun r => decide (now < r + Config.refreshWindow)).length < Config.refreshCount)
  | none => false

/-- A command that would break a timing rule is not issued. -/
def State.jedecBad (s : State) (c : Nat) : Bool := Config.jedecBreaks s.now c (s.chan c).pos

/-- REF: a window that ends before it and was short is remembered (R293). -/
def State.timelineRef (s : State) (c : Nat) : State :=
  let C := s.chan c
  if !C.retreat || s.jedecBad c then s
  else s.setChan c { C with
    refMiss := C.refMiss || C.shortOfRefs s.now
    refs := C.refs.filter (fun r => decide (s.now < r + Config.refreshWindow)) ++ [s.now] }

/-- Range entries that placed pages lock keep, for a frame, the copies and the generation of its start (R247). -/
def State.lockFrame (s : State) (p : Nat) : State :=
  let ns := (List.range 64).filter fun n => s.rValid p n && decide (s.rLock p n ≠ 0)
  s.setPart p { s.part p with
    locked := ns.map fun n => (n, s.w (rangeAt p n 3), s.w (rangeAt p n 4), BitVec.ofNat 64 (s.rGen p n)) }

/-! ## Locked translations (R247, R286) -/

/-- What a locked translation gives for an address: the copy that a read finds there (R283), a range entry's shadow copy, where
a sink writes, the rights, and the entry or page (0 and its number, or its size and base). -/
structure LockedAt where
  pa : Nat
  shadow : Option Nat
  rd : Bool
  wr : Bool
  unit : Nat × Nat
  deriving DecidableEq, Repr

/-- The locked translation of an address. -/
def State.lockedPa (s : State) (p : Nat) (us : List Nat) (va : Nat) : Option LockedAt :=
  let e := (s.part p).locked.find? fun e => decide (s.rBase p e.1 ≤ va) && decide (va < s.rLimit p e.1)
  match e with
  | some e =>
    let off := va - s.rBase p e.1
    let live := e.2.1.toNat + off
    let shadow := e.2.2.1.toNat + off
    some ⟨if 2 ≤ s.rShst p e.1 ∧ s.cowBit p e.1 (off / 8192) then shadow else live, some shadow,
      decide (s.rng p e.1 0 1 1 = 1), decide (s.rng p e.1 0 2 1 = 1), (0, e.1)⟩
  | none => us.findSome? fun u =>
    ((s.twe u).xlat.find? fun x => decide (x.2.1 ≤ va) && decide (va < x.2.1 + x.2.2.1)).map fun x =>
      ⟨x.2.2.2.1 + (va - x.2.1), none, decide (x.2.2.2.2 = 1), false, (x.2.2.1, x.2.1)⟩

/-- Whether the access table gives TWEs of a partition a right at an address (R284). -/
def State.tweRight (s : State) (p pa right : Nat) : Bool :=
  match matTarget pa with
  | some t => s.matRight t p 5 right
  | none => true

/-- GEN of the entry that holds an address, in this frame. -/
def State.lockedGen (s : State) (p va : Nat) : Nat :=
  match (s.part p).locked.find? fun e => decide (s.rBase p e.1 ≤ va) && decide (va < s.rLimit p e.1) with
  | some e => e.2.2.2.toNat
  | none => 0

/-- TWEs n of the blocks of a partition's graph. -/
def State.tweUnits (s : State) (p n : Nat) : List Nat :=
  (s.graphRegions p).flatMap fun r => (blocksOf r (s.region r).w (s.region r).h).map fun b => 4 * b + n

/-! ## Shape records (R299, R301) -/

/-- The parts of 64 bytes at an address under the locked translations, and whether all may be read: two where they have two
homes, or lie in two entries or two pages (R244, R285). -/
def State.lockedParts (s : State) (p : Nat) (us : List Nat) (va : Nat) : Option (List (Nat × Nat) × Bool) :=
  let a := 64 - va % 64
  let may := fun (x : LockedAt) => x.rd && s.tweRight p x.pa 0
  match s.lockedPa p us va with
  | none => none
  | some x =>
    if a = 64 then some ([(x.pa, 64)], may x)
    else (s.lockedPa p us (va + a)).map fun y =>
      (if y.pa = x.pa + a ∧ x.unit = y.unit ∧ homeOf x.pa = homeOf y.pa then [(x.pa, 64)] else [(x.pa, a), (y.pa, 64 - a)],
        may x && may y)

/-- A record read from memory under the locked translations, each line served at its home; none where a line of it may not or
cannot be read (R285, R295, R297). -/
def State.recordBytes (s : State) (p : Nat) (us : List Nat) (va : Nat) : State × Option (List Byte) :=
  (List.range 3).foldl (fun (acc : State × Option (List Byte)) k => match acc.2, acc.1.lockedPa p us (va + 64 * k) with
    | some bs, some x =>
      if !x.rd || !acc.1.tweRight p x.pa 0 || (otherPkg x.pa).isSome then (acc.1, none)
      else
        let v := acc.1.serveLine x.pa
        if v.2 then (v.1, some (bs ++ v.1.bytes (memKey x.pa) 64)) else (v.1, none)
    | _, _ => (acc.1, none)) (s, some [])

/-- Whether a destination of a record in a region is a timeline pond in the step's direction: its tile. -/
def State.destTile (s : State) (r : Nat) (drain : Bool) (d : Nat × Nat × Nat) : Option Nat :=
  (tileAt r (s.region r).w (s.region r).h d.1 d.2.1).filter fun t =>
    let e := ((s.tile t).pond d.2.2).entry
    peValid e && decide (peKind e = 2) && decide (peDir e = if drain then 1 else 0)

/-- The region and the TWE that a step serves: the lowest actor whose page holds DEST[0]'s timeline pond in the step's
direction, else the lowest one that holds another destination's, else the lowest page with an HBM actor; the TWE of
DEST[0]'s tile, of the page's first tile where that lies outside (log entry 33). -/
def State.stepOwner (s : State) (p : Nat) (x : Shape) (drain : Bool) (n : Nat) : Option (Nat × Nat × Nat) :=
  match x.dest with
  | [] => none
  | d :: _ =>
    let rs := (List.range 1024).filterMap fun a => s.regionOfActor p a
    let r := match rs.find? fun r => (s.destTile r drain d).isSome with
      | some r => some r
      | none => match rs.find? fun r => x.dest.any fun y => (s.destTile r drain y).isSome with
        | some r => some r
        | none => rs.find? fun r => decide (hRole (s.region r).hdr ≠ 0)
    r.map fun r =>
      let t := (tileAt r (s.region r).w (s.region r).h d.1 d.2.1).getD (regionTile r)
      (r, t, tweId t n)

/-- A record through the record cache of a TWE (64 records): loaded on first use. -/
def State.useRecord (s : State) (p n va : Nat) (drain : Bool) : State × Option (Shape × Nat × Nat × Nat) :=
  let us := s.tweUnits p n
  let own := fun (bs : List Byte) =>
    let x := Shape.ofBytes bs
    (s.stepOwner p x drain n).map fun o => (x, o)
  match us.findSome? fun u => ((s.twe u).recs.find? fun e => decide (e.1 = va)).map (·.2) with
  | some bs => (s, own bs)
  | none =>
    let m := s.recordBytes p us va
    match m.2 with
    | none => (m.1, none)
    | some bs => match own bs with
      | none => (m.1, none)
      | some (x, r, t, u) =>
        (m.1.setTwe u { m.1.twe u with recs := ((va, bs) :: (m.1.twe u).recs).take 64 }, some (x, r, t, u))

/-! ## Poison of a timeline (R292, R293, R300) -/

/-- Slots of an origin: a TWE, a memory timeline (R339). -/
def slotTwe : Nat := 4
def slotMem : Nat := 7

def State.tweOrigin (s : State) (p t slot cause : Nat) : Word := originWord t 0 slot cause (s.part p).fcyc

def Line.bad (org : Word) (l : Line) : Line := ⟨l.bits, BitVec.allOnes 64, org⟩

def State.countViol (s : State) (c : Nat) : State := s.bumpW (hcbAt c 0) 48 8 1

/-- The token of a TWE names the slot TWE (R339). -/
def Token.atTwe (t : Token) : Token :=
  { t with origin := if t.origin = t.sink then BitVec.ofNat 64 (setBits t.origin.toNat 16 3 4) else t.origin
           sink := BitVec.ofNat 64 (setBits t.sink.toNat 16 3 4) }

/-! ## Slot images (R300) -/

/-- Element k of the pieces of a tile, w bits wide, and whether its bytes are poisoned. -/
def elemAt (ls : List Line) (w k : Nat) : Nat × Option Word :=
  let l := (ls[k * w / 512]?).getD Line.zero
  let b := k * w % 512
  let touched := (List.range ((w + 7) / 8)).any fun i => l.pois.toNat.testBit (b / 8 + i)
  (bitsOf l.bits.toNat b w, if touched then some l.org else none)

/-- A line of the transposed image: element (i, j) stands at position j × TROWS + i. -/
def transLine (ls : List Line) (x : Shape) (q : Nat) : Line :=
  let w := x.width
  let per := 512 / w
  let es := (List.range per).map fun k =>
    let pos := q * per + k
    elemAt ls w (pos % x.rows * x.cols + pos / x.rows)
  let bits := pack (es.map fun e => (w, e.1))
  let pois := (List.range per).foldl (fun m k => match (es[k]?).bind (·.2) with
    | some _ => (List.range ((w + 7) / 8)).foldl (fun m i => Nat.lor m (2 ^ (k * w / 8 + i))) m
    | none => m) 0
  ⟨BitVec.ofNat 512 bits, BitVec.ofNat 64 pois, (es.findSome? (·.2)).getD 0⟩

/-- The image of a fill tile from its pieces: poisoned with HDR where one is missing or a block format is transposed. -/
def State.tileImage (s : State) (p t : Nat) (x : Shape) (a : AsmTile) : List Line :=
  let ls := (List.range x.pieces).map fun q => tget Line.zero a.pieces q
  let whole := (List.range x.pieces).all fun q => (tkeys a.pieces).any (· == q)
  if !whole || (x.transpose && (VFmt.ofCode x.fmt).block) then ls.map (Line.bad (s.tweOrigin p t slotTwe 0x16))
  else if x.transpose then (List.range x.pieces).map (transLine ls x)
  else ls

/-! ## Deliveries (R265, R300) -/

/-- Take a permit for a destination of a region, at TWE n of its own block; a miss is counted. -/
def State.takePermit (s : State) (n : Nat) (dest : Option Nat) (pond : Nat) (drain : Bool) (home : Nat) : State × Bool :=
  let miss := fun (u : Nat) => (s.bumpW (Config.twb (u / 4) (u % 4)) 0 32 1, false)
  match dest with
  | none => miss home
  | some t =>
    let u := tweId t n
    let k := s.permits u t pond drain
    if !peValid ((s.tile t).pond pond).entry ∨ k = 0 then miss u
    else (s.setPermits u t pond drain (k - 1), true)

/-- Fills under way into a pond. -/
def Region.filling (R : Region) (t pond : Nat) : Nat :=
  (R.jobs.filter fun j => j.dests.any fun d => decide (d.1 = t) && decide (d.2.1 = pond)).length

/-- Deliver an image to the destinations of a record: permits in DEST order, then one line a cycle side by side. -/
def State.deliverTile (s : State) (r n u : Nat) (x : Shape) (image : List Line) : State :=
  if (s.region r).killed then s
  else
    let step := fun (acc : State × List (Nat × Nat × Nat)) (d : Nat × Nat × Nat) =>
      let R := acc.1.region r
      let t := tileAt r R.w R.h d.1 d.2.1
      let k := acc.1.takePermit n t d.2.2 false u
      match t, k.2 with
      | some t, true =>
        let ix := (((acc.1.tile t).pond d.2.2).ww + BitVec.ofNat 32 (R.filling t d.2.2)).toNat
        (k.1, acc.2 ++ [(t, d.2.2, ix)])
      | _, _ => (k.1, acc.2)
    let (s1, dests) := x.dest.foldl step (s, [])
    if dests = [] then s1
    else
      let R := s1.region r
      s1.setRegion r { R with jobs := R.jobs ++ [⟨s1.now + 1, image, 0, dests, x.swz, x.fmt⟩] }

/-- Write the next line of a job to one destination; an image longer than the slot is poisoned with HDR. -/
def State.jobLine (s : State) (r : Nat) (j : TweJob) (d : Nat × Nat × Nat) : State :=
  let R := s.region r
  let T := s.tile d.1
  let q := T.pond d.2.1
  if peLines q.entry ≤ j.line then s
  else
    let c := s.frameCtx r d.1
    let v := (j.lines[j.line]?).getD Line.zero
    let v1 := if peLines q.entry < j.lines.length then Line.bad (c.origin slotTwe 0x16) v else v
    let o := T.writeSlot c d.2.1 d.2.2 j.line ⟨q.entry, j.swz, j.fmt⟩ v1 0 skTwe
    let T1 := o.tile.setPond d.2.1 { o.tile.pond d.2.1 with mon := q.mon }
    let T2 := if o.closed then T1.setWork d.2.1 (BitVec.ofNat 32 (d.2.2 + 1)) else T1
    let s1 := s.setTile d.1 T2
    s1.setRegion r { R with tokens := R.tokens ++ o.toks.map Token.atTwe }

/-- Lines of the longest slot of a job. -/
def State.jobLines (s : State) (j : TweJob) : Nat :=
  j.dests.foldl (fun m d => max m (peLines ((s.tile d.1).pond d.2.1).entry)) 0

/-- One cycle of the fills of a region. -/
def State.jobsStep (s : State) (r : Nat) : State :=
  let go := fun (s : State) (j : TweJob) => if s.now < j.from_ then s else j.dests.foldl (fun s d => s.jobLine r j d) s
  let s1 := (s.region r).jobs.foldl go s
  let next := (s.region r).jobs.filterMap fun (j : TweJob) =>
    if s.now < j.from_ then some j
    else if j.line + 1 < s.jobLines j then some { j with line := j.line + 1 } else none
  s1.setRegion r { s1.region r with jobs := next }

/-! ## Fill steps (R291, R295, R300) -/

/-- The assembly buffer's tile of a shape record. -/
def State.asmTile (s : State) (u shape : Nat) : AsmTile :=
  ((s.twe u).asm.find? fun a => decide (a.shape = shape)).getD ⟨shape, [], none⟩

def State.setAsm (s : State) (u : Nat) (a : AsmTile) : State :=
  let x := s.twe u
  s.setTwe u { x with asm := x.asm.filter (fun b => decide (b.shape ≠ a.shape)) ++ [a] }

def State.dropAsm (s : State) (u shape : Nat) : State :=
  let x := s.twe u
  s.setTwe u { x with asm := x.asm.filter fun b => decide (b.shape ≠ shape) }

/-- A piece of some tile that is held for repair. -/
def State.heldPiece (s : State) (u shape : Nat) : Bool :=
  s.chans.any fun e => e.2.held.any fun h => decide (h.twe = u) && decide (teShape h.step = shape)

/-- The tag of a cache slot. -/
def State.cacheTag (s : State) (p : Nat) (x : Shape) : Nat × Nat × Nat × Nat :=
  (x.handle, s.lockedGen p x.tbase, x.orgRow, x.orgCol)

/-- Put an image into operand-cache slots. -/
def State.fillCache (s : State) (p u slot : Nat) (x : Shape) (image : List Line) : State :=
  let n := (image.length + 7) / 8
  (List.range n).foldl (fun s k =>
    let y := s.twe u
    let v : CacheSlot := ⟨s.cacheTag p x, (image.drop (8 * k)).take 8⟩
    s.setTwe u { y with cache := tset CacheSlot.zero y.cache ((slot + k) % 512) v }) s

/-- The LAST step of a fill tile, once none of its pieces is held. -/
def State.finishTile (s : State) (p r t u : Nat) (x : Shape) (e : BitVec 128) : State :=
  let a := s.asmTile u (teShape e)
  if s.heldPiece u (teShape e) then s.setAsm u { a with last := some e }
  else
    let image := s.tileImage p t x a
    let s1 := s.dropAsm u (teShape e)
    let s2 := if teCache e then s1.fillCache p u (teSlot e) x image else s1
    s2.deliverTile r (teTwe e) u x image

/-- Place a piece in the assembly buffer, and finish the tile at its LAST step. -/
def State.putPiece (s : State) (p r t u : Nat) (x : Shape) (e : BitVec 128) (l : Line) : State :=
  let a := s.asmTile u (teShape e)
  let s1 := s.setAsm u { a with pieces := tput a.pieces (tePiece e) l }
  if teLast e then s1.finishTile p r t u x e
  else match a.last with
    | some e' => s1.finishTile p r t u x e'
    | none => s1

/-- Repair slots of a channel's timeline that this frame still has, from the present compiled cycle on. -/
def State.slotsLeft (s : State) (c : Nat) : Nat :=
  let C := s.chan c
  let P := s.part C.part
  ((C.useRecords.filter fun w => decide (rcCmd w = 8) && decide (P.fcyc ≤ rcCyc w) && decide (P.repairs ≠ rcCyc w + 1))).length

/-- Reads held in a partition's channels. -/
def State.heldReads (s : State) (p : Nat) : Nat :=
  ((s.chans.filter fun e => decide (e.2.part = p)).map fun e => e.2.held.length).foldl (· + ·) 0

/-- The cause that poisons a piece read at an address, if one: no locked translation, the address is not the one the
command names, a right that is missing, or a timing rule. -/
def State.readCause (s : State) (c bank col : Nat) (ps : Option (List (Nat × Nat) × Bool)) : Option Nat :=
  let C := s.chan c
  match ps.bind fun x => x.1.head?.map fun q => (q.1, x.2) with
  | none => some 0x05
  | some (pa, may) =>
    let here := match targetOf pa, otherPkg pa with
      | .hbm a, none => decide (chanOf a = c) && decide (bankOf a = bank) && decide (colOf a = col) &&
          decide (tget 0 C.open_ bank = rowOf a + 1)
      | _, _ => false
    if s.jedecBad c || !here then some 0x21
    else if !may then some 0x06
    else none

/-- The missed refresh count of a channel has been reported. -/
def State.clearMiss (s : State) (c : Nat) : State := s.setChan c { s.chan c with refMiss := false }

/-- Errors of the lines of some parts: the worst. -/
def State.partsErr (s : State) (ps : List (Nat × Nat)) : Nat := ps.foldl (fun n q => max n (s.lineErr (memKey q.1))) 0

/-- Whether the tags of the lines of some parts pass. -/
def State.partsTag (s : State) (ps : List (Nat × Nat)) : Bool := ps.all fun q => s.tagOk (memKey q.1 / 128)

/-- The bytes of some parts. -/
def State.partsBytes (s : State) (ps : List (Nat × Nat)) : List Byte := ps.flatMap fun q => s.bytes (memKey q.1) q.2

/-- The votes of the stacks that some places lie in: false where one is degraded (R297). -/
def State.voteAll (s : State) : List Nat → State × Bool
  | [] => (s, true)
  | pa :: ps =>
    let v := s.voteLine pa
    if v.2 then v.1.voteAll ps else (v.1, false)

/-- Count a split access of a TWE (R244). -/
def State.tweSplit (s : State) (u : Nat) (ps : List (Nat × Nat)) : State :=
  if ps.length < 2 then s else s.bumpW (Config.twb (u / 4) (u % 4) + 8) 0 32 1

/-- RD: a fill step's piece is read (R300). -/
def State.timelineRead (s0 : State) (c bank col step : Nat) : State :=
  let p := (s0.chan c).part
  let e := (s0.chan c).step step
  let missed := (s0.chan c).refMiss || (s0.chan c).shortOfRefs s0.now
  let s := if missed then s0.clearMiss c else s0
  if teDrain e then s
  else
    let r0 := s.useRecord p (teTwe e) (teShape e) false
    match r0.2 with
    | none => r0.1
    | some (x, r, t, u) =>
      let s1 := r0.1
      let va := x.pieceVa (tePiece e)
      let ps := s1.lockedParts p [u] va
      match (if missed then some 0x21 else s1.readCause c bank col ps), ps with
      | some 0x21, _ => (s1.countViol c).putPiece p r t u x e (Line.bad (s.tweOrigin p t slotMem 0x21) Line.zero)
      | some k, _ => s1.putPiece p r t u x e (Line.bad (s.tweOrigin p t slotMem k) Line.zero)
      | none, none => s1
      | none, some (ps, _) =>
        let v := (s1.tweSplit u ps).voteAll (ps.map (·.1))
        let ue := Line.bad (s.tweOrigin p t slotMem 0x20) Line.zero
        if !v.2 || !v.1.partsTag ps then v.1.putPiece p r t u x e ue
        else if v.1.partsErr ps = 0 then v.1.putPiece p r t u x e ⟨BitVec.ofNat 512 (bytesNat (v.1.partsBytes ps)), 0, 0⟩
        else if v.1.heldReads p < v.1.slotsLeft c then
          let s3 := v.1.setChan c { v.1.chan c with held := (v.1.chan c).held ++
            [⟨s.now, u, e, ps, v.1.partsBytes ps, v.1.partsErr ps⟩] }
          if teLast e then s3.finishTile p r t u x e else s3
        else (v.1.bumpW (hcbAt c 0) 40 8 1).putPiece p r t u x e ue

/-- TWSTEP: a delivery from the operand cache (R300). -/
def State.timelineCache (s : State) (c step : Nat) : State :=
  let p := (s.chan c).part
  let e := (s.chan c).step step
  let r0 := s.useRecord p (teTwe e) (teShape e) false
  match r0.2 with
  | none => r0.1
  | some (x, r, t, u) =>
    let s1 := r0.1
    let slots := (List.range ((x.pieces + 7) / 8)).map fun k => tget CacheSlot.zero (s1.twe u).cache ((teSlot e + k) % 512)
    let lines := (slots.flatMap fun y => (List.range 8).map fun i => (y.lines[i]?).getD Line.zero).take x.pieces
    if slots.all fun y => decide (y.tag = s1.cacheTag p x) && decide (y.lines ≠ []) then s1.deliverTile r (teTwe e) u x lines
    else
      let s2 := s1.bumpW (Config.twb (u / 4) (u % 4) + 8) 32 32 1
      s2.deliverTile r (teTwe e) u x (lines.map (Line.bad (s.tweOrigin p t slotTwe 0x05)))

/-! ## Drain steps (R265, R287, R300) -/

/-- The index of the slot that a drain takes: the oldest that is FULL, or closed by this frame's firing, and not drained. -/
def Tile.drainSlot (T : Tile) (pond : Nat) : Option Nat :=
  let q := T.pond pond
  ((List.range (q.ww - q.cr).toNat).map fun i => (q.cr + BitVec.ofNat 32 i).toNat).find? fun x =>
    let m := T.slot pond x
    !T.isDrained pond x && !smSluice m && (decide (smState m = 2) || (decide (smState m = 1) && smClosed m))

/-- The lines of a slot as a TWE reads them. -/
def Tile.drainLines (T : Tile) (org : Nat → Word) (pond x : Nat) : List Line :=
  let e := (T.pond pond).entry
  (List.range (peLines e)).map fun l =>
    let k := 1536 * peBank e + peLine e x l % 1536
    let v : Line := ⟨tget 0 T.banks k, 0, 0⟩
    if smPois (T.slot pond x) then Line.bad (org 0x10) v
    else if T.bankUe.any (· == k) then Line.bad (org 0x23) v
    else v

/-- The start of a drain tile, at its first WR: from DEST[0]'s pond, where that is one of the region's drained ponds. -/
def State.startDrain (s : State) (p r u n : Nat) (x : Shape) (shape : Nat) : State × Drain :=
  let miss := (s.bumpW (Config.twb (u / 4) (u % 4)) 0 32 1, Drain.mk shape u none 0)
  match x.dest with
  | [] => miss
  | d :: _ => match (if x.wb then s.destTile r true d else none) with
    | none => miss
    | some t => match (s.tile t).drainSlot d.2.2 with
      | none => miss
      | some i =>
        let k := s.takePermit n (some t) d.2.2 true u
        if !k.2 then (k.1, ⟨shape, u, none, 0⟩)
        else
          let T := k.1.tile t
          let T1 := { T with drained := slotKey d.2.2 i (T.pond d.2.2).entry :: T.drained }
          let T2 := (List.range (peLines (T.pond d.2.2).entry)).foldl (fun T l => T.noteSlot d.2.2 i l) T1
          (k.1.setTile t T2, ⟨shape, u, some (T.drainLines (s.tweOrigin p t slotTwe) d.2.2 i), 0⟩)

/-- A token of an HBM sink. -/
def State.hbmSink (s : State) (p r t : Nat) (org : Word) : State :=
  let place := BitVec.ofNat 64 (setBits (s.tweOrigin p t slotTwe (ocause org)).toNat 24 8 (ocause org))
  s.sendTokens r [⟨ocause org, org, place, skHbm, 0⟩]

/-- The parts of a drained piece: entry, local address of its shadow copy, length, and whether all may be written; none where
it has no such place. -/
def State.drainParts (s : State) (p u va : Nat) : Option (List (Nat × Nat × Nat) × Bool) :=
  let at_ := fun (va n : Nat) => match s.lockedPa p [u] va with
    | some x => match x.shadow with
      | some pa => match targetOf pa, otherPkg pa with
        | .hbm a, none => some ((x.unit.2, a, n), x.wr && s.tweRight p a 1)
        | _, _ => none
      | none => none
    | none => none
  let a := 64 - va % 64
  if a = 64 then (at_ va 64).map fun x => ([x.1], x.2)
  else match at_ va a, at_ (va + a) (64 - a) with
    | some (x, m), some (y, n) =>
      some (if y.2.1 = x.2.1 + a ∧ x.1 = y.1 ∧ chanOf x.2.1 = chanOf y.2.1 then [(x.1, x.2.1, 64)] else [x, y], m && n)
    | _, _ => none

/-- Write the bytes of a drained piece into its parts; the entries count as written by the firing. -/
def State.putParts (s : State) (u r : Nat) : List (Nat × Nat × Nat) → List Byte → State
  | [], _ => s
  | q :: qs, bs =>
    let s1 := s.storeBytes (.twe u) q.2.1 (bs.take q.2.2)
    (s1.setRegion r { s1.region r with wrote := addNew q.1 (s1.region r).wrote }).putParts u r qs (bs.drop q.2.2)

/-- One WR of a drain tile: a 64-byte piece to the shadow destination, whatever place its record names: the copies of a sink
exchange at every retirement (R287, R300; log entry 101). -/
def State.drainPiece (s : State) (c p r t u : Nat) (x : Shape) (e : BitVec 128) (l : Line) : State :=
  let va := x.pieceVa (tePiece e)
  let bad := fun (k : Nat) => s.hbmSink p r t (s.tweOrigin p t slotMem k)
  if l.pois ≠ 0 then s.hbmSink p r t l.org
  else if s.jedecBad c then (s.countViol c).hbmSink p r t (s.tweOrigin p t slotMem 0x21)
  else match s.drainParts p u va with
    | none => bad 0x05
    | some (ps, may) =>
      if !may then bad 0x06
      else
        let v := s.voteAll (ps.map (·.2.1))
        if !v.2 then v.1.hbmSink p r t (s.tweOrigin p t slotMem 0x06)
        else (v.1.tweSplit u (ps.map (·.2))).putParts u r ps (natBytes l.bits.toNat 64)

/-- WR: a step of a drain tile; held while the region is frozen. -/
def State.timelineWrite (s : State) (c : Nat) (e : BitVec 128) : State :=
  let p := (s.chan c).part
  if !teDrain e then s
  else
    let r0 := s.useRecord p (teTwe e) (teShape e) true
    match r0.2 with
    | none => r0.1
    | some (x, r, t, u) =>
      let s0 := r0.1
      let R := s0.region r
      if R.killed then s0
      else if R.frozen then s0.setRegion r { R with heldWr := R.heldWr ++ [(c, e)] }
      else
        let d0 := match R.drains.find? fun d => decide (d.shape = teShape e) && decide (d.twe = u) with
          | some d => (s0, d)
          | none => s0.startDrain p r u (teTwe e) x (teShape e)
        let d := d0.2
        let s1 := d0.1
        let last := teLast e || decide (x.pieces ≤ d.done + 1)
        let R1 := s1.region r
        let rest := R1.drains.filter fun y => !(decide (y.shape = d.shape) && decide (y.twe = d.twe))
        let s2 := s1.setRegion r { R1 with drains := if last then rest else rest ++ [{ d with done := d.done + 1 }] }
        match d.lines with
        | none => s2
        | some ls => s2.drainPiece c p r t u x e ((ls[tePiece e]?).getD Line.zero)

/-- WRs that a frozen region held are made when it goes on. -/
def State.heldWrites (s : State) (r : Nat) : State :=
  let R := s.region r
  if R.heldWr = [] then s
  else R.heldWr.foldl (fun s w => s.timelineWrite w.1 w.2) (s.setRegion r { R with heldWr := [] })

/-! ## The other commands (R291, R295) -/

def State.timelineAct (s : State) (c bank row : Nat) : State :=
  if s.jedecBad c then s else s.setChan c { s.chan c with open_ := tset 0 (s.chan c).open_ bank (row + 1) }
def State.timelinePre (s : State) (c bank : Nat) : State :=
  if s.jedecBad c then s else s.setChan c { s.chan c with open_ := tset 0 (s.chan c).open_ bank 0 }
def State.timelinePrea (s : State) (c : Nat) : State :=
  if s.jedecBad c then s else s.setChan c { s.chan c with open_ := [] }
/-- OPEN: dynamic requests are served for LEN cycles, and every bank is closed by their end. -/
def State.timelineOpen (s : State) (c len : Nat) : State :=
  s.setChan c { s.chan c with openUntil := s.now + len, open_ := [] }
/-- END: the channel issues nothing more in this frame. -/
def State.timelineEnd (s : State) (c : Nat) : State :=
  s.setChan c { s.chan c with pos := (s.chan c).useRecords.length }

/-- The oldest read held in the channels of a partition, with its channel. -/
def State.oldestHeld (s : State) (p : Nat) : Option (Nat × HeldRead) :=
  (s.chans.filter fun e => decide (e.2.part = p)).foldl (fun (best : Option (Nat × HeldRead)) e =>
    match e.2.held, best with
    | [], _ => best
    | h :: _, some (c, b) => if h.at_ < b.at_ then some (e.1, h) else some (c, b)
    | h :: _, none => some (e.1, h)) none

/-- REPAIR: a slot not yet used in this frame repairs the oldest held read of the graph, and pauses the partition for 96
cycles; an unused slot costs nothing (R295, R296). -/
def State.timelineRepair (s : State) (c : Nat) : State :=
  let p := (s.chan c).part
  let P := s.part p
  if P.repairs = P.fcyc + 1 then s
  else match s.oldestHeld p with
    | none => s
    | some (k, h) =>
      let K := s.chan k
      let s1 := (s.setChan k { K with held := K.held.drop 1 }).setPart p { P with repairs := P.fcyc + 1, pause := P.pause + 96 }
      let s2 := s1.bumpDc p 0 1
      let ok := decide (h.err ≤ 1)
      let mend := fun (m : Tab Nat) (q : Nat × Nat) => tset 0 m (memKey q.1 / 64) 0
      let s3 := if ok then { s2 with hbmErr := h.parts.foldl mend s2.hbmErr }.bumpW (hcbAt k 0) 16 16 1
        else s2.bumpW (hcbAt k 0) 32 8 1
      let r0 := s3.useRecord p (teTwe h.step) (teShape h.step) false
      match r0.2 with
      | none => r0.1
      | some (x, r, t, u) =>
        let v := if ok then ⟨BitVec.ofNat 512 (bytesNat h.data), 0, 0⟩ else Line.bad (s3.tweOrigin p t slotMem 0x20) Line.zero
        r0.1.putPiece p r t u x h.step v

/-- The record that a channel's timeline issues in this cycle, if one. -/
def State.dueRecord (s : State) (c : Nat) : Option Word :=
  let C := s.chan c
  let P := s.part C.part
  let runs := match P.stage with
    | .compute | .weir _ | .comm => decide (P.pause = 0)
    | _ => false
  match C.useRecords[C.pos]? with
  | some w => if runs && decide (rcCyc w ≤ P.fcyc) then some w else none
  | none => none

/-- A channel issues its record: the position moves on, and the command acts. -/
def State.issueRecord (s : State) (c : Nat) : State :=
  match s.dueRecord c with
  | none => s
  | some w =>
    let s1 := s.setChan c { s.chan c with pos := (s.chan c).pos + 1 }
    match rcCmd w with
    | 0 => s1.timelineEnd c
    | 1 => s1.timelineAct c (rcBank w) (rcRow w)
    | 2 => s1.timelinePre c (rcBank w)
    | 3 => s1.timelinePrea c
    | 4 => s1.timelineRead c (rcBank w) (rcCol w) (rcStep w)
    | 5 => s1.timelineWrite c ((s1.chan c).step (rcStep w))
    | 7 => s1.timelineRef c
    | 8 => s1.timelineRepair c
    | 9 => s1.timelineOpen c (rcRow w)
    | 10 => s1.timelineCache c (rcStep w)
    | _ => s1

/-- Dynamic-mode refresh (R289, R293): rows are refreshed and no state of the model changes. -/
def State.refreshDynamic (s : State) (_ : Nat) : State := s

end Sys2Proof.Machine
end

