-- ==== Sys2Proof/Machine/SysOps.lean ====
section
/-! DEFINITION. Operations of the C-SYS class (R203 to R223, R313 to R316, R332, R392, R393): control registers, events,
counters, launch and range entries, the journal, the sluice, shape records, a region's conditions and iterations. -/

namespace Sys2Proof.Machine

/-! ## Control registers (R41, R203) -/

/-- SETCR: the cause it freezes with, or the state after it. -/
def State.crWrite (s : State) (t : Nat) (T : Thread) (cr : Nat) (v : Word) : Except Nat State :=
  if cr = 0x13 then
    if T.priv = 3 then .ok (s.setThread t { T with lattol := v.setWidth 32 }) else .error 0x03
  else if 0x20 ≤ cr ∧ cr ≤ 0x2B then
    if 2 ≤ T.priv then .ok (s.setW (prbAt T.part (0x1100 + 8 * (cr - 0x20))) (watchValue (cr - 0x20) v)) else .error 0x03
  else if 0x30 ≤ cr ∧ cr ≤ 0x35 then
    if 2 ≤ T.priv then .ok (s.setW (dcAt T.part (cr - 0x30)) 0) else .error 0x03
  else .error 0x01

/-! ## Traps and ends (R205, R206, R228, R393) -/

/-- TRAP and SVC complete and then freeze. -/
def State.trap (s : State) (t cause code : Nat) : State :=
  let T := { s.thread t with pc := (s.thread t).pc + 1 }
  s.freezeThreadT t T { cause := cause, aux := BitVec.ofNat 64 code }

/-- A cellar firmware thread at word 0 with every register 0. -/
def cellarThread (T : Thread) : Thread :=
  { Thread.zero with
    kind := .cellar
    status := .running
    priv := 3
    code := T.code
    codeLen := T.codeLen
    codeUe := T.codeUe
    codeCe := T.codeCe }

/-- The take-over thread ends: cellar-B goes on as the active core once FKILL has made it so; else it stands by again
where cellar-A has been resumed, and where it has not no core is active. -/
def State.endTakeover (s : State) (t : Nat) : State :=
  let T := s.thread t
  let s1 := s.endHandler t
  if s.wf (crbAt 0) 0 1 = 1 then s1.setThread t (cellarThread T)
  else
    let s2 := s1.setThread t { cellarThread T with status := .none }
    match (s.thread 0).status with
    | .frozen | .none => s2.stopPair
    | _ => s2

def State.hend (s : State) (t : Nat) (T : Thread) : State := if T.takeover then s.endTakeover t else s.endHandler t

def State.haltThread (s : State) (t : Nat) (T : Thread) : State :=
  if T.takeover then s.haltCellar t else s.endThread t 0

/-! ## Events (R207) -/

def State.kickBit (s : State) (q : Nat) : Bool := decide (s.wf (crbAt (0x10 + 8 * (q / 64))) (q % 64) 1 = 1)
def State.anyKick (s : State) : Bool := (List.range 4).any fun k => decide (s.w (crbAt (0x10 + 8 * k)) ≠ 0)

/-- The events pending for a thread. -/
def State.pendingEvents (s : State) (T : Thread) (until_ : Word) : Nat :=
  let e := fun (k : Nat) => (s.events.testBit k).toNat
  let p := fun (k : Nat) => ((s.part T.part).events.testBit k).toNat
  pack [(1, s.anyKick.toNat), (1, e 1), (1, e 2), (1, p 3), (1, p 4), (1, e 5), (1, e 6),
    (1, (decide (until_.toNat ≤ s.now)).toNat), (1, p 8)]

/-- Clear bits of a number. -/
def clearBits (n mask : Nat) : Nat := n - Nat.land n mask

/-- Release a WAITEV with the selected events that are pending; the edge events among them are cleared. -/
def State.takeEvents (s : State) (t d mask : Nat) (until_ : Word) : State :=
  let T := s.thread t
  let n := Nat.land (s.pendingEvents T until_) mask
  let P := s.part T.part
  let s1 := { s with events := clearBits s.events n }.setPart T.part { P with events := clearBits P.events n }
  s1.release t d (BitVec.ofNat 64 n)

/-- Bits of a mask that only kind C may select. -/
def cellarEvents (mask : Nat) : Bool := decide (Nat.land mask 0x67 ≠ 0)

def State.waitev (s : State) (t : Nat) (T : Thread) (d mask : Nat) (until_ : Word) : State :=
  if mask = 0 then s.freezeThread t 0x01
  else if cellarEvents mask ∧ !T.isKind .cellar then s.freezeThread t 0x03
  else if Nat.land (s.pendingEvents T until_) mask ≠ 0 then s.takeEvents t d mask until_
  else s.waitFor t (.waitev d mask until_)

def State.waitevRelease (s : State) (t : Nat) : State :=
  let T := s.thread t
  match T.status with
  | .waiting (.waitev d mask u) => if Nat.land (s.pendingEvents T u) mask ≠ 0 then s.takeEvents t d mask u else s
  | _ => s

/-! ## Timeline counters (R208 to R210) -/

def handleIdx (h : Word) : Nat := bitsOf h.toNat 0 12
def handlePkg (h : Word) : Nat := bitsOf h.toNat 12 10

/-- Whether a thread may name a timeline handle. -/
def handleOf (T : Thread) (h : Word) : Bool :=
  decide (h.toNat < 2 ^ 22) && (T.asCellar || decide (handleIdx h / 256 = T.part))
/-- Whether it names a counter of this package. -/
def handleLocal (h : Word) : Bool := decide (handlePkg h = Config.pkgId.toNat)

/-- TLSIG: one cycle for the thread; the update waits for its release. -/
def State.tlsig (s : State) (t : Nat) (T : Thread) (h v : Word) (add : Bool) : State :=
  if !handleOf T h then s.freezeThread t 0x06 h
  else
    let scope := if handleLocal h then 4 else 5
    match T.hears scope with
    | some d => s.freezeDenied t d
    | none =>
      let pa := 2 ^ 51 + 2 ^ 41 * handlePkg h + handleIdx h
      let w := threadWrite t T pa h (natBytes v.toNat 8) (.tlsig (handleIdx h) add) 2 scope
      if s.holdsOf T then (s.holdAccess w).stepOn t else (s.issueSignal w).stepOn t

/-- Whether a wait for a counter is met for a thread. -/
def State.tlwtMet (s : State) (t i : Nat) (v : Word) : Bool := reached (s.counter i) v && !s.signalling t i

def State.tlwt (s : State) (t : Nat) (T : Thread) (d : Nat) (h v : Word) (n : Nat) : State :=
  if !handleOf T h || !handleLocal h then s.freezeThread t 0x06 h
  else if s.tlwtMet t (handleIdx h) v then (s.acquireNow t).release t d 1
  else s.waitFor t (.tlwt d (handleIdx h) v (deadlineOf s.now n))

def State.tlwtRelease (s : State) (t : Nat) : State :=
  match (s.thread t).status with
  | .waiting (.tlwt d i v _) => if s.tlwtMet t i v then (s.acquireNow t).release t d 1 else s
  | _ => s

def State.tlwtTimeout (s : State) (t : Nat) : State :=
  match (s.thread t).status with
  | .waiting (.tlwt d i v (some n)) => if n ≤ s.now && !s.tlwtMet t i v then s.release t d 0 else s
  | _ => s

/-- TLSET; it stays at its word while an earlier update of the thread is on its way to the counter. -/
def State.tlset (s : State) (t : Nat) (T : Thread) (h v : Word) : State :=
  if !handleOf T h || !handleLocal h then s.freezeThread t 0x06 h
  else if s.signalling t (handleIdx h) then s.retryNext t
  else (s.setCounter (handleIdx h) v).stepOn t

/-! ## Dependence counters (R211, R316) -/

def State.dep (s : State) (i : Nat) : BitVec 32 := tget 0 s.deps i

/-- DEPDEC's effect on the counter. -/
def State.depDec (s : State) (i : Nat) : State :=
  let c := s.dep i
  if c = 0 then
    let id := tget 0 s.depTask i
    let s1 := match s.tasks.find? fun t => decide (t.id = id) with
      | some t => s.setWf (queueAt t.queue 3) 0 1 1
      | none => s
    s1.raise 1
  else
    let s1 := { s with deps := tset 0 s.deps i (c - 1) }
    if c = 1 then (s1.depReady i).raise 2 else s1

def State.depdec (s : State) (t : Nat) (T : Thread) (d : Nat) (h : Word) : State :=
  if 2 ^ 12 ≤ h.toNat ∨ (!T.asCellar ∧ h.toNat / 256 ≠ T.part) then s.freezeThread t 0x06
  else s.afterRelease t 4 fun s =>
    let s1 := s.depDec h.toNat
    s1.stepWith t d ((s1.dep h.toNat).setWidth 64)

def State.depset (s : State) (t : Nat) (h v : Word) : State :=
  if 2 ^ 12 ≤ h.toNat ∨ 2 ^ 32 ≤ v.toNat then s.freezeThread t 0x06 else (s.depSet h.toNat (v.setWidth 32)).stepOn t

/-! ## Range entries (R218, R219, R248, R282, R283) -/

/-- Whether a linked entry of a partition's chains that is not complete writes into a range entry. -/
def State.stagedInto (s : State) (p n : Nat) : Bool :=
  (List.range 16).any fun e => (s.chain (16 * p + e)).entries.any fun x =>
    match s.entryPa p x with
    | none => false
    | some pa => ((CopyEntry.ofBytes (s.bytes (memKey pa) 64)).lines fun _ => 64).any fun l => decide (s.rangeOf p l.2.1 = some n)

/-- PUBL: the new generation, or 0 where refused. -/
def State.publ (s : State) (p : Nat) (a : Word) : State × Word :=
  let n := a.toNat
  if 64 ≤ n then (s, 0)
  else if !s.rShd p n || s.rSink p n || decide (2 ≤ s.rShst p n) || s.stagedInto p n then (s, 0)
  else
    let s1 := s.publish p n
    (s1, BitVec.ofNat 64 (s1.rGen p n))

/-- Writes translated to a range entry that are not yet performed. -/
def State.entryWrites (s : State) (p n : Nat) : Bool :=
  let size := s.rLimit p n - s.rBase p n
  s.writes.any fun w => !w.performed && (overlaps w.pa w.len (s.rLive p n) size || overlaps w.pa w.len (s.rShadow p n) size)

/-- Clear COWMAP. -/
def State.clearCow (s : State) (p n : Nat) : State :=
  let chunks := (s.rLimit p n - s.rBase p n + 8191) / 8192
  s.storeBytes .hub (memKey (s.rCow p n)) (List.replicate ((chunks + 7) / 8) 0)

/-- SNAP: the pinned generation, or 0; the thread is held while a translated write has not been performed, and writes that
arrive meanwhile are held at their translation. -/
def State.snap (s : State) (t d p : Nat) (a : Word) : State :=
  let n := a.toNat % 64
  let free := { s with snaps := s.snaps.filter fun x => decide (x.1 ≠ t) }
  if !s.rShd p n || s.rSink p n || decide (s.rShst p n ≠ 0) then (free.acquireNow t).stepWith t d 0
  else if s.entryWrites p n then { free with snaps := free.snaps ++ [(t, p, n)] }.retryNext t
  else
    let s1 := ({ free with snapAt := tset 0 s.snapAt (64 * p + n) s.now }.clearCow p n).setWf (rangeAt p n 6) 32 32 (s.rGen p n)
    ((s1.setWf (rangeAt p n 0) 6 2 2).acquireNow t).stepWith t d (BitVec.ofNat 64 (s.rGen p n))

/-- Whether a copy engine still reads the live copy of an entry. -/
def State.snapReads (s : State) (p n : Nat) : Bool :=
  s.writes.any fun w => !w.performed && (match w.kind with
    | .copy c src => decide (c / 16 = p) && overlaps src w.len (s.rLive p n) (s.rLimit p n - s.rBase p n)
    | _ => false)

/-- UNSNAP: 1 where the entry was pinned, and its fold starts. -/
def State.unsnap (s : State) (t d p : Nat) (a : Word) : State :=
  let n := a.toNat % 64
  if s.rShst p n ≠ 2 then (s.acquireNow t).stepWith t d 0
  else if s.snapReads p n then s.retryNext t
  else ({ s.setWf (rangeAt p n 0) 6 2 3 with folds := s.folds ++ [(p, n)] }.acquireNow t).stepWith t d 1

/-- Copy those of the first `chunks` chunks that the working copy does not hold yet. -/
def State.copyRest (s : State) (p n chunks : Nat) : State :=
  (List.range chunks).foldl (fun s c => if s.cowBit p n c then s else s.cowCopy p n c) s

/-- After a fold the copies that a frame has in force exchange with the entry's: no reader sees a value change (R247, R283). -/
def State.relock (s : State) (p n : Nat) : State :=
  let P := s.part p
  let turn := fun (e : Nat × Word × Word × Word) => if e.1 = n then (e.1, e.2.2.1, e.2.1, e.2.2.2) else e
  s.setPart p { P with locked := P.locked.map turn }

/-- The fold of an entry completes: the chunks still live are copied, and the copies exchange. -/
def State.foldComplete (s : State) (p n : Nat) : State :=
  if s.folds.any (· == (p, n)) && decide (s.rShst p n = 3) then
    let s1 := s.copyRest p n ((s.rLimit p n - s.rBase p n + 8191) / 8192)
    ({ s1.publish p n with folds := s1.folds.filter fun x => !(x == (p, n)) }).relock p n
  else s

/-! ## Kicks and the journal (R214, R215, R310, R392) -/

/-- The first set bit at or after j, scanning upward and wrapping. -/
def State.kickFrom (s : State) (j : Nat) : Word :=
  match (List.range 256).find? fun k => s.kickBit ((j + k) % 256) with
  | some k => BitVec.ofNat 64 ((j + k) % 256)
  | none => BitVec.allOnes 64

/-- Whether the next record of a queue is stale: its phase is not the expected one. -/
def State.queueStale (s : State) (q : Nat) : Bool :=
  let slog := s.wf (queueAt q 0) 1 4
  let i := s.wf (queueAt q 2) 0 32
  let a := s.wf (queueAt q 1) 8 44 * 256 + 256 * (i % 2 ^ slog)
  decide (s.mget (memKey a) 1 % 2 ≠ bitsOf i slog 1)

/-- KICKSCAN clear of bit j, which a kick of the same cycle leaves set: a kick that found no new record is counted in STALE. -/
def State.kickClear (s : State) (j : Nat) : State :=
  let s1 := if s.kicked.any (· == j) then s else s.setWf (crbAt (0x10 + 8 * (j / 64))) (j % 64) 1 0
  let valid := decide (j < 255) && decide (s.wf (queueAt j 0) 0 1 = 1)
  let s2 := if valid && s.kickBit j && s.queueStale j && !(s.qread.any (· == j)) then s1.bumpW (queueAt j 3) 16 16 1 else s1
  { s2 with qread := s2.qread.filter (· ≠ j) }

/-- One bit of CRC-32 (IEEE 802.3), least significant bit first. -/
def crcStep (c : Nat) : Nat → Nat
  | 0 => c
  | n + 1 => crcStep (if c % 2 = 1 then Nat.xor (c / 2) 0xEDB88320 else c / 2) n

/-- CRC-32 (IEEE 802.3) of some bytes. -/
def crc32 (bs : List Byte) : Nat :=
  Nat.xor (bs.foldl (fun c b => crcStep (Nat.xor c b.toNat) 8) 0xFFFFFFFF) 0xFFFFFFFF

/-- Where the entry of a serial stands in the journal ring (R392). -/
def journalAt (n : Nat) : Nat := crbAt (0x100000 + 32 * (n % 16384))

/-- The CRC of an entry (R215). -/
def journalCrc (n a b tag : Nat) : Nat := crc32 (natBytes n 8 ++ natBytes a 8 ++ natBytes b 8 ++ natBytes tag 4)

/-- Whether the ring holds the entry of a serial, its CRC intact (R329, R392). -/
def State.journalOk (s : State) (n : Nat) : Bool :=
  let at_ := journalAt n
  decide ((s.w at_).toNat = n) &&
    decide (s.wf (at_ + 24) 32 32 = journalCrc n (s.w (at_ + 8)).toNat (s.w (at_ + 16)).toNat (s.wf (at_ + 24) 0 32))

/-- The serial from which JEND counts: JCKPT, or the first entry where no checkpoint stands in the journal. -/
def State.journalFrom (s : State) : Nat := max 1 (s.w (crbAt 0x9098)).toNat

/-- The last serial of an unbroken run of entries that starts at k, among the next few. -/
def State.journalRun (s : State) (k : Nat) : Nat → Nat
  | 0 => k - 1
  | n + 1 => if s.journalOk k then s.journalRun (k + 1) n else k - 1

/-- JEND after an entry has failed or has been overwritten: the run of good entries from JCKPT on; where JCKPT's own entry is
no longer good, no serial meets R392, and the value is free (log entry 136). -/
def State.journalEnd (s : State) : State :=
  let c := s.journalFrom
  if s.journalSerial = 0 then s
  else if s.journalOk c then s.setW (crbAt 0x9090) (BitVec.ofNat 64 (s.journalRun c (s.journalSerial + 1 - c)))
  else { s.setW (crbAt 0x9090) (BitVec.ofNat 64 (Config.freeNat s.free)) with free := s.free + 1 }

/-- Append a journal entry. JEND follows where the run of good entries from JCKPT reaches it; the entry that JCKPT names may
be the one overwritten (R215, R392). -/
def State.journal (s : State) (a b : Word) (tag : Nat) : State :=
  let n := s.journalSerial + 1
  let at_ := journalAt n
  let s1 := ((s.setW at_ (BitVec.ofNat 64 n)).setW (at_ + 8) a).setW (at_ + 16) b
  let s2 := { s1.setW (at_ + 24) (BitVec.ofNat 64 (tag + 2 ^ 32 * journalCrc n a.toNat b.toNat tag)) with journalSerial := n }
  if tag = 0x0F then (s2.setW (crbAt 0x9090) (BitVec.ofNat 64 n)).setW (crbAt 0x9098) (BitVec.ofNat 64 n)
  else if n = s.journalFrom + 16384 then s2.journalEnd
  else if s2.journalOk s.journalFrom && decide (s.w (crbAt 0x9090) = BitVec.ofNat 64 s.journalSerial) then
    s2.setW (crbAt 0x9090) (BitVec.ofNat 64 n)
  else s2

/-! ## The sluice (R217, R269) -/

/-- The partition that runs the graph of a launch serial. -/
def State.graphOf (s : State) (serial : Nat) : Option (Nat × Graph) :=
  (List.range 16).findSome? fun p => match (s.part p).graph with
    | some g => if g.serial = serial then some (p, g) else none
    | none => none

/-- Whether a graph has a timeline input pond on this package. -/
def State.timelineIn (s : State) (p : Nat) : Bool :=
  (s.graphRegions p).any fun r => ((s.region r).tilesOf r).any fun t =>
    let T := s.tile t
    T.inputs.any fun k => decide (peKind (T.pond k).entry = 2)

/-- The first frame, starting from the next one, at whose start every region has PHASE 0. A frame whose cycle 0 an arc wait
holds has started, and its firings are still to come. -/
def State.sluiceFrame (s : State) (p : Nat) : Option Nat :=
  let P := s.part p
  let between := match P.stage with
    | .boundary | .held => true
    | _ => false
  let waits := decide (P.stage = .arcWait)
  let next := if between then P.frame else P.frame + 1
  let ps := (s.graphRegions p).map fun r =>
    let R := s.region r
    (if between || (R.fin && !waits) then R.phase else R.phase + 1, hPhases R.hdr)
  (phaseZero ps 0 720721).map fun k => next + k

/-- SLUICE: the frame its tokens enter in, or 0 where refused. -/
def State.sluiceOf (s : State) (T : Thread) (a b : Word) : State × Word :=
  let set := b.toNat
  match s.graphOf a.toNat with
  | none => (s, 0)
  | some (p, g) =>
    let sets := match g.decl with
      | some d => d.rates.length
      | none => 8
    if 8 ≤ set ∨ sets ≤ set ∨ (!T.asCellar ∧ T.part ≠ p) ∨ (s.part p).sluice.isSome ∨ !s.timelineIn p then (s, 0)
    else match s.sluiceFrame p with
      | none => (s, 0)
      | some f => (s.setPart p { s.part p with sluice := some ⟨set, f, false⟩ }, BitVec.ofNat 64 f)

/-! ## Shape records (R220) -/

/-- Drop a record, or all, from the record caches of the TWEs that serve a partition. -/
def State.dropRecords (s : State) (p : Nat) (va : Option Nat) : State :=
  let us := (s.regionsOf p).flatMap fun r => (blocksOf r (s.region r).w (s.region r).h).flatMap fun b =>
    (List.range 4).map fun n => 4 * b + n
  us.foldl (fun s u =>
    let x := s.twe u
    s.setTwe u { x with recs := match va with
      | none => []
      | some a => x.recs.filter fun e => decide (e.1 ≠ a) }) s

/-- SHPFENCE waits for earlier stores at DEVICE; a cellar thread's reach every partition (R231). -/
def State.shpfence (s : State) (t : Nat) (T : Thread) (a : Word) (all : Bool) : State :=
  if !all ∧ a.toNat % 64 ≠ 0 then s.freezeThread t 0x04 a
  else s.afterRelease t 4 fun s =>
    let va := if all then none else some a.toNat
    let ps := if T.asCellar then List.range 16 else [T.part]
    (ps.foldl (fun s p => s.dropRecords p va) s).stepOn t

/-! ## Launch (R212, R289, R293) -/

/-- Whether the thermal state lets a record be launched: COLD_RUN and EXCURSION any, WARM_IDLE one without HBM actors, the
others none (R371); the rerun of a graph that a rise to TB2 killed waits for COLD_RUN (R372). That LAUNCH then sends nothing
is log entry 135. -/
def State.mayLaunch (s : State) (rec_ : Nat) : Bool :=
  let warm := (s.maskRegions rec_).all fun r => decide (hRole (s.region r).hdr = 0)
  let cold := match s.copyTask (s.bytes rec_ 256) with
    | some t => t.cold
    | none => false
  decide (s.tstate = 4) || (!cold && (decide (s.tstate = 5) || (decide (s.tstate = 1) && warm)))

/-- LAUNCH, with the timelines of the graph's image loaded into their channels. -/
def State.launchGraph (s : State) (rec_ : Nat) : State × Word :=
  let r := if s.mayLaunch rec_ then s.launch rec_ else (s, 0)
  if r.2 = 0 then r
  else match r.1.graphOf r.2.toNat with
    | some (p, _) =>
      let s1 := r.1.setPart p { r.1.part p with thermal := decide (s.tband = 1) }
      (s1.loadTimelines p, r.2)
    | none => r

/-! ## Placement (R213, R293) -/

/-- PAGEPL's operand with a bit set that must be zero. -/
def pageplBad (b : Word) : Bool := decide (clearBits b.toNat 0x81FF000F ≠ 0)

def State.pagepl (s : State) (t d : Nat) (a b : Word) : State :=
  let n := b.toNat
  if pageplBad b then s.freezeThread t 0x06
  else if s.tband = 2 ∧ hRole (pageHeader s (memKey a.toNat)) ≠ 0 then s.stepWith t d (BitVec.allOnes 64 - 1)
  else
    let r := s.pagePlace (memKey a.toNat) (n % 16) (if bitsOf n 31 1 = 1 then some (bitsOf n 16 9) else none)
    r.1.stepWith t d r.2

/-! ## Run-ahead delivery (R27, R28, R222, R223) -/

def State.condset (s : State) (t : Nat) (v : Bool) : State :=
  if (s.region (rauRegion t)).sealed then s.waitFor t (.condset v)
  else match s.deliverCond (rauRegion t) false v with
    | some s1 => s1.stepOn t
    | none => s.waitFor t (.condset v)

def State.condsetRelease (s : State) (t : Nat) : State :=
  match (s.thread t).status with
  | .waiting (.condset v) =>
    if (s.region (rauRegion t)).sealed then s
    else match s.deliverCond (rauRegion t) false v with
      | some s1 => s1.setThread t ({ s1.thread t with status := .running }.complete s1.now 1)
      | none => s
  | _ => s

/-- Whether an ITERWT that began at a count of retired firings is released; a sealed region holds it (R272). -/
def State.iterReached (s : State) (t iter mark : Nat) : Bool :=
  let R := s.region (rauRegion t)
  !R.sealed && (decide (R.fired ≠ mark) || (!R.fin && decide (iter ≤ R.iterNow)))

def State.iterwt (s : State) (t d : Nat) (a : Word) : State :=
  let R := s.region (rauRegion t)
  let n := a.toNat % 2 ^ 32
  if s.iterReached t n R.fired then (s.acquireNow t).release t d R.current.status
  else s.setThread t { s.thread t with status := .waiting (.iterwt d n), mark := R.fired }

def State.iterwtRelease (s : State) (t : Nat) : State :=
  let T := s.thread t
  match T.status with
  | .waiting (.iterwt d n) => if s.iterReached t n T.mark then (s.acquireNow t).release t d (s.region (rauRegion t)).current.status else s
  | _ => s

end Sys2Proof.Machine
end

