-- ==== Sys2Proof/Machine/Sys.lean ====
section
/-! DEFINITION. The meanings of the C-SYS class but for the capability instructions (R202 to R223), and of the events that
end their waits. -/

namespace Sys2Proof.Machine

def kC : List Kind := [.cellar]
def kSR : List Kind := [.service, .runAhead]
def kSRC : List Kind := [.service, .runAhead, .cellar]
def kSC : List Kind := [.service, .cellar]
def kR : List Kind := [.runAhead]
def kH : List Kind := [.handler]

/-- A result that comes after a release at a scope. -/
def releaseOp (s : State) (ks : List Kind) (d : BitVec 6) (scope : Nat) (f : State → Thread → State × Word) :
    Host.Outcome State Fault Refusal :=
  onThread s ks fun t T => s.afterRelease t scope fun s =>
    let r := f s T
    r.1.stepWith t d.toNat r.2

/-! ## Traps, control registers, cycle count -/

def execTrap (code : BitVec 32) (s : State) := onThread s kAll fun t _ => s.trap t 0x31 code.toNat
def execSvc (code : BitVec 32) (s : State) := onThread s kSR fun t _ => s.trap t 0x32 code.toNat
def execHend (s : State) := onThread s kH fun t T => s.hend t T
def execHalt (s : State) := onThread s kSRC fun t T => s.haltThread t T

def execGetcr (d : BitVec 6) (cr : BitVec 12) (s : State) := onThread s kAll fun t T =>
  match s.crRead t T cr.toNat with
  | some v => s.setThread t ((T.result s.now d.toNat 2 v).complete s.now 1)
  | none => s.freezeThread t 0x01

def execSetcr (a : BitVec 6) (cr : BitVec 12) (s : State) := onThread s kAll fun t T =>
  match s.crWrite t T cr.toNat (T.getR a.toNat) with
  | .ok s1 => s1.stepOn t
  | .error c => s.freezeThread t c

def execRdcyc (d : BitVec 6) (s : State) := onThread s kAll fun t _ => s.afterRelease t 5 fun s =>
  s.setThread t (((s.thread t).result s.now d.toNat 2 (BitVec.ofNat 64 s.now)).complete s.now 1)

/-! ## Waits, timeline counters, dependence counters -/

def execWaitev (d a : BitVec 6) (mask : BitVec 9) (s : State) :=
  onThread s kSHC fun t T => s.waitev t T d.toNat mask.toNat (T.getR a.toNat)
def execWaitevRelease (t : Nat) (s : State) := hubOp (s.waitevRelease t)

def execTlsig (a b : BitVec 6) (add : Bool) (s : State) :=
  onThread s kSHC fun t T => s.tlsig t T (T.getR a.toNat) (T.getR b.toNat) add
def execTlwt (d a b : BitVec 6) (timeout : BitVec 32) (s : State) :=
  onThread s kAll fun t T => s.tlwt t T d.toNat (T.getR a.toNat) (T.getR b.toNat) timeout.toNat
def execTlwtRelease (t : Nat) (s : State) := hubOp (s.tlwtRelease t)
def execTlwtTimeout (t : Nat) (s : State) := hubOp (s.tlwtTimeout t)
def execTlset (a b : BitVec 6) (s : State) := onThread s kC fun t T => s.tlset t T (T.getR a.toNat) (T.getR b.toNat)

def execDepdec (d a : BitVec 6) (s : State) := onThread s kSHC fun t T => s.depdec t T d.toNat (T.getR a.toNat)
def execDepset (a b : BitVec 6) (s : State) := onThread s kC fun t T => s.depset t (T.getR a.toNat) (T.getR b.toNat)

/-! ## Launch, placement, range entries -/

def execLaunch (d a : BitVec 6) (s : State) := releaseOp s kC d 4 fun s T => s.launchGraph (memKey (T.getR a.toNat).toNat)
def execPagepl (d a b : BitVec 6) (s : State) :=
  onThread s kC fun t T => s.pagepl t d.toNat (T.getR a.toNat) (T.getR b.toNat)

def execPubl (d a : BitVec 6) (s : State) := releaseOp s kSHC d 5 fun s T => s.publ T.part (T.getR a.toNat)
def execSnap (d a : BitVec 6) (s : State) :=
  onThread s kSHC fun t T => s.afterRelease t 4 fun s => s.snap t d.toNat T.part (T.getR a.toNat)
def execUnsnap (d a : BitVec 6) (s : State) :=
  onThread s kSHC fun t T => s.afterRelease t 4 fun s => s.unsnap t d.toNat T.part (T.getR a.toNat)
def execFoldComplete (p n : Nat) (s : State) := hubOp (s.foldComplete p n)

/-! ## Kicks, journal, watchdog, sluice -/

def execKickscan (d a : BitVec 6) (s : State) :=
  onThread s kC fun t T => s.stepWith t d.toNat (s.kickFrom ((T.getR a.toNat).toNat % 256))
def execKickscanClear (d a : BitVec 6) (s : State) := onThread s kC fun t T =>
  let j := (T.getR a.toNat).toNat % 256
  (s.kickClear j).stepWith t d.toNat (BitVec.ofNat 64 (s.kickBit j).toNat)

def execJrnl (d a b : BitVec 6) (tag : BitVec 32) (s : State) := releaseOp s kC d 4 fun s T =>
  (s.journal (T.getR a.toNat) (T.getR b.toNat) tag.toNat, BitVec.ofNat 64 (s.journalSerial + 1))

/-- The deadline that WDOG arms: at most 110,000 cycles, which 0 stands for. -/
def wdogCycles (v : Nat) : Nat := if v = 0 then 110000 else min v 110000

def execWdog (a : BitVec 6) (s : State) := onThread s kC fun t T =>
  { s with watchdog := tset 0 s.watchdog t (s.now + wdogCycles (T.getR a.toNat).toNat) }.stepOn t

def execSluice (d a b : BitVec 6) (s : State) :=
  releaseOp s kSC d 4 fun s T => s.sluiceOf T (T.getR a.toNat) (T.getR b.toNat)

/-! ## Generator, shape fence -/

def execRngc (d a b : BitVec 6) (s : State) := onThread s kAll fun t T =>
  let x := (T.getR a.toNat).toNat
  let y := (T.getR b.toNat).toNat
  let v := BitVec.ofNat 64 (plohan (x % 2 ^ 32) (x / 2 ^ 32) (y % 2 ^ 32) (y / 2 ^ 32))
  s.setThread t ((T.result s.now d.toNat 6 v).complete s.now 1)

def execShpfence (a : BitVec 6) (all : Bool) (s : State) := onThread s kSHC fun t T => s.shpfence t T (T.getR a.toNat) all

/-! ## Run-ahead delivery -/

def execCondset (a : BitVec 6) (s : State) :=
  onThread s kR fun t T => s.condset t (decide ((T.getR a.toNat).toNat % 2 = 1))
def execCondsetRelease (t : Nat) (s : State) := hubOp (s.condsetRelease t)
def execIterwt (d a : BitVec 6) (s : State) := onThread s kR fun t T => s.iterwt t d.toNat (T.getR a.toNat)
def execIterwtRelease (t : Nat) (s : State) := hubOp (s.iterwtRelease t)

end Sys2Proof.Machine
end

