-- ==== Sys2Proof/Machine/Cap.lean ====
section
/-! DEFINITION. The meanings of the capability instructions (R224 to R229, R330, R345, R346, R393). -/

namespace Sys2Proof.Machine

/-! ## State of a frozen unit -/

/-- Whether a unit has settled (R225): a region 40 cycles after its freeze, a thread once its loads have come, up
to the first that has faulted. -/
def State.settled (s : State) (f : Freeze) : Bool :=
  (f.unit.region?.isNone || decide (f.at_ + 40 ≤ s.now)) &&
    match f.unit.thread? with
    | some t => match (s.thread t).loads.head? with
      | some l => (match l.got with
        | some (.bad _) => true
        | _ => false)
      | none => true
    | none => true

def execFinsp (d a b : BitVec 6) (s : State) := onCap s a rInsp fun t T f =>
  if !s.settled f then s.retryNext t
  else match s.inspect f (T.getR b.toNat) with
    | some v => s.stepWith t d.toNat v
    | none => s.freezeCap t 5

def execFpatch (d a b : BitVec 6) (s : State) := onCap s a rPatch fun t T f =>
  if !s.settled f then s.retryNext t
  else match s.patch f (T.getR b.toNat) (T.getR d.toNat) with
    | some s1 => s1.stepOn t
    | none => s.freezeCap t 5

def execFclrp (a b : BitVec 6) (s : State) := onCap s a rPatch fun t T f =>
  match s.clearPoison f (T.getR b.toNat) with
  | some s1 => s1.stepOn t
  | none => s.freezeCap t 5

/-! ## Resuming and killing -/

/-- Issue an access that the hub held; a register that refuses the store denies it. -/
def State.issueHeld (s : State) (t : Nat) (w : PWrite) : State :=
  match w.kind with
  | .tlsig _ _ => s.issueSignal w
  | _ =>
    if targetOf w.pa = .window then
      match s.regStore t w.pa (BitVec.ofNat 64 (bytesNat w.data)) with
      | some s1 => s1
      | none => s.denyThread t 0x06 w.ea false
    else s.issueWrite w

/-- What the hub held for a take-over thread is issued in program order, each access once the earlier ones are acknowledged
(R195, R237, R393); then the effect `k`. -/
def State.afterHeld (s : State) (t : Nat) (k : State → State) : State :=
  match (s.thread t).hears 5 with
  | some d => s.freezeDenied t d
  | none =>
    if s.writes.any fun w => decide (w.by_ = .thread t) then s.retryNext t
    else match s.heldAcc with
      | [] => k s
      | w :: ws => ({ s with heldAcc := ws }.issueHeld t w).retryNext t

def execFres (a : BitVec 6) (s : State) := onCap s a rResume fun t T f =>
  match f.unit with
  | .cellar _ =>
    let resume := fun (s : State) => (((s.spend f).resumeUnit f).setWf (crbAt 0) 2 1 0).stepOn t
    if T.takeover then s.afterHeld t resume else resume s
  | _ => (((s.spend f).resumeUnit f).preheldResume f.part).stepOn t

/-- FKILL under the capability of cellar-A by the take-over thread: what was held is issued, and once it is acknowledged
cellar-B is the active core. -/
def State.finishTakeover (s : State) (t : Nat) (f : Freeze) : State :=
  s.afterHeld t fun s => (((s.stopCellar 0).spend f).setWf (crbAt 0) 0 3 1).stepOn t

def execFkill (a : BitVec 6) (relocate : Bool) (s : State) := onCap s a rKill fun t T f =>
  match f.unit with
  | .region _ | .rau _ => (((s.spendKill f).killUnit f.unit relocate).preheldKill f.part).stepOn t
  | .cellar c =>
    if relocate then s.freezeCap t 5
    else if T.takeover ∧ c = 0 then s.finishTakeover t f
    else ((s.spend f).killUnit f.unit false).stepOn t
  | .partition p =>
    if relocate then s.freezeCap t 5 else ((s.killPartition p 1 (some t)).spend f).stepOn t
  | _ => if relocate then s.freezeCap t 5 else ((s.spend f).killUnit f.unit false).stepOn t

/-! ## Stepping -/

/-- FSTEP: the frozen thread runs one instruction, while the handler is held. -/
def State.fstep (s : State) (t d u : Nat) : State :=
  let s1 := s.setThread u { s.thread u with status := .running, saved := .none, stepBy := some t, nextAt := s.now }
  s1.waitFor t (.fstep d u)

def execFstep (d a : BitVec 6) (s : State) := onCap s a rStep fun t _ f =>
  match f.unit.thread? with
  | some u => s.fstep t d.toNat u
  | none => s.freezeCap t 5

/-! ## Capabilities themselves -/

/-- The status word of a capability (R229). -/
def State.capStatus (s : State) (c : Word) : Word :=
  match s.freezeOf (c.toNat % 2 ^ 32) with
  | some f => BitVec.ofNat 64 (pack [(1, 1), (1, (!f.spent).toNat), (1, f.spent.toNat), (5, 0), (8, if f.spent then 0 else f.cause),
      (8, bitsOf c.toNat 48 8)])
  | none => BitVec.ofNat 64 (pack [(1, 1), (15, 0), (8, bitsOf c.toNat 48 8)])

/-- HCAPQ and HCAPDROP check only the tag. -/
def onTag (s : State) (a : BitVec 6) (f : Nat → Thread → State) : Host.Outcome State Fault Refusal :=
  onThread s kH fun t T => if T.tag a.toNat then f t T else s.freezeCap t 1

def execHcapq (d a : BitVec 6) (s : State) := onTag s a fun t T =>
  s.setThread t ((T.result s.now d.toNat 2 (s.capStatus (T.getR a.toNat))).complete s.now 1)

/-- Every copy of a capability in a thread's registers loses its tag; the register named loses its value too. -/
def Thread.dropCap (T : Thread) (h : Nat) : Thread :=
  let n := (T.getR h).toNat % 2 ^ 32
  let tags := (List.range 4).foldl (fun m k =>
    if (tget 0 T.h k).toNat % 2 ^ 32 = n then tset false m k false else m) T.htag
  { T with h := tset 0 T.h (h - 32) 0, htag := tset false tags (h - 32) false }

/-- The record of a dropped capability goes back to the head of its queue; one that is spent is discarded. -/
def State.dropFreeze (s : State) (t n : Nat) : State :=
  let gone := fun (f : Freeze) => decide (f.serial = n) && f.spent && decide (f.handler = some t)
  let back := fun (f : Freeze) => if f.serial = n ∧ f.handler = some t then { f with handler := none, dropped := true } else f
  { s with freezes := (s.freezes.filter fun f => !gone f).map back }

def execHcapdrop (a : BitVec 6) (s : State) := onTag s a fun t T =>
  ((s.setThread t (T.dropCap a.toNat)).dropFreeze t ((T.getR a.toNat).toNat % 2 ^ 32)).stepOn t

end Sys2Proof.Machine
end

