-- ==== Sys2Proof/Machine/Copy.lean ====
section
/-! DEFINITION. The meanings of the copy engines' events (R303 to R305, R363). -/

namespace Sys2Proof.Machine

def execCopyEntryStart (p e : Nat) (s : State) := hubOp (s.copyStart p e)
def execCopyEntryComplete (p e : Nat) (s : State) := hubOp (s.copyDone p e)

end Sys2Proof.Machine
end

