-- ==== Sys2Proof/Machine/PartOps.lean ====
section
/-! DEFINITION. The frame engine of a partition (R17 to R21, R26, R28, R29, R260, R265, R267, R269 to R273, R293, R320):
its cycles, the weir, the communication superstep, retirement, frame starts, yield points, and pre-emption, checkpoint and
restore at them (R323 to R325, R374). -/

namespace Sys2Proof.Machine

/-! ## A cycle of the frame -/

def State.setStage (s : State) (p : Nat) (x : PStage) : State := s.setPart p { s.part p with stage := x }

/-- The communication superstep starts W cycles after the weir fires (R19). -/
def State.commStart (s : State) (p : Nat) : State :=
  match (s.part p).stage with
  | .weir 0 => s.setStage p .comm
  | _ => s

/-- The compiled frame cycle moves on, unless the weir or a pause holds it (R17, R19, R295). -/
def State.partTick (s : State) (p : Nat) : State :=
  let P := s.part p
  match P.stage with
  | .compute => if P.fcyc < P.fc then s.setPart p { P with fcyc := P.fcyc + 1 } else s
  | .weir n => (s.setPart p { P with stage := .weir (n - 1), fcyc := P.fcyc + 1 }).commStart p
  | .comm =>
    if P.pause ≠ 0 then s.setPart p { P with pause := P.pause - 1 }
    else if P.fcyc + 1 < P.fc + s.weirW p + P.fm then s.setPart p { P with fcyc := P.fcyc + 1 } else s
  | _ => s

/-- The weir fires at FC once every region is DONE; each region's grants pass to its TWEs (R19, R21, R176). -/
def State.weirFire (s : State) (p : Nat) : State :=
  let P := s.part p
  let rs := s.graphRegions p
  let ready := rs.all fun r => (s.region r).done && !(s.region r).frozen
  match P.stage with
  | .compute =>
    if P.fcyc = P.fc ∧ ready ∧ P.graph.isSome then
      (rs.foldl State.passGrants s).setStage p (.weir (s.weirW p))
    else s
  | _ => s

/-- One cycle of the communication superstep: routes and fills of each region that is not frozen (R20, R21, R259). -/
def State.commStep (s : State) (p : Nat) : State :=
  let P := s.part p
  match P.stage with
  | .comm =>
    if P.pause ≠ 0 then s
    else (s.graphRegions p).foldl (fun s r =>
      let R := s.region r
      if R.frozen || R.fin || R.killed then s
      else
        let s1 := ((s.heldWrites r).routesStep r).jobsStep r
        s1.setRegion r { s1.region r with ccyc := R.ccyc + 1 }) s
  | _ => s

/-! ## Regions in the compute superstep -/

/-- DONE, after the rate check (R18, R267); a rate check that fails freezes the region instead. -/
def State.firingDone (s : State) (r : Nat) : State :=
  let R := s.region r
  let due := match R.endAt with
    | some n => decide (n ≤ R.rcyc)
    | none => false
  if !due || R.frozen || R.done then s
  else match (if R.rateOk then none else s.rateCheck r) with
    | some (t, p, e, n) => s.freezeFrame r t 0x11 (rateAux p e n)
    | none => s.setRegion r { R with done := true }

/-- Conditions of KEDGE that are due by a region cycle; one that meets a full queue is discarded. A KEDGE of the last iteration
delivers like any other, so its condition is the next firing's first: the model's choice (log entry 127). -/
def State.dueEdges (s : State) (r cyc : Nat) : State :=
  let R := s.region r
  let due := R.kedges.filter fun e => decide (e.1 ≤ cyc)
  let s1 := s.setRegion r { R with kedges := R.kedges.filter fun e => decide (cyc < e.1) }
  due.foldl (fun s e => (s.deliverCond r true e.2).getD s) s1

/-- At the start of a cycle, before anything else of it takes place, the conditions due arrive, and the condition of the
next iteration is popped where the cycle selects a last row; an empty queue freezes the region, which continues with this
cycle (R26, R28). -/
def State.popCondition (s : State) (r : Nat) : State :=
  let s1 := s.dueEdges r ((s.region r).rcyc + 1)
  let R := s1.region r
  if R.frozen then s
  else if !R.needsCond then s1
  else match R.condq with
    | c :: q => s1.setRegion r { R with nextSel := some c, condq := q }
    | [] => s1.freezeFrame r (regionTile r) 0x17

/-! ## Retirement (R20, R30, R273, R287, R320) -/

/-- The end of a partition's frame: the graph ends at its last one, else the quiescence check and the boundary. -/
def State.frameEnd (s : State) (p : Nat) (sealed : Bool) : State :=
  let P := s.part p
  let s1 := s.setPart p { P with frame := P.frame + 1, pause := 0 }
  match P.graph with
  | none => s1
  | some g =>
    if P.frame + 1 = g.frames then s1.endGraph p 0
    else (if sealed then s1 else s1.quiescence p).setStage p .boundary

/-- Every region of the graph has retired or was killed in this frame. -/
def State.allFin (s : State) (p : Nat) : Bool := (s.graphRegions p).all fun r => (s.region r).fin

/-- Retirement of the regions whose communication superstep is over; with 256 end records unread, the last retirement of a
graph is held and counted (R320). -/
def State.retirement (s : State) (p : Nat) : State :=
  let P := s.part p
  let rs := s.graphRegions p
  let due := rs.filter fun r =>
    let R := s.region r
    !R.frozen && !R.fin && decide (P.stage = .comm) && decide (P.fm ≤ R.ccyc)
  let runs := match P.stage with
    | .compute | .weir _ | .comm => P.graph.isSome
    | _ => false
  let last := rs.all fun r => (s.region r).fin || due.any (· == r)
  if !runs || (due = [] && !last) then s
  else
    let final := match P.graph with
      | some g => decide (P.frame + 1 = g.frames)
      | none => false
    if last && final && s.endFull then
      (if P.endHeld then s else (s.setPart p { P with endHeld := true }).bumpDc p 4 1)
    else
      let sealed := rs.all fun r => (s.region r).sealed
      let s1 := due.foldl State.retireRegion (s.setPart p { P with endHeld := false })
      if last then s1.frameEnd p sealed else s1

/-! ## Frame starts (R20, R247, R260, R269, R270, R293) -/

/-- What the start of a frame does before the checks: the sluice, the copies in force, the channels' timelines. -/
def State.openFrame (s : State) (p : Nat) : State :=
  let P := s.part p
  let s1 := match P.sluice with
    | some x =>
      if x.frame = P.frame ∧ !x.injected then
        (s.setPart p { P with sluice := some { x with injected := true } }).injectSluice p x.rset
      else s
    | none => s
  let s2 := (s1.channelsOf p).foldl State.chooseTimeline (s1.lockFrame p)
  s2.setPart p { s2.part p with fcyc := 0, repairs := 0, pause := 0, arcLen := 0, arcHeld := false }

/-- Whether a region's arcs let its firing begin; one with a line given up freezes as it begins (R359). -/
def State.mayBegin (s : State) (r : Nat) : Bool := s.arcBroken r || s.arcReady r (s.classify r)

/-- A held frame cycle 0: DCARC counts the frame once, whatever number of waits it has. -/
def State.arcHold (s : State) (p : Nat) : State :=
  let P := s.part p
  let s1 := s.setPart p { P with arcLen := P.arcLen + 1, arcHeld := true }
  if P.arcHeld then s1 else s1.bumpDc p 3 1

/-- The checks of frame cycle 0: every region begins, or the frame is held. -/
def State.tryFrame (s : State) (p : Nat) : State :=
  let rs := s.graphRegions p
  if rs.all s.mayBegin then
    let s1 := rs.foldl State.beginRegion s
    s1.setPart p { s1.part p with stage := .compute, fcyc := 0, arcLen := 0 }
  else (s.arcHold p).setStage p .arcWait

/-- Regions that froze at frame cycle 0 and have been resumed check again (R260). -/
def State.recheckRegions (s : State) (p : Nat) : State :=
  let rs := (s.graphRegions p).filter fun r => (s.region r).recheck && !(s.region r).frozen
  if rs = [] then s
  else
    let s1 := (rs.filter s.mayBegin).foldl State.beginRegion s
    if rs.all s.mayBegin then s1.setPart p { s1.part p with arcLen := 0 } else s1.arcHold p

def State.frameStart (s : State) (p : Nat) : State :=
  let P := s.part p
  match P.stage with
  | .boundary => if P.graph.isNone || s.anyFrozen p || decide (s.now < P.notBefore) then s else (s.openFrame p).tryFrame p
  | .arcWait => if s.anyFrozen p then s else s.tryFrame p
  | .compute => s.recheckRegions p
  | _ => s

/-- An arc wait of 10 ms: the regions whose checks still fail freeze with LINK, and the frame proceeds. -/
def State.arcTimeout (s : State) (p : Nat) : State :=
  let P := s.part p
  let fail := fun (s : State) (r : Nat) => (s.holdStart r).freezeFrame r (regionTile r) 0x40
  if P.arcLen < Config.tenMs then s
  else match P.stage with
    | .arcWait =>
      let s1 := (s.graphRegions p).foldl (fun t r => if s.mayBegin r then t.beginRegion r else fail t r) s
      s1.setPart p { s1.part p with stage := .compute, fcyc := 0, arcLen := 0 }
    | .compute =>
      let rs := (s.graphRegions p).filter fun r => (s.region r).recheck && !(s.region r).frozen && !s.mayBegin r
      let s1 := rs.foldl fail s
      s1.setPart p { s1.part p with arcLen := 0 }
    | _ => s

/-! ## Yield points (R29, R274, R323, R325, R374) -/

/-- The partition stands at the boundary after the retirement of a firing of YIELD = 1 pages, outside a sluice. -/
def State.yieldPoint (s : State) (p : Nat) : Bool :=
  let P := s.part p
  decide (P.stage = .boundary) && decide (P.frame ≠ 0) && !s.sluiced p && !s.anyFrozen p &&
    (s.graphRegions p).all fun r => hYield (s.region r).hdr && !(s.region r).killed

/-- A drained victim that has not ended by its limit is checkpointed at its next yield point. -/
def State.drainlim (s : State) (p : Nat) : State :=
  let P := s.part p
  match P.drainAt with
  | some n => if n ≤ s.now ∧ P.graph.isSome then s.setPart p { P with req := some 3, drainAt := none } else s
  | none => s

/-- At a yield point a waiting EVAL makes its choice (R323). -/
def State.evalTurn (s : State) (p : Nat) : State :=
  if s.yieldPoint p ∧ (s.part p).req = some 1 then s.pctlChoose p (s.part p).newtok else s

/-- At a yield point the choice is made, and a victim that is to be killed is killed. -/
def State.preemptKill (s : State) (p : Nat) : State :=
  let s1 := s.evalTurn p
  if s.yieldPoint p ∧ (s1.part p).req = some 2 then s1.preemptNow p else s1

/-- Whether R325 allows a checkpoint. A partition that holds a swapped context has no place for a second one: RESTORE must
find the first intact (log entry 138). -/
def State.checkpointOk (s : State) (p : Nat) : Bool :=
  let bs := (s.graphRegions p).flatMap fun r => blocksOf r (s.region r).w (s.region r).h
  decide (s.wf (prbAt p 0x1020) 0 1 = 1) && (s.part p).swapGraph.isNone && !(bs.any fun b => s.swappedBlocks.any (· == b))

/-- The bank lines of a tile's live slots. -/
def Tile.liveLines (T : Tile) : List Nat :=
  (List.range 32).flatMap fun p =>
    let e := (T.pond p).entry
    if peValid e then
      (List.range (peCount e)).flatMap fun x =>
        if smState (T.slot p x) = 0 then []
        else (List.range (peLines e)).map fun l => 1536 * peBank e + peLine e x l % 1536
    else []

/-- What the swap area takes of a tile, beside the lines that its shadow store takes: no bank, no vat state (R117, R276;
log entry 113). -/
def Tile.saved (T : Tile) : Tile :=
  { T with banks := [], bankUe := [], bankCe := [], ceReads := 0, shadow := [], shadowVat := none, shUe := [], shCe := [],
           vat := VatCore.empty, vctl := VatCtl.zero }

/-- What a swapped tile leaves behind: the lines of its live slots have changed places with the shadow store. -/
def Tile.swapOut (T : Tile) : Tile := (T.exchange T.liveLines 0).vacate

/-- Swap a partition out: its regions, tiles, run-ahead threads and TWEs are saved, and its regions are free. -/
def State.swapOut (s : State) (p : Nat) : State :=
  let P := s.part p
  let rs := s.graphRegions p
  let ts := rs.flatMap fun r => (s.region r).tilesOf r
  let us := rs.flatMap fun r => (blocksOf r (s.region r).w (s.region r).h).flatMap fun b => (List.range 4).map fun n => 4 * b + n
  let regions := rs.foldl (fun m r => tset Region.zero m r (s.region r)) []
  let tiles := ts.foldl (fun m t => tset Tile.zero m t (s.tile t).saved) []
  let threads := rs.foldl (fun m r => tset Thread.zero m (rauThread r) (s.thread (rauThread r))) []
  let twes := us.foldl (fun m u => tset Twe.zero m u (s.twe u)) []
  let s1 := (s.stopGraph p).mapTiles ts Tile.swapOut
  let s2 := rs.foldl (fun s r => (s.setRegion r Region.zero).setThread (rauThread r) Thread.zero) s1
  let s3 := us.foldl (fun s u => s.setTwe u Twe.zero) s2
  (s3.setPart p { s3.part p with
    swapRegions := regions
    swapTiles := tiles
    swapThreads := threads
    swapTwes := twes
    swapNums := [P.frame, P.trem, P.fc, P.fm, P.rset]
    swapGraph := P.graph
    swapSluice := P.sluice
    choice := 3 }).bumpDc p 4 1

/-- Where a partition's swap area stands in HBM (R324). -/
def State.swapBase (s : State) (p : Nat) : Nat := (s.w (prbAt p 0x1020) &&& 0xFFFFFFFE00000#64).toNat

/-- The swap area takes what R325 puts there; its layout, and so each byte of it, is free (log entry 67). -/
def State.writeSwap (s : State) (p : Nat) : State :=
  match targetOf (s.swapBase p) with
  | .hbm a => { s with free := s.free + 1 }.storeBytes .hub a (Config.swapImage s.free).toList
  | _ => s

/-- A checkpoint that R325 does not allow becomes a kill. -/
def State.checkpoint (s : State) (p : Nat) : State :=
  if s.yieldPoint p ∧ (s.part p).req = some 3 then
    (if s.checkpointOk p then (s.swapOut p).writeSwap p else s.preemptNow p)
  else s

/-- Whether every block of a partition's saved context is free. -/
def State.restoreFree (s : State) (p : Nat) : Bool :=
  let bs := (s.part p).swapRegions.flatMap fun e => blocksOf e.1 e.2.w e.2.h
  bs.all fun b => !(s.takenBlocks.any (· == b))

/-- A saved tile comes back (R276): the lines of its live slots change places with the shadow store again, with their
marks. -/
def Tile.swapIn (T S : Tile) : Tile :=
  let X := T.exchange S.liveLines 0
  { S with
    banks := X.banks
    bankUe := X.bankUe
    bankCe := X.bankCe
    ceReads := X.ceReads
    shadow := X.shadow
    shadowVat := X.shadowVat
    shUe := X.shUe
    shCe := X.shCe }

/-- A RESTORE is performed once every region of the saved context is free (R325). -/
def State.restoreNow (s : State) (p : Nat) : State :=
  let P := s.part p
  if !P.restorePend || P.swapGraph.isNone || P.graph.isSome || !s.restoreFree p then s
  else
    let n := fun (k : Nat) => (P.swapNums[k]?).getD 0
    let s1 := P.swapTiles.foldl (fun s e => s.setTile e.1 ((s.tile e.1).swapIn e.2)) s
    let s2 := P.swapRegions.foldl (fun s e => s.setRegion e.1 e.2) s1
    let s3 := P.swapThreads.foldl (fun s e => s.setThread e.1 e.2) s2
    let s4 := P.swapTwes.foldl (fun s e => s.setTwe e.1 e.2) s3
    let s5 := s4.setPart p { s4.part p with
      stage := .boundary
      fc := n 2
      fm := n 3
      fcyc := 0
      pause := 0
      frame := n 0
      trem := n 1
      graph := P.swapGraph
      sluice := P.swapSluice
      rset := n 4
      req := none
      restorePend := false
      thermal := decide (s.tband = 1)
      endHeld := false
      swapRegions := []
      swapTiles := []
      swapThreads := []
      swapTwes := []
      swapNums := []
      swapGraph := none
      swapSluice := none }
    s5.loadTimelines p

/-- A channel that the partition uses has no retreat timeline (R293, R374). -/
def State.noRetreat (s : State) (p : Nat) : Bool := (s.channelsOf p).any fun c => decide ((s.chan c).retreatRecords = [])

/-- At a yield point in an excursion, a partition without a retreat timeline freezes, every region of it. -/
def State.thermalFreeze (s : State) (p : Nat) : State :=
  let P := s.part p
  if P.thermal ∧ s.yieldPoint p then
    (if s.noRetreat p then
      (s.graphRegions p).foldl (fun s r => s.freezeFrame r (regionTile r) 0x50) (s.setPart p { P with thermal := false })
    else s.setPart p { P with thermal := false })
  else s

end Sys2Proof.Machine
end

