-- ==== Sys2Proof/Machine/DeviceOps.lean ====
section
/-! DEFINITION. The rest of the package: training tests, thermal control, boot, the security engine, reliability, power
states, the host (R207, R297, R308, R328, R332, R368 to R381, R390, R395, R396). -/

namespace Sys2Proof.Machine

/-- The package leaves its power state (R328). -/
def State.wake (s : State) : State := { s with powerState := 0 }

/-! ## A training test ends (R394 to R396) -/

/-- One bit of PRBS31 (x^31 + x^28 + 1) after a state of 31 bits. -/
def prbsBit (x : Nat) : Bool := (x.testBit 30) != (x.testBit 27)
def prbsNext (x : Nat) : Nat := (2 * x + (prbsBit x).toNat) % 2 ^ 31

/-- The first n bits of the sequence that starts from a state, and the state after them. -/
def prbs (x : Nat) : Nat → List Bool × Nat
  | 0 => ([], x)
  | n + 1 => let r := prbs (prbsNext x) n; (prbsBit x :: r.1, r.2)

/-- The 64 data bits of a beat from the present state of every lane, and the states after it. -/
def prbsBeat (xs : List Nat) : Nat × List Nat := (pack (xs.map fun x => (1, (prbsBit x).toNat)), xs.map prbsNext)

/-- n beats, beat 0 in the lowest bits. -/
def prbsBeats (xs : List Nat) : Nat → Nat × List Nat
  | 0 => (0, xs)
  | n + 1 => let b := prbsBeat xs; let r := prbsBeats b.2 n; (b.1 + 2 ^ 64 * r.1, r.2)

/-- The bursts of a test: 512 data bits each. -/
def prbsBursts (xs : List Nat) : Nat → List Nat
  | 0 => []
  | n + 1 => let b := prbsBeats xs 8; b.1 :: prbsBursts b.2 n

/-- The state each data lane starts from: SEED XOR (l + 1), where a SEED of 0 acts as 1. -/
def laneSeeds (seed : Nat) : List Nat := (List.range 64).map fun l => Nat.xor (if seed = 0 then 1 else seed) (l + 1) % 2 ^ 31

/-- The spare that replaces a lane, if one does. -/
def State.spareOf (s : State) (c l : Nat) : Option Nat :=
  let n := (s.w (hcbAt c 0xF0)).toNat
  if n.testBit 0 ∧ bitsOf n 1 7 = l then some 0 else if n.testBit 8 ∧ bitsOf n 9 7 = l then some 1 else none

/-- The delays in force: of every lane the read delay, and for a write test also the write delay. -/
def State.laneDelays (s : State) (c : Nat) (dir : Bool) : List Nat :=
  let one := fun (base spare l : Nat) => match s.spareOf c l with
    | some k => s.wf (hcbAt c 0xF0) (spare + 8 * k) 8
    | none => s.wf (hcbAt c (base + 8 * (l / 8))) (8 * (l % 8)) 8
  (List.range 72).map (one 0x40 16) ++ (if dir then (List.range 72).map (one 0x88 32) else [])

/-- Every beat of a mask of data lanes. -/
def laneMask (mis : BitVec 72) : Nat := replicate 64 (mis.toNat % 2 ^ 64) 8

/-- What the array keeps of a burst: the pattern, and on a lane that failed the bits the stack received. -/
def burstKept (mis : BitVec 72) (pattern received : Nat) : Nat :=
  let m := laneMask mis
  Nat.lor (Nat.land received m) (pattern - Nat.land pattern m)

/-- The array after a write test: burst k in column k of the row. Whether the check bits that stand beside a burst fit its
data is free. -/
def State.writePattern (s : State) (c bank row : Nat) (mis : BitVec 72) : Nat → List Nat → State
  | _, [] => s
  | k, b :: bs =>
    let a := hbmAt c row bank k
    let v := burstKept mis b (Config.laneReceived s.free k).toNat
    let (e, s1) := { s with free := s.free + 1 }.choose 3
    let s2 := s1.storeBytes .hub a (natBytes v 64)
    { s2 with hbmErr := tset 0 s2.hbmErr (a / 64) e }.writePattern c bank row mis (k + 1) bs

/-- Stores deferred while the test ran are performed, in order. -/
def State.performDeferred (s : State) (c : Nat) : State :=
  let ds := (s.chan c).deferred
  ds.foldl (fun s d => s.setW (hcbAt c d.2.1) d.2.2) (s.setChan c { s.chan c with deferred := [] })

/-- The lanes that mismatch in the test of a channel: settled at its first turn, they stand behind what stood at the GO. -/
def State.testMis (s : State) (c : Nat) : State × BitVec 72 :=
  let C := s.chan c
  match C.latch[5]? with
  | some m => (s, BitVec.ofNat 72 m)
  | none =>
    let mis := Config.laneMismatch c (decide (C.test = 2)) (s.laneDelays c (decide (C.test = 2))) s.free
    ({ s with free := s.free + 1 }.setChan c { C with latch := C.latch ++ [mis.toNat] }, mis)

/-- TRERR and TRERRX take some mismatches more. -/
def State.addMis (s : State) (c : Nat) (mis : BitVec 72) : State :=
  (s.setW (hcbAt c 0xE0) (s.w (hcbAt c 0xE0) ||| mis.setWidth 64)).setW (hcbAt c 0xE8)
    (s.w (hcbAt c 0xE8) ||| BitVec.ofNat 64 (mis.toNat / 2 ^ 64))

/-- A cycle of a test: each mismatch sets its lane's bit, at a time that is free; at the end every one stands, BUSY is 0,
DONE 1, and the stores that waited are performed. -/
def State.testDone (s : State) (c : Nat) : State :=
  let C := s.chan c
  if s.wf (hcbAt c 0xD8) 0 1 = 0 ∨ C.test = 0 then s
  else
    let (s1, mis) := s.testMis c
    if s.now < C.testEnd then { s1 with free := s1.free + 1 }.addMis c (mis &&& BitVec.ofNat 72 (Config.freeNat s1.free))
    else
      let f := fun (k : Nat) => (C.latch[k]?).getD 0
      let s2 := if C.test = 2 then s1.writePattern c (f 1) (f 2) mis 0 (prbsBursts (laneSeeds (f 4)) (f 3 + 1)) else s1
      let s3 := (s2.addMis c mis).setWf (hcbAt c 0xD8) 0 2 2
      (s3.setChan c { s3.chan c with test := 0, latch := [], testEnd := 0 }).performDeferred c

/-! ## Power lost (R375, R371) -/

/-- The contents of HBM are lost: its bytes read as RAM after power-on (log entry 1). -/
def State.loseHbm (s : State) : State :=
  { s with mem := s.mem.filter fun e => decide (Config.hbmBytes ≤ e.1)
           hbmErr := []
           cipher := []
           hist := [] }

/-- Rails off: nothing executes until power-on reset. -/
def State.railsOff (s : State) : State := { s with powered := false, agenda := [] }

/-- A power loss; one that falls in a flash write leaves an image that does not verify. -/
def State.powerLoss (s : State) : State :=
  { s.loseHbm.railsOff with flash := if s.now < s.flashEnd then [] else s.flash
                            powerState := 0 }

/-- Firmware or the host writes the image slot of the flash; the write takes some time. -/
def State.flashWrite (s : State) (bytes : List Byte) : State :=
  let (n, s1) := s.choose (2 ^ 32)
  { s1 with flash := bytes, flashEnd := s1.now + n }

/-! ## Sensors and the band (R368, R369) -/

def tsense (n : Nat) : Nat := trbAt (0x40 + 8 * n)
def State.sensorValid (s : State) (n : Nat) : Bool := decide (s.wf (tsense n) 16 1 = 1)
def State.sensorTemp (s : State) (n : Nat) : Nat := s.wf (tsense n) 0 16

/-- One sensor takes its sample; one that fails its self-check is excluded until power-on reset. -/
def State.senseOne (s : State) (n : Nat) (x : BitVec 16 × Bool) : State :=
  if s.wf (tsense n) 17 1 = 1 then s
  else if x.2 then s.setW (tsense n) (BitVec.ofNat 64 (x.1.toNat + 2 ^ 16))
  else s.setWf (tsense n) 16 2 2

def State.senseAll (s : State) (xs : List (BitVec 16 × Bool)) : State :=
  ((List.range 16).zip xs).foldl (fun s e => s.senseOne e.1 e.2) s

def State.validTemps (s : State) : List Nat := ((List.range 16).filter s.sensorValid).map s.sensorTemp
/-- The hottest valid sensor, in 1/64 K. -/
def State.hottest (s : State) : Nat := s.validTemps.foldl max 0
def State.coldest (s : State) : Nat := s.validTemps.foldl min 0xFFFF
/-- Every valid sensor lies at or below a bound. -/
def State.allBelow (s : State) (b : Nat) : Bool := s.validTemps.all fun t => decide (t ≤ b)
/-- A compute die has no valid sensor. -/
def State.dieBlind (s : State) : Bool :=
  (List.range 4).any fun d => (List.range 4).all fun k => !s.sensorValid (4 * d + k)

/-- Upper bound of a band, in 1/64 K. -/
def bandTop : Nat → Nat
  | 0 => 95 * 64
  | 1 => 160 * 64
  | 2 => 330 * 64
  | _ => 2 ^ 16

/-- The band that the hottest sensor asks for. -/
def bandOf (t : Nat) : Nat := if t ≤ bandTop 0 then 0 else if t ≤ bandTop 1 then 1 else if t ≤ bandTop 2 then 2 else 3

/-- The band after a sample. -/
def State.nextBand (s : State) : Nat :=
  let b := s.tband
  let up := bandOf s.hottest
  if s.dieBlind then 3
  else if b < up then up
  else if b ≠ 0 ∧ s.allBelow (bandTop (b - 1) - 128) then b - 1
  else b

/-! ## The thermal state machine (R371 to R374) -/

def tsWARM_OFF : Nat := 0
def tsWARM_IDLE : Nat := 1
def tsCOOLING : Nat := 2
def tsCOLD_SETTLE : Nat := 3
def tsEXCURSION : Nat := 5
def tsWARMING : Nat := 6
def tsSHUTDOWN : Nat := 7

def State.setTstate (s : State) (n : Nat) : State := s.setWf (trbAt 0) 2 4 n
/-- A page is placed. -/
def State.anyPlaced (s : State) : Bool := s.regions.any fun e => e.2.placed
/-- Partitions with a running graph. -/
def State.running (s : State) : List Nat := (List.range 16).filter fun p => (s.part p).graph.isSome

/-- The settle count of COLD_SETTLE reaches 120 s. -/
def settleSamples : Nat := 1200000

def State.putSettle (s : State) (n : Nat) : State :=
  { s with settle := n }.setWf (trbAt 0) 16 16 (min (n / 10000) 0xFFFF)

/-- COLD_SETTLE becomes COLD_RUN once the count has reached 120 s. -/
def State.settleDone (s : State) : State :=
  if s.tstate = tsCOLD_SETTLE ∧ settleSamples ≤ s.settle then s.setTstate coldRun else s

/-- Every running graph is killed at its next yield point, with a rerun queued that waits for COLD_RUN. -/
def State.killRunning (s : State) : State :=
  let ids := s.running.filterMap fun p => (s.part p).graph.map (·.task)
  s.running.foldl (fun s p => s.request p 2 0) (s.setTasks fun t => if ids.any (· == t.id) then { t with cold := true } else t)

/-- An excursion asks each partition for its retreat timelines (R374). -/
def State.beginExcursion (s : State) : State :=
  s.running.foldl (fun s p => s.setPart p { s.part p with thermal := true }) (s.setTstate tsEXCURSION)

/-- One transition, in the order of R372, and whether a row took the command (0 none, 1 COOL, 2 WARM, 3 OFF). -/
def State.transition (s : State) (cmd : Nat) : State × Bool :=
  let st := s.tstate
  let band := s.tband
  let free := !s.anyPlaced
  if st ≠ tsSHUTDOWN ∧ band = 3 then
    ((({ s with booting := false }.setTstate tsSHUTDOWN).loseHbm.railsOff).irq irqThermal 7, false)
  else if s.booting then
    if s.recoveryWait then (s, false)
    else if band = 2 then ({ s with booting := false }.setTstate tsWARM_IDLE, false)
    else (({ s with booting := false }.setTstate tsCOLD_SETTLE).putSettle 0, false)
  else if (st = coldRun ∨ st = tsEXCURSION) ∧ band = 2 then ((s.setTstate tsWARMING).killRunning, false)
  else if st = coldRun ∧ band = 1 then (s.beginExcursion, false)
  else if st = tsEXCURSION ∧ band = 0 then (s.setTstate coldRun, false)
  else if st = coldRun ∧ cmd = 2 ∧ free then (s.setTstate tsWARMING, true)
  else if st = tsWARM_IDLE ∧ cmd = 1 ∧ free then (s.setTstate tsCOOLING, true)
  else if st = tsCOOLING ∧ band = 0 then ((s.setTstate tsCOLD_SETTLE).putSettle 0, false)
  else if (st = tsCOOLING ∨ st = tsCOLD_SETTLE) ∧ cmd = 2 then (s.setTstate tsWARMING, true)
  else if st = tsCOLD_SETTLE then
    if band = 0 ∧ s.hottest - s.coldest ≤ 3 * 64 then ((s.putSettle (s.settle + 1)).settleDone, false)
    else (s.putSettle 0, false)
  else if st = tsWARMING ∧ s.validTemps.all (fun t => decide (280 * 64 ≤ t)) then (s.setTstate tsWARM_IDLE, false)
  else if st = tsWARM_IDLE ∧ cmd = 3 then ((s.setTstate tsWARM_OFF).loseHbm.railsOff, true)
  else (s, false)

/-- A 60 s window ends: a change of the hottest sensor beyond CDRATE sets RATEX and interrupts the host. -/
def State.cdrateWindow (s : State) : State :=
  let h := s.hottest
  let rate := s.wf (trbAt 0x10) 0 8
  let limit := 64 * (if rate = 0 then 1 else min rate 8)
  let s1 := { s with cdHot := h }
  if (s.tstate = tsCOOLING ∨ s.tstate = tsWARMING) ∧ limit < max h s.cdHot - min h s.cdHot then
    (s1.setWf (trbAt 0) 6 1 1).irq irqRate 0
  else s1

/-- Samples of 100 µs in a window of 60 s. -/
def windowSamples : Nat := 600000

/-- One more sample of the 60 s window; the last one ends it. The first window begins at the first sample of all, which
gives the temperature that it compares with. -/
def State.countSample (s0 : State) : State :=
  let s := if s0.cdHot = 0 then { s0 with cdHot := s0.hottest } else s0
  if s.cdSamples + 1 < windowSamples then { s with cdSamples := s.cdSamples + 1 } else { s with cdSamples := 0 }.cdrateWindow

/-- The arithmetic clock in MHz: it follows the thermal state and the band, and back in TB0 it stays at TB1's rate while
some channel runs a retreat timeline (R3, R370, R371). -/
def State.clockMHz (s : State) : Nat :=
  let retreats := s.chans.any fun e => e.2.retreat && decide (e.2.retreatRecords ≠ [])
  match s.tstate with
  | 1 | 6 => 400
  | 4 => if s.tband = 0 then (if retreats then 550 else 1100) else if s.tband = 1 then 550 else 400
  | 5 => 550
  | _ => 0

/-- A sample of every sensor: the band, at most one transition, event 5 on a change; a command waits for one sample. -/
def State.thermalSample (s : State) (xs : List (BitVec 16 × Bool)) : State :=
  if !s.powered then s
  else
    let s1 := s.senseAll xs
    let s2 := s1.setWf (trbAt 0) 0 2 s1.nextBand
    let cmd := s2.wf (trbAt 8) 0 2
    let r := (s2.setW (trbAt 8) 0).transition cmd
    let s3 := if cmd ≠ 0 ∧ !r.2 then r.1.setWf (trbAt 0) 7 1 1 else r.1
    let s4 := if s3.tband ≠ s.tband ∨ s3.tstate ≠ s.tstate then s3.raise 5 else s3
    (if s4.tband ≠ s.tband then s4.wake else s4).countSample

/-! ## Boot (R375, R376, R390) -/

def fwMagic : Nat := 0x57465A47
def fwHead : Nat := 0xB20

/-- Number of n bytes of an image at an offset. -/
def imgNum (bs : List Byte) (off n : Nat) : Nat := bytesNat ((bs.drop off).take n)

/-- Steps 2 and 3 of R375: header, security version, signature. -/
def State.firmwareOk (s : State) (bs : List Byte) : Bool :=
  let size := imgNum bs 8 8
  let svn := imgNum bs 4 2
  decide (fwHead ≤ bs.length) && decide (imgNum bs 0 4 = fwMagic) && decide (1 ≤ svn) && decide (svn ≤ 64) &&
    decide (s.fuseVersion ≤ svn) && decide (imgNum bs 6 2 = 0) && decide (imgNum bs 0xB14 12 = 0) &&
    decide (size % 10 = 0) && decide (size ≤ 655360) && decide (fwHead + size ≤ bs.length) &&
    Config.xmssVerify Config.vendorKeyDigest (bs.take 0x10 ++ (bs.drop fwHead).take size) ((bs.drop 0x10).take 2820)

/-- Words of ten bytes each, without those that a code store holds anyway. -/
def codeFrom (bs : List Byte) : Nat → Nat → Tab W80
  | _, 0 => []
  | k, n + 1 =>
    let w : W80 := BitVec.ofNat 80 (bytesNat (bs.take 10))
    let rest := codeFrom (bs.drop 10) (k + 1) n
    if w = guardWord then rest else (k, w) :: rest

/-- A cellar core with firmware in its code store. -/
def firmwareCore (code : Tab W80) : Thread := { Thread.zero with kind := .cellar, code := code, codeLen := 65536 }

/-- Steps 4 and 5: the measurement, the words in both code stores, cellar-A at word 0; its watchdog is armed. -/
def State.startFirmware (s : State) (bs : List Byte) : State :=
  let size := imgNum bs 8 8
  let code := codeFrom (bs.drop fwHead) 0 (size / 10)
  let s1 := { s with measLog := [(Config.shake256 (bs.take (fwHead + size)), 0)]
                     svn := imgNum bs 4 2
                     recoveryWait := false
                     watchdog := tset 0 s.watchdog 0 (s.now + 110000) }
  (s1.setThread 0 (cellarThread (firmwareCore code))).setThread 1 (firmwareCore code)

/-- Steps 2 to 5 on an image; a failure waits on the recovery path. -/
def State.bootImage (s : State) (bs : List Byte) : State :=
  if s.firmwareOk bs then s.startFirmware bs else { s with recoveryWait := true }

/-- Power-on reset: every register at its reset value, what R39 keeps kept, then the boot ROM. -/
def State.powerOn (s : State) : State :=
  let keep := { State.reset with
    free := s.free
    cur := .hub
    agenda := s.agenda
    inbox := s.inbox
    outbox := s.outbox
    irqs := s.irqs
    mem := s.mem
    cipher := s.cipher
    hbmErr := s.hbmErr
    tiles := tmapC s.tiles
    flash := s.flash
    fuseVersion := s.fuseVersion
    xmssIndex := s.xmssIndex
    repairRec := s.repairRec
    remap := s.remap }
  keep.bootImage s.flash
where
  /-- What a tile keeps: its banks and its generator key. -/
  tmapC (t : Tab Tile) : Tab Tile := t.foldl (fun m e => tset Tile.zero m e.1 e.2.vacate) []

/-- RECGO: the image length in bytes starts the boot of the recovery buffer; elsewhere it is ignored (R308). -/
def State.recgo (s : State) (len : Nat) : State := if s.recoveryWait then s.bootImage (s.recovery.take len) else s

/-- Version fuses are blown up to the SVN of the firmware that runs, once it has booted. -/
def State.blowFuses (s : State) : State :=
  if s.recoveryWait then s else { s with fuseVersion := max s.fuseVersion s.svn }

/-! ## The security engine (R377, R378) -/

/-- What a quote signs: nonce, serial, PKGID, TSTATE, SVN, measurement log. -/
def State.quoteBytes (s : State) (nonce : BitVec 256) : List Byte :=
  natBytes nonce.toNat 32 ++ natBytes Config.packageSerial.toNat 8 ++ natBytes Config.pkgId.toNat 2 ++
    natBytes s.tstate 1 ++ natBytes s.svn 2 ++ s.measLog.flatMap fun e => natBytes e.1.toNat 32 ++ natBytes e.2 2

/-- QUOTE: the index advances before the signature leaves; after the last one every request is refused. -/
def State.quote (s : State) (nonce : BitVec 256) : State :=
  if 2 ^ 20 ≤ s.xmssIndex then s.out [16]
  else
    let m := s.quoteBytes nonce
    { s with xmssIndex := s.xmssIndex + 1 }.out [15, bytesNat m, bytesNat (Config.xmssSign s.xmssIndex m)]

def State.keyload (s : State) (k : Nat) (wrapped : BitVec 832) : State :=
  match Config.keyUnwrap wrapped with
  | none => s
  | some v => s.setKey k ⟨some v, (s.key k).cur, 0⟩

/-- KEYCLR erases both keys of a slot. -/
def State.keyclr (s : State) (k : Nat) : State := s.setKey k { s.key k with cur := none, prev := none }

/-! ## The cellar pair (R216, R330, R332, R349, R390) -/

/-- A watchdog expires: the core freezes at the instruction it would issue next. -/
def State.watchdogExpire (s : State) (c : Nat) : State :=
  let d := tget 0 s.watchdog c
  if d = 0 ∨ s.now < d ∨ 1 < c then s
  else
    let s1 := { s with watchdog := tset 0 s.watchdog c 0 }.bumpW (trbAt 0x110) 0 32 1
    let T := s1.thread c
    match T.status with
    | .running | .waiting _ | .idle => s1.freezeThreadT c T { cause := 0x31, detail := 1 }
    | _ => s1

def State.isFrozen (s : State) (t : Nat) : Bool := decide ((s.thread t).status = .frozen)

/-- The take-over thread of cellar-B for a freeze of cellar-A (R186, R390). -/
def State.spawnTakeover (s : State) (f : Freeze) : State :=
  let T := s.thread 1
  let X : Thread := { Thread.zero with
    kind := .handler
    takeover := true
    status := .running
    part := 0
    priv := 3
    nest := 1
    regs := tset 0 [] 1 (BitVec.ofNat 64 (crbAt 0x9000))
    h := tset 0 [] 0 (f.rec_.getD 0 0)
    htag := tset false [] 0 true
    pc := 0x8000
    code := T.code
    codeLen := T.codeLen
    codeUe := T.codeUe
    codeCe := T.codeCe
    cause := f.cause
    faddr := f.rec_.getD 3 0
    funit := f.rec_.getD 2 0
    nextAt := s.now + 1
    serving := f.serial }
  ((s.setThread 1 X).setWf (crbAt 0) 2 1 1).mapFreeze f.serial fun (x : Freeze) => { x with handler := some 1 }

/-- A frozen active core is taken over by the standby once its writes are performed; with no standby, and when the
take-over thread itself has frozen, the pair stops. -/
def State.takeover (s : State) : State :=
  let active := s.wf (crbAt 0) 0 1
  let stby := s.wf (crbAt 0) 1 1
  let tkovr := s.wf (crbAt 0) 2 1
  if s.wf (crbAt 0) 3 1 = 1 then s
  else if s.isFrozen 1 then s.stopPair
  else if active = 0 ∧ tkovr = 0 ∧ s.isFrozen 0 then
    if stby = 0 then s.stopPair
    else if s.writes.any fun w => decide (w.by_ = .thread 0) && !w.performed then s
    else match s.freezes.find? fun (f : Freeze) => decide (f.unit = .cellar 0) && !f.spent with
      | some f => s.spawnTakeover f
      | none => s
  else s

/-! ## Reliability and repair (R297, R332, R379, R380, R396) -/

/-- A line of a tile's banks is marked uncorrectable; SRAMUE counts it once (R380). -/
def State.markBank (s : State) (t k : Nat) : State :=
  let T := s.tile t
  if T.bankUe.any (· == k) then s else (s.setTile t { T with bankUe := addNew k T.bankUe }).bumpW (trbAt 0x100) 32 32 1

/-- The same for a line of its shadow store. -/
def State.markShadow (s : State) (t k : Nat) : State :=
  let T := s.tile t
  if T.shUe.any (· == k) then s else (s.setTile t { T with shUe := addNew k T.shUe }).bumpW (trbAt 0x100) 32 32 1

/-- A scrub marks what it finds uncorrectable: a tile's bank line, a code word of a thread (4096 + thread), a row-store
word of a region (8192 + region), a line of a tile's shadow store (16384 + tile). -/
def State.scrubMark (s : State) (m : Nat × Nat) : State :=
  if m.1 < 2048 then s.markBank m.1 m.2
  else if m.1 < 8192 then
    let t := m.1 - 4096
    let T := s.thread t
    s.setThread t { T with codeUe := addNew m.2 T.codeUe }
  else if m.1 < 16384 then
    let r := m.1 - 8192
    let R := s.region r
    s.setRegion r { R with rowUe := addNew m.2 R.rowUe }
  else s.markShadow (m.1 - 16384) m.2

/-- A scrub pass corrects every line and word with one bit in error, and counts them (R275, R379, R380). -/
def State.scrubCorrect (s : State) : State :=
  let n := (s.tiles.map fun e => e.2.bankCe.length + e.2.shCe.length).sum + (s.threads.map fun e => e.2.codeCe.length).sum +
    (s.regions.map fun e => e.2.rowCe.length).sum
  let s1 := s.tiles.foldl (fun s e => s.setTile e.1 { s.tile e.1 with bankCe := [], shCe := [] }) s
  let s2 := s1.threads.foldl (fun s e => s.setThread e.1 { s.thread e.1 with codeCe := [] }) s1
  let s3 := s2.regions.foldl (fun s e => s.setRegion e.1 { s.region e.1 with rowCe := [] }) s2
  s3.bumpW (trbAt 0x100) 0 32 n

/-- A standby whose code store holds an uncorrectable word is removed, and the host hears of it (R332). -/
def State.scrubStandby (s : State) : State :=
  let T := s.thread 1
  if T.status = .none ∧ T.codeUe ≠ [] ∧ s.wf (crbAt 0) 1 1 = 1 then (s.setWf (crbAt 0) 1 1 0).irq irqCellar 1 else s

def State.scrub (s : State) (ms : List (Nat × Nat)) : State := (ms.foldl State.scrubMark s.scrubCorrect).scrubStandby

/-- The host rewrites a stack's row-remap table, all three copies, from the repair record. -/
def State.reloadRemap (s : State) (st : Nat) : State :=
  let v := tget 0 s.repairRec (384 + st)
  { s with remap := tset 0 (tset 0 (tset 0 s.remap (3 * st) v) (3 * st + 1) v) (3 * st + 2) v }

/-- The host writes a lane repair of a channel into the repair record. -/
def State.writeRepair (s : State) (c : Nat) (v : Word) : State := { s with repairRec := tset 0 s.repairRec c v }

/-! ## Power states (R328) -/

/-- A thread of a service task that may run. -/
def State.serviceReady (s : State) : Bool :=
  s.threads.any fun e => decide (e.2.kind = .service) && decide (e.2.status = .running)

def State.anyTaskReady (s : State) : Bool :=
  s.tasks.any fun t => !t.refused && t.ready && decide (t.waits = []) && !t.started
def State.anyEntry (s : State) : Bool := s.chains.any fun e => decide (e.2.entries ≠ [])

/-- The deepest state whose condition holds. -/
def State.deepest (s : State) : Nat :=
  if s.running ≠ [] then 0
  else if s.anyPlaced then 1
  else if s.anyTaskReady || s.anyEntry || s.serviceReady then 2
  else if s.tstate ≠ coldRun then 3
  else 4

/-- Wake time of a power state, in ns. -/
def wakeNs : Nat → Nat
  | 0 => 0
  | 1 => 80
  | 2 => 2000
  | 3 => 50000
  | _ => 2000000

/-- The deepest state that the latency tolerance of the active core's thread allows. -/
def State.enterPower (s : State) : State :=
  let tol := (s.thread (s.wf (crbAt 0) 0 1)).lattol.toNat
  let fit := (List.range 5).filter fun n => decide (n ≤ s.deepest) && decide (wakeNs n ≤ tol)
  { s with powerState := fit.foldl max 0 }

/-! ## The host and ports (R207, R355, R365) -/

def State.mailbox (s : State) (p : Nat) : State := (if p < 16 then s.raiseP p 4 else s).wake

/-- A port has trained: it carries traffic, it knows its far end, and lines that wait for it leave. -/
def State.bringUp (s : State) (i : Nat) : State :=
  if i < 24 then
    let x := Config.portPeer i
    (((s.setWf (brbPortAt i 0) 0 1 1).setWf (brbPortAt i 0) 16 10 x.1.toNat).setWf (brbPortAt i 0) 26 5 x.2.toNat).flushPort i
  else s

end Sys2Proof.Machine
end

