-- ==== Sys2Proof/Machine/Device.lean ====
section
/-! DEFINITION. The meanings of thermal, power, boot, security and reliability events (R207, R216, R297, R308, R328, R330,
R355, R368 to R379, R390, R396). -/

namespace Sys2Proof.Machine

/-! ## Boot and security -/

def execPowerOnReset (s : State) := hubOp s.powerOn
def execRecgo (len : Nat) (s : State) := hubOp (s.recgo len)
def execVersionFuseBlow (s : State) := hubOp s.blowFuses
def execFlashWrite (bytes : List Byte) (s : State) := hubOp (s.flashWrite bytes)
def execPowerLoss (s : State) := hubOp s.powerLoss
def execQuote (nonce : BitVec 256) (s : State) := hubOp (s.quote nonce)
def execKeyload (slot : BitVec 6) (wrapped : BitVec 832) (s : State) := hubOp (s.keyload slot.toNat wrapped)
def execKeyclr (slot : BitVec 6) (s : State) := hubOp (s.keyclr slot.toNat)

/-! ## Thermal control -/

def execThermalSample (temps : List (BitVec 16 × Bool)) (s : State) := hubOp (s.thermalSample temps)
def execSettleComplete (s : State) := hubOp s.settleDone
def execCdrateWindow (s : State) := hubOp s.cdrateWindow

/-! ## Cellar pair, host, power states -/

def execWatchdogExpiry (core : Nat) (s : State) := hubOp (s.watchdogExpire core)
def execTakeoverSpawn (s : State) := hubOp s.takeover
def execHostMailboxWrite (p : Nat) (s : State) := hubOp (s.mailbox p)
def execPowerStateEnter (s : State) := hubOp s.enterPower
def execPowerStateWake (s : State) := hubOp s.wake

/-! ## Reliability and repair -/

def execScrubPass (marks : List (Nat × Nat)) (s : State) := hubOp (s.scrub marks)
def execRemapTableReload (stack : Nat) (s : State) := hubOp (s.reloadRemap stack)
def execRepairRecordWrite (c : Nat) (v : Word) (s : State) := hubOp (s.writeRepair c v)
def execPortUp (port : Nat) (s : State) := hubOp (s.bringUp port)

end Sys2Proof.Machine
end

