-- ==== Sys2Proof/Machine/FaultOps.lean ====
section
/-! DEFINITION. The fault queue and its dispatchers: granting pool entries, a full pool, spawning handlers, nested faults,
the report deadline, and the service threads that share the contexts (R33, R38, R313, R326, R337, R341 to R344, R347, R349,
R350). -/

namespace Sys2Proof.Machine

/-! ## Pool entries (R326, R341, R342, R350) -/

/-- A record still in its unit's latch. -/
def Freeze.latched (f : Freeze) : Bool := f.entry.isNone && !f.spent && (match f.unit with
  | .cellar _ => false
  | _ => true)

def FUnit.isPartition : FUnit → Bool
  | .partition _ => true
  | _ => false

def State.fqMin (s : State) (p : Nat) : Nat := s.wf (prbAt p 0x1040) 0 9
def State.fqCap (s : State) (p : Nat) : Nat := max (s.wf (prbAt p 0x1040) 16 9) (s.fqMin p)

/-- Entries and minimum of every partition in a die's pool. -/
def State.poolUse (s : State) (d : Nat) : List (Nat × Nat) := (List.range 16).map fun p => (s.poolUsed p d, s.fqMin p)

/-- Whether the pool of a die grants a partition one more entry. -/
def State.fqGrants (s : State) (p d : Nat) : Bool := poolGrants 256 (s.poolUse d) (s.poolUsed p d) (s.fqMin p) (s.fqCap p)

/-- The lowest free entry of a die's pool. -/
def State.freeEntry (s : State) (d : Nat) : Option Nat :=
  (List.range 256).find? fun e => !(s.freezes.any fun (f : Freeze) => decide (f.entry = some (256 * d + e)))

/-- A POOL_FULL record of the partition waits, and goes before its other latched records. -/
def State.fullWaits (s : State) (p : Nat) : Bool :=
  s.freezes.any fun (f : Freeze) => f.unit.isPartition && f.latched && decide (f.part = p)

/-- The dies whose pools a latched record asks. -/
def Freeze.dies (f : Freeze) : List Nat := if f.unit.isPartition then List.range 4 else [f.die]

/-- The place that a latched record is granted now: a die and an entry. -/
def State.grantPlace (s : State) (f : Freeze) : Option (Nat × Nat) :=
  if !f.unit.isPartition && s.fullWaits f.part then none
  else f.dies.findSome? fun d => if s.fqGrants f.part d then (s.freeEntry d).map fun e => (d, e) else none

/-! ## A fault of a level-2 handler (R349) -/

/-- The level-2 handler that a freeze stops, with its thread. -/
def Freeze.level2 (f : Freeze) : Option Nat :=
  match f.unit with
  | .handler t => if f.nest = 2 then some t else none
  | _ => none

/-- The record of a level-2 freeze, with CAUSE rewritten to NESTED and AUX holding the serial of the first record. -/
def Freeze.nested (f : Freeze) (first : Nat) : Freeze :=
  { f with cause := 0x60
           rec_ := (f.rec_.set 1 (BitVec.ofNat 64 (setBits (f.rec_.getD 1 0).toNat 0 8 0x60))).set 7 (BitVec.ofNat 64 first) }

/-- The host gets both records, every unit of the partition is killed, and the graph ends with status 5. -/
def State.nestedKill (s : State) (f : Freeze) (t : Nat) : State :=
  let first := (s.thread t).serving
  let s1 := (s.report first 1).mapFreeze f.serial fun x => x.nested first
  let s2 := s1.report f.serial 1
  (s2.killPartition f.part 5 none).countFailure (f.hardware && !s2.hardwareFault f.part)

/-- FAULT_RECORD_GRANT: a latched record enters the fault queue. -/
def State.grantRecord (s : State) (serial : Nat) : State :=
  match s.freezeOf serial with
  | none => s
  | some f =>
    if !f.latched then s
    else match f.level2 with
      | some t => s.nestedKill f t
      | none => match s.grantPlace f with
        | some (d, e) => s.mapFreeze serial fun x => { x with entry := some (256 * d + e), die := d }
        | none => s

/-! ## A full pool (R350) -/

/-- Stop a thread that runs on a context. -/
def State.stopCtx (s : State) (t : Nat) : State :=
  let T := s.thread t
  match T.status with
  | .running | .waiting _ => s.setThread t { T with status := .frozen, saved := T.status }
  | _ => s

def FUnit.isRemote : FUnit → Bool
  | .remote _ => true
  | _ => false

/-- Whether the record of a freeze is refused because its partition's entries have reached FQCAP; a remote report freezes
nothing (R336, R350). -/
def State.refusedFull (s : State) (f : Freeze) : Bool :=
  f.latched && !f.unit.isPartition && !f.unit.isRemote && decide (s.fqCap f.part ≤ s.poolUsed f.part f.die) && decide (f.at_ < s.now)

/-- A POOL_FULL freeze of the partition is in force. -/
def State.fullFrozen (s : State) (p : Nat) : Bool :=
  s.freezes.any fun (f : Freeze) => decide (f.unit = .partition p) && !f.spent

/-- POOL_FULL: the whole partition freezes, with one record, and the host is interrupted. -/
def State.poolIsFull (s : State) (serial : Nat) : State :=
  match s.freezeOf serial with
  | none => s
  | some f =>
    let p := f.part
    if !s.refusedFull f || s.fullFrozen p then s
    else
      let s1 := (s.regionsOf p).foldl State.stopRegion s
      let s2 := (s1.ctxOf p).foldl State.stopCtx s1
      (s2.latchFreeze (.partition p) p f.die 0 false 0 { cause := 0x61, aux := BitVec.ofNat 64 serial }).irq irqPool p

/-! ## Handler sections (R344) -/

/-- The image of a service thread's task. -/
def State.serviceDecl (s : State) (t : Nat) : Option ImageDecl :=
  match s.tasks.find? fun x => decide (x.id = (s.thread t).task) with
  | some x => s.imageDecl (s.imageKey x.image x.ver)
  | none => none

/-- The image of a partition: of its running graph, of the graph it holds swapped out, or of a service thread. -/
def State.partDecl (s : State) (f : Freeze) : Option ImageDecl :=
  let P := s.part f.part
  match P.graph, P.swapGraph, f.unit with
  | some g, _, _ | none, some g, _ => s.declAt g.pa
  | none, none, .service t => s.serviceDecl t
  | none, none, _ =>
    match s.threads.find? fun e => decide (e.2.kind = .service) && decide (e.2.status ≠ .none) && decide (e.2.part = f.part) with
    | some e => s.serviceDecl e.1
    | none => none

/-- A CTL section of an image by its entry index. -/
def ctlSection (d : ImageDecl) (n : Nat) : Option (List W80) := (d.ctl.find? fun e => decide (e.1 = n)).map (·.2)

/-- The handler section for a record: the one for its cause, else the default. -/
def State.handlerCode (s : State) (f : Freeze) : Option (List W80) :=
  match s.partDecl f with
  | none => none
  | some d => match ctlSection d (256 + f.cause) with
    | some ws => some ws
    | none => ctlSection d 256

/-- Words as a code store from an index on. -/
def storeFrom : Nat → List W80 → Tab W80
  | _, [] => []
  | k, w :: ws => if w = guardWord then storeFrom (k + 1) ws else (k, w) :: storeFrom (k + 1) ws

/-! ## Spawning (R33, R343) -/

/-- The free context of lowest number among some contexts, over some dies in order. -/
def State.freeCtx (s : State) (dies ctxs : List Nat) : Option Nat :=
  dies.findSome? fun d => (ctxs.find? fun c => decide ((s.thread (ctxThread d c)).status = .none)).map fun c => ctxThread d c

def FUnit.isHandler : FUnit → Bool
  | .handler _ => true
  | _ => false

/-- The die of the record first, then the others in ascending order. -/
def diesFrom (d : Nat) : List Nat := d :: (List.range 4).filter (· ≠ d)

/-- Contexts 28 to 31 for a frozen handler, else 0 to 27. -/
def Freeze.ctxs (f : Freeze) : List Nat := if f.unit.isHandler then [28, 29, 30, 31] else List.range 28

/-- A record that a dispatcher may serve. -/
def Freeze.waits (f : Freeze) (d : Nat) : Bool :=
  f.handler.isNone && !f.spent && decide (f.pass = 0) && (match f.entry with
    | some e => decide (e / 256 = d)
    | none => false)

/-- The record that a dispatcher takes: one given back at the head of its queue, else the lowest serial (R229, R343). -/
def State.nextRecord (s : State) (d : Nat) : Option Freeze :=
  let fs := s.freezes.filter fun (f : Freeze) => f.waits d
  match fs.find? fun (f : Freeze) => f.dropped with
  | some f => some f
  | none => fs.foldl (fun (best : Option Freeze) f => match best with
    | none => some f
    | some b => if f.serial < b.serial then some f else some b) none

/-- A handler thread for a record: h0 the capability, s1 the record's address. -/
def handlerThread (f : Freeze) (code : List W80) (now : Nat) : Thread :=
  let e := f.entry.getD 0
  { Thread.zero with
    kind := .handler
    status := .running
    part := f.part
    priv := 2
    nest := if f.unit.isHandler then 2 else 1
    regs := tset 0 [] 1 (BitVec.ofNat 64 (Config.pool (e / 256) (e % 256)))
    h := tset 0 [] 0 (f.rec_.getD 0 0)
    htag := tset false [] 0 true
    code := storeFrom 0 code
    codeLen := code.length
    cause := f.cause
    faddr := f.rec_.getD 3 0
    funit := f.rec_.getD 2 0
    nextAt := now + 1
    serving := f.serial }

/-- HANDLER_SPAWN: the dispatcher of a die serves a record, or reports one that has no handler section. -/
def State.spawnHandler (s : State) (d : Nat) : State :=
  match s.nextRecord d with
  | none => s
  | some f => match s.handlerCode f with
    | none => s.report f.serial 2
    | some code => match s.freeCtx (diesFrom d) f.ctxs with
      | none => s
      | some t =>
        (s.setThread t (handlerThread f code s.now)).mapFreeze f.serial fun x => { x with handler := some t, dropped := false }

/-! ## The report deadline (R38, R347) -/

def State.deadlineReport (s : State) (serial : Nat) : State :=
  match s.freezeOf serial with
  | none => s
  | some f =>
    if f.spent || f.reported || f.unit.isRemote || decide (s.now < f.at_ + Config.tenMs) then s
    else (s.report serial 0).raise 6

/-! ## Service threads (R33, R313) -/

def serviceThread (t : Task) (code : List W80) (now : Nat) : Thread :=
  { Thread.zero with
    kind := .service
    status := .running
    part := t.part
    regs := tset 0 [] 1 (BitVec.ofNat 64 (t.f 0x10 8))
    code := storeFrom 0 code
    codeLen := code.length
    nextAt := now + 1
    acqAt := if t.waited then now else 0
    task := t.id }

/-- The working set of a task is staged: every range entry that it names has been published since the record was read
(R307; log entry 117). -/
def State.staged (s : State) (t : Task) : Bool :=
  (t.wset.zip t.gens).all fun e => decide (e.1.1 = 0) || decide (s.rGen t.part e.1.2 ≠ e.2)

/-- A task that is ready and has not started. A graph's task is not ready while its partition runs a graph, or while its
image version runs in any partition, unless it is CONCURRENT and that partition is another one (R307, R317). -/
def State.readyTask (s : State) (t : Task) : Bool :=
  !t.refused && t.ready && decide (t.waits = []) && !t.started && (!t.cold || decide (s.tstate = coldRun)) &&
    (t.service || ((s.part t.part).graph.isNone && s.parts.all fun e => match e.2.graph with
      | none => true
      | some g => decide (g.pa ≠ s.imagePa (s.imageKey t.image t.ver)) || t.f 4 4 % 2 = 1))

def State.taskPrio (s : State) (t : Task) : Nat := s.wf (queueAt t.queue 0) 5 3

/-- Whether another ready task starts before this one: of higher queue priority, or of the same one with a lower serial
(R307). -/
def State.overtaken (s : State) (t : Task) : Bool :=
  s.tasks.any fun u => s.readyTask u &&
    (decide (s.taskPrio t < s.taskPrio u) || (decide (s.taskPrio u = s.taskPrio t) && decide (u.id < t.id)))

/-- Ready service tasks in the order in which they start: higher queue priority first, then lower serial (R307). -/
def State.serviceOrder (s : State) : List Task :=
  let ready := s.tasks.filter fun t => t.service && s.readyTask t
  (List.range 8).flatMap fun k => ready.filter fun t => decide (s.taskPrio t = 7 - k)

/-- A ready service task whose working set is staged starts on the lowest free context, unless a ready task stands before it;
without a context it waits. -/
def State.spawnService (s : State) (id : Nat) : State :=
  match s.tasks.find? fun t => decide (t.id = id) with
  | none => s
  | some t =>
    if !t.service || !s.readyTask t || !s.staged t || s.overtaken t then s
    else
      let key := s.imageKey t.image t.ver
      match (s.imageDecl key).bind fun d => ctlSection d (t.f 0x20 2) with
      | none => s
      | some code => match s.freeCtx (List.range 4) (List.range 28) with
        | none => s
        | some c =>
          let s1 := s.setThread c (serviceThread t code s.now)
          let s2 := if key < 1024 then s1.setWf (imageAt key 0) 1 1 1 else s1
          s2.taskStarts t

end Sys2Proof.Machine
end

