-- ==== Sys2Proof/Machine/Faults.lean ====
section
/-! DEFINITION. The meanings of the fault queue's events (R38, R342 to R350) and of the spawn of a service thread (R313). -/

namespace Sys2Proof.Machine

def execFaultRecordGrant (serial : Nat) (s : State) := hubOp (s.grantRecord serial)
def execPoolFull (serial : Nat) (s : State) := hubOp (s.poolIsFull serial)
def execHandlerSpawn (die : Nat) (s : State) := hubOp (s.spawnHandler die)
def execReportDeadline (serial : Nat) (s : State) := hubOp (s.deadlineReport serial)
def execServiceThreadSpawn (task : Nat) (s : State) := hubOp (s.spawnService task)

end Sys2Proof.Machine
end

