-- ==== Sys2Proof/Machine/Frame.lean ====
section
/-! DEFINITION. The meanings of the frame events (R17 to R21, R26 to R28, R260, R267 to R274, R320). -/

namespace Sys2Proof.Machine

def execPopCondition (r : Nat) (s : State) := hubOp (s.popCondition r)
def execFiringDone (r : Nat) (s : State) := hubOp (s.firingDone r)
def execWeirFire (p : Nat) (s : State) := hubOp (s.weirFire p)
def execCommSuperstepStart (p : Nat) (s : State) := hubOp (s.commStart p)
def execRetirement (p : Nat) (s : State) := hubOp (s.retirement p)
def execFrameStart (p : Nat) (s : State) := hubOp (s.frameStart p)
def execArcWaitTimeout (p : Nat) (s : State) := hubOp (s.arcTimeout p)

end Sys2Proof.Machine
end

