-- ==== Sys2Proof/Machine/Links.lean ====
section
/-! DEFINITION. The meanings of what arrives from other packages, and of the links' own events (R262, R264, R353, R357 to
R366). An arrival wakes the package (R328). -/

namespace Sys2Proof.Machine

/-! ## Arrivals -/

def execOrderedLineArrival (l : LineIn) (s : State) := hubOp (s.wake.lineArrive l)

/-- A line from its header, its way and what is its own. -/
def lineOf (src part owner addr len : Nat) (way : LineWay) (l : RunLine) : LineIn where
  src := src
  part := part
  owner := owner
  port := way.port
  vc := way.vc
  dst := way.dst
  seq := l.seq
  addr := addr
  len := len
  data := l.data
  tag := l.tag
  crcOk := l.crcOk
  lane := l.lane
  arc := none

def execRunoffBlockArrival (src part owner addr : Nat) (way : LineWay) (lines : List RunLine) (s : State) :=
  hubOp (s.wake.runoffArrive ⟨src, part, owner, way.port, way.vc, way.dst, addr, lines⟩)
def execRequestRecordArrival (src part owner addr : Nat) (l : LineWay × RunLine) (s : State) :=
  hubOp (s.wake.recordArrive (lineOf src part owner addr 64 l.1 l.2))
def execRemoteAtomicArrival (src part owner queue addr : Nat) (sz : BitVec 3) (op : BitVec 5) (way : LineWay) (l : RunLine)
    (s : State) :=
  hubOp (s.wake.atomicArrive (lineOf src part owner addr 32 way l) queue sz.toNat op.toNat)

/-! ## Arcs (R262, R264, R359, R364) -/

def execArcCommit (l : LineIn) (s : State) := hubOp (s.wake.arcRecord l false)
def execArcAbort (l : LineIn) (s : State) := hubOp (s.wake.arcRecord l true)
/-- A credit record of an arc; the arc stands beside the line. -/
def execCreditRecord (arc : Nat) (l : LineIn) (s : State) := hubOp (s.wake.creditArrive { l with arc := some (arc, 0) })

/-- The consumer's endpoint, or its gateway, denies a line of an arc. -/
def State.arcDenial (s : State) (id : Nat) (gateway : Bool) : State :=
  match s.writes.find? fun w => decide (w.id = id) with
  | none => s
  | some w => match w.by_, otherPkg w.pa with
    | .arc p a, some d => ((s.dropWrite id).arcDenied p a (if gateway then 0x42 else 0x14)).settleRoute d
    | _, _ => s

def execArcDenial (id : Nat) (gateway : Bool) (s : State) := hubOp (s.arcDenial id gateway)

/-! ## Sent again, given up, ports -/

/-- A line ends with a denial of its own: its tag has failed three times, or it has not been acknowledged for 10 ms (R359,
R366). -/
def State.lineLost (s : State) (d : Nat) (w : PWrite) (cause : Nat) : State := ((s.dropWrite w.id).hearDenial w cause).settleRoute d

/-- What befalls a line that this package has sent: a replay, or with the third tag failure and after 10 ms its end. -/
def State.giveUp (s : State) (id : Nat) (why : LineTrouble) : State :=
  match s.writes.find? fun w => decide (w.id = id) with
  | none => s
  | some w => match otherPkg w.pa with
    | none => s
    | some d =>
      let out := w.sealed_ ≠ [] ∧ w.retryAt.isNone
      if w.performed ∨ w.retryAt = some heldBack then s
      else match why with
        | .crc => if out then s.replay d w else s
        | .tag =>
          if !out then s
          else if w.fails < 2 then
            let note := fun (x : PWrite) => if x.id = id then { x with fails := x.fails + 1 } else x
            { s with writes := s.writes.map note }.replay d w
          else s.lineLost d w 0x41
        | .late => if s.now < w.issued + Config.tenMs then s else s.lineLost d w 0x40

def execLineGiveUp (id : Nat) (why : LineTrouble) (s : State) := hubOp (s.giveUp id why)
def execRequestRecordResend (id : Nat) (s : State) := hubOp (s.sendAgain id)
def execLaneRepairStart (port lane : Nat) (s : State) := hubOp (s.repairStart port lane)
def execLaneRetrainDone (port : Nat) (s : State) := hubOp (s.repairDone port)
def execGatewayRefill (s : State) := hubOp ((List.range 16).foldl State.gatewayRefill s)

end Sys2Proof.Machine
end

