-- ==== Sys2Proof/Machine/RauOps.lean ====
section
/-! DEFINITION. The registers that a control instruction names, and a run-ahead thread as the loader follows it: which
conditions it can deliver to its region (R18, R26 to R28, R33, R222, R223; log entry 93). -/

namespace Sys2Proof.Machine

/-! ## Registers of an instruction -/

/-- Registers that an instruction reads, from its fields; an unused field names s0. -/
def readsOf (i : Instr) : List Nat :=
  match form i with
  | .ctl cls op d rest =>
    let a := bitsOf rest 56 6
    let b := bitsOf rest 50 6
    let wide := decide (cls = 10) && decide (bitsOf rest 47 3 = 4)
    let dIn := (decide (cls = 8) && decide (op = 32)) || (decide (cls = 12) && decide (op = 18)) || (decide (cls = 10) && (decide (op = 3) || decide (op = 5))) ||
      (decide (cls = 13) && decide (op = 3))
    (if cls = 13 then [] else [a, b]) ++ (if dIn then [d] else []) ++
      (if wide then (if op = 4 ∨ op = 5 then [b + 1] else []) ++ (if dIn then [d + 1] else []) else [])
  | _ => []

/-- The register that D names. -/
def destOf (i : Instr) : Nat :=
  match form i with
  | .ctl _ _ d _ => d
  | _ => 0

/-- Registers that an instruction may write: D, and D + 1 where the access has 16 bytes. -/
def writesOf (i : Instr) : List Nat :=
  match form i with
  | .ctl cls _ d rest => if cls = 10 ∧ bitsOf rest 47 3 = 4 then [d, d + 1] else [d]
  | _ => []

/-! ## A run-ahead thread at load -/

/-- A run-ahead thread as it is followed: PC, and its registers, none where the value is not known at load. -/
structure SRau where
  pc : Nat
  regs : Tab (Option Word)
  deriving DecidableEq, Repr

/-- At its start s1 and s2 are not known at load; the other registers are 0 (R33). -/
def SRau.start : SRau := ⟨0, [(1, none), (2, none)]⟩

def SRau.get (r : SRau) (n : BitVec 6) : Option Word := if n = 0 then some 0 else tget (some 0) r.regs n.toNat
def SRau.set (r : SRau) (n : Nat) (v : Option Word) : SRau := if n = 0 then r else { r with regs := tset (some 0) r.regs n v }
def SRau.un (r : SRau) (a : BitVec 6) (f : Word → Word) : Option Word := (r.get a).map f
def SRau.bin {α : Type} (r : SRau) (a b : BitVec 6) (f : Word → Word → α) : Option α :=
  match r.get a, r.get b with
  | some x, some y => some (f x y)
  | _, _ => none

/-- The value that an instruction gives D, where it is followed: the arithmetic that needs no more than its operands. -/
def SRau.value (r : SRau) : Instr → Option Word
  | .add _ a b => r.bin a b (· + ·)
  | .sub _ a b => r.bin a b (· - ·)
  | .mul _ a b => r.bin a b (· * ·)
  | .and _ a b => r.bin a b (· &&& ·)
  | .or _ a b => r.bin a b (· ||| ·)
  | .xor _ a b => r.bin a b (· ^^^ ·)
  | .andn _ a b => r.bin a b fun x y => x &&& ~~~y
  | .shl _ a b => r.bin a b fun x y => x <<< shAmt y
  | .shr _ a b => r.bin a b fun x y => x >>> shAmt y
  | .sar _ a b => r.bin a b fun x y => x.sshiftRight (shAmt y)
  | .min _ a b => r.bin a b minS
  | .max _ a b => r.bin a b maxS
  | .minu _ a b => r.bin a b minU
  | .maxu _ a b => r.bin a b maxU
  | .cmpeq _ a b => r.bin a b fun x y => flag (x == y)
  | .cmpne _ a b => r.bin a b fun x y => flag (x != y)
  | .cmplt _ a b => r.bin a b fun x y => flag (decide (x.toInt < y.toInt))
  | .cmpltu _ a b => r.bin a b fun x y => flag (decide (x.toNat < y.toNat))
  | .sel d a b => (r.get d).bind fun x => if x ≠ 0 then r.get a else r.get b
  | .mov _ a => r.get a
  | .addi _ a i => r.un a (· + immS i)
  | .muli _ a i => r.un a (· * immS i)
  | .andi _ a i => r.un a (· &&& immS i)
  | .ori _ a i => r.un a (· ||| immS i)
  | .xori _ a i => r.un a (· ^^^ immS i)
  | .shli _ a i => r.un a (· <<< i.toNat)
  | .shri _ a i => r.un a (· >>> i.toNat)
  | .sari _ a i => r.un a fun x => x.sshiftRight i.toNat
  | .cmpeqi _ a i => r.un a fun x => flag (x == immS i)
  | .cmpnei _ a i => r.un a fun x => flag (x != immS i)
  | .cmplti _ a i => r.un a fun x => flag (decide (x.toInt < (immS i).toInt))
  | .cmpltui _ a i => r.un a fun x => flag (decide (x.toNat < (immS i).toNat))
  | .mini _ a i => r.un a fun x => minS x (immS i)
  | .maxi _ a i => r.un a fun x => maxS x (immS i)
  | .limm _ i => some (i.signExtend 64)
  | .limmz _ i => some (i.setWidth 64)
  | _ => none

/-- A branch: its displacement, and whether it is taken where that is known. -/
def SRau.branch (r : SRau) : Instr → Option (BitVec 32 × Option Bool)
  | .beq a b off => some (off, r.bin a b fun x y => x == y)
  | .bne a b off => some (off, r.bin a b fun x y => x != y)
  | .blt a b off => some (off, r.bin a b fun x y => decide (x.toInt < y.toInt))
  | .bge a b off => some (off, r.bin a b fun x y => decide (y.toInt ≤ x.toInt))
  | .bltu a b off => some (off, r.bin a b fun x y => decide (x.toNat < y.toNat))
  | .bgeu a b off => some (off, r.bin a b fun x y => decide (y.toNat ≤ x.toNat))
  | .bz a off => some (off, (r.get a).map fun x => x == 0)
  | .bnz a off => some (off, (r.get a).map fun x => x != 0)
  | .jmp off => some (off, some true)
  | _ => none

/-- The target of a jump from a word. -/
def SRau.jump (r : SRau) (off : BitVec 32) : SRau := { r with pc := (BitVec.ofNat 64 r.pc + off.signExtend 64).toNat }
def SRau.skip (r : SRau) : SRau := { r with pc := r.pc + 1 }

/-- What the thread may do next: the condition that its instruction delivers, and the thread after it. No successor where it
ends or freezes; none at all where its target is not known. -/
def SRau.next (code : List W80) (r : SRau) : Option (List (Option Bool × SRau)) :=
  match code[r.pc]? with
  | none => some []
  | some w => match decode w.toNat with
    | .ok .nul => some [(none, r.skip)]
    | .ok (.ctl (.condset a)) => match r.get a with
      | some x => some [(some (x.getLsbD 0), r.skip)]
      | none => some [(some false, r.skip), (some true, r.skip)]
    | .ok (.ctl .halt) => some []
    | .ok (.ctl (.jal d off)) => some [(none, (r.set d.toNat (some (BitVec.ofNat 64 (r.pc + 1)))).jump off)]
    | .ok (.ctl (.jalr d a off)) => (r.get a).map fun x =>
      [(none, { r.set d.toNat (some (BitVec.ofNat 64 (r.pc + 1))) with pc := (x + off.signExtend 64).toNat })]
    | .ok (.ctl i) => match r.branch i with
      | some (off, some b) => some [(none, if b then r.jump off else r.skip)]
      | some (off, none) => some [(none, r.jump off), (none, r.skip)]
      | none => some [(none, ((writesOf i).foldl (fun r n => r.set n (if n = destOf i then r.value i else none)) r).skip)]
    | _ => some []

/-- The next n conditions of threads that have delivered some already (the latest first), and the threads after them; `seen`
holds what was followed. None where the steps allowed do not suffice. -/
def deliveries (code : List W80) (n : Nat) :
    Nat → List (SRau × List Bool) → List (SRau × List Bool) → Option (List (SRau × List Bool))
  | 0, _, _ => none
  | _ + 1, _, [] => some []
  | k + 1, seen, e :: es =>
    if e.2.length = n then (deliveries code n k seen es).map fun done => (e.1, e.2.reverse) :: done
    else if seen.contains e then deliveries code n k seen es
    else match e.1.next code with
      | none => none
      | some xs => deliveries code n k (e :: seen) ((xs.map fun x => (x.2, x.1.toList ++ e.2)) ++ es)

/-- The condition sequences of firings that take n conditions each, the first from the thread's start and each later one
from where the one before left it; `seen` holds the starts followed. -/
def firingConds (code : List W80) (n : Nat) : Nat → List SRau → List SRau → Option (List (List Bool))
  | 0, _, _ => none
  | k + 1, seen, new =>
    if new.isEmpty then some []
    else (deliveries code n 65536 [] (new.map fun r => (r, []))).bind fun done =>
      (firingConds code n k (seen ++ new) (((done.map (·.1)).eraseDups).filter fun r => !(seen ++ new).contains r)).map
        fun rest => (done.map (·.2) ++ rest).eraseDups

/-- Every condition sequence that the thread of a page can deliver to a firing that takes n; none where it cannot be
followed. -/
def allDeliveries (code : List W80) (n : Nat) : Option (List (List Bool)) := firingConds code n 256 [] [SRau.start]

end Sys2Proof.Machine
end

