-- ==== Sys2Proof/Machine/SchedOps.lean ====
section
/-! DEFINITION. The loader's checks of a page's schedule (R28, R73 to R76, R117, R129, R131, R132, R137, R140, R142, R161,
R162, R165, R167, R168, R172, R174, R177, R179, R181, R182, R382): a run of the page's words over every sequence of
iterations that follows when each result stands where, in the local cycles of one tile of each tile row, without its
values. A check that fails is a finding: its code of R76, R132, R140 or R182, and where (R77). -/

namespace Sys2Proof.Machine

/-! ## The page and what is followed -/

/-- A page as these checks read it: FC, header, row-store words (index 32 × tile row + row), pond table, the ponds of each
tile row that a route writes through a pointer, with the port that a PATH 0 route enters by, the tile row above a die
boundary, where the region crosses one, and its run-ahead code. -/
structure SPage where
  fc : Nat
  hdr : BitVec 128
  words : Tab Nat
  ponds : List Word
  routed : List (Nat × Nat × Option Nat)
  cross : Option Nat
  /-- the words of its run-ahead code -/
  code : List W80
  deriving DecidableEq, Repr

/-- A word of a page: tile row, column offset, schedule (0 A, 1 B), row number, slot (0 the word, 1 M, 2 V, 3 S). -/
structure SPlace where
  tr : Nat
  col : Nat
  sched : Nat
  row : Nat
  slot : Nat
  deriving DecidableEq, Repr

/-- A refusal of a word (R77): code, word, and for E01 and E05 the producing word with the cycle difference found and the one
required. -/
structure SFind where
  code : Nat
  at_ : SPlace
  prod : Option SPlace
  found : Nat
  need : Nat
  deriving DecidableEq, Repr

def SFind.plain (code : Nat) (w : SPlace) : SFind := ⟨code, w, none, 0, 0⟩

def SPage.pond (P : SPage) (p : Nat) : Word := (P.ponds[p]?).getD 0
def SPage.word (P : SPage) (row j : Nat) : Nat := tget 0 P.words (32 * row + j)
def SPage.tileRows (P : SPage) : Nat := 2 * hHblk P.hdr

/-- The cycles of a hop from tile row r to the next one (R74, log entry 93). -/
def SPage.hop (P : SPage) (r : Nat) : Nat := if P.cross = some r then 3 else 1

/-- The tile row across a port, and the hop to it. -/
def SPage.across (P : SPage) (row port : Nat) : Nat × Nat := if port = 0 then (row - 1, P.hop (row - 1)) else (row + 1, P.hop row)
/-- A bank line inside a pond window. -/
def SPage.inWindow (P : SPage) (b l : Nat) : Bool :=
  P.ponds.any fun e => peValid e && decide (peBank e = b) && decide (peOffset e ≤ l) &&
    decide (l < peOffset e + peLines e * peCount e)

/-- A result on its way or in place: its cycle, its place, the traced value of a mask register (R382), the word that gives it
and that word's cycle. -/
structure SEv where
  at_ : Nat
  dst : Dest
  mask : Option Nat
  src : SPlace
  iss : Nat
  deriving DecidableEq, Repr

/-- A generator as it is followed: image, latched image, run state; `ww` is the pond's working write index at the start,
counted from the firing's start; `src` the AGGO that started it; whether an AGLD has loaded bits [63:3] and [127:67], which
are then not known at load; whether the latched image is not known; and the cycle of its last step. -/
structure SGen where
  img : BitVec 128
  lat : BitVec 128
  run : Bool
  held : Bool
  i : Nat
  j : Nat
  ww : Nat
  src : SPlace
  lo : Bool
  hi : Bool
  dark : Bool
  step : Option Nat
  deriving DecidableEq, Repr

def SGen.zero : SGen := ⟨0, 0, false, false, 0, 0, 0, ⟨0, 0, 0, 0, 0⟩, false, false, false, none⟩
/-- The image is not known at load. -/
def SGen.unknown (x : SGen) : Bool := x.lo || x.hi

/-- A line that a tile sends through a port into a pond of the neighbour (R165, R175): tile row, cycle, pond with its pointer,
line; none for a sluice slot. -/
structure SSend where
  dest : Nat
  at_ : Nat
  pond : Nat
  port : Nat
  line : Option Nat
  src : SPlace
  deriving DecidableEq, Repr

/-- One tile of a tile row as it is followed through a firing. -/
structure STile where
  row : Nat
  evs : List SEv
  /-- banks read in this cycle -/
  rd : List Nat
  /-- element types that each station's VMODE may hold (R140) -/
  vm0 : List Nat
  vm1 : List Nat
  tap0 : Nat
  tap1 : Nat
  gens : Tab SGen
  /-- a generator image that is not known at load has run in this firing -/
  vague : Bool
  /-- headers written in this firing (hd0 to hd3, FH 4, SH 5, of the buffers 6 and 7), with the value where it is known at
  load (R132) -/
  hdr : Tab (Option Nat)
  /-- the active buffer, 0 being the one active at the firing's start -/
  buf : Nat
  /-- slots loaded (32 × buffer + slot), scale chunks loaded (8 × side + chunk), accumulators configured -/
  slots : List Nat
  chunks : List Nat
  cfgd : List Nat
  fcc : Option Nat
  /-- an MXCFG in this firing, an MXPAIR in this firing, and the last MXPAIR or MXSOLO with its cycle -/
  mxcfg : Bool
  bound : Bool
  pairAt : Option (Nat × SPlace)
  /-- odd accumulators that may be the half of an FP64 pair -/
  halves : List Nat
  /-- per accumulator, the cycle from which it is valid, with its last MXFEED and that word's cycle; and its live rows -/
  valid : Tab (Nat × SPlace × Nat)
  live : Tab Nat
  /-- the first cycle that is not a busy cycle of the last column -/
  busy : Nat
  /-- slots closed per pond; lines written (pond, slot, line); slots closed by their last line. A pond written through the
  pointer of port q stands under pond + 32 × (q + 1) -/
  ww : Tab Nat
  lines : List (Nat × Nat × Nat)
  closed : List (Nat × Nat)
  /-- per pond, the word that wrote a line of it last -/
  wrote : Tab SPlace
  /-- scratch lines written: bank, line, cycle -/
  scr : List (Nat × Nat × Nat)
  /-- SOUT and SIN words: port, cycle, word -/
  outs : List (Nat × Nat × SPlace)
  ins : List (Nat × Nat × SPlace)
  /-- lines on their way to a neighbour -/
  sends : List SSend
  /-- the word in progress -/
  here : SPlace
  /-- the refusals met; those that hold only where a word's headers are known on every path to it; and the words whose
  headers are not known (R132) -/
  bads : List SFind
  softs : List SFind
  unks : List SPlace
  deriving DecidableEq, Repr

/-- A tile at a firing's start: nothing of an earlier firing is live but VMODE, TAP and the generators (R39, R73, R140). -/
def STile.start (row : Nat) (vm0 vm1 : List Nat) (tap0 tap1 : Nat) (gens : Tab SGen) : STile where
  row := row
  evs := []
  rd := []
  vm0 := vm0
  vm1 := vm1
  tap0 := tap0
  tap1 := tap1
  gens := gens
  vague := false
  hdr := []
  buf := 0
  slots := []
  chunks := []
  cfgd := []
  fcc := none
  mxcfg := false
  bound := false
  pairAt := none
  halves := []
  valid := []
  live := []
  busy := 0
  ww := []
  lines := []
  closed := []
  wrote := []
  scr := []
  outs := []
  ins := []
  sends := []
  here := ⟨row, 0, 0, 0, 0⟩
  bads := []
  softs := []
  unks := []

/-- A tile as the pager places a page: every field at its reset value (R39). -/
def STile.placed (row : Nat) : STile := STile.start row [0] [0] 0 0 []

/-- The start of the firing that follows; no generator runs past the end of a firing (R172). -/
def STile.again (T : STile) : STile :=
  STile.start T.row T.vm0 T.vm1 T.tap0 T.tap1 (tmap (fun _ (x : SGen) => { x with
    run := false
    step := none }) T.gens)

/-- Refuse the word in progress. -/
def STile.fail (T : STile) (code : Nat) : STile := { T with bads := T.bads ++ [SFind.plain code T.here] }

def STile.failIf (T : STile) (b : Bool) (code : Nat) : STile := if b then T.fail code else T

/-- Refuse the word in progress over its producer: the cycle difference found and the one required. -/
def STile.failOn (T : STile) (code : Nat) (src : SPlace) (found need : Nat) : STile :=
  { T with bads := T.bads ++ [⟨code, T.here, some src, found, need⟩] }

/-! ## Places (R54, R74, R75, R137, R179) -/

/-- Two drives of one lane that meet: the later one enters where the earlier value then is. -/
def lanesMeet (l p a l' p' a' : Nat) : Bool :=
  decide (l = l') &&
    (if a' ≤ a then decide (a - a' ≤ 8) && decide (lanePos l p' (a - a') = p)
     else decide (a' - a ≤ 8) && decide (lanePos l p (a' - a) = p'))

/-- The code under which a result meets another one: E03 for lanes, ports and feed rows, E14 for banks, E04 for registers
and latches. -/
def SEv.clash (at_ : Nat) (d : Dest) (e : SEv) : Option Nat :=
  match d, e.dst with
  | .lane l p, .lane l' p' => if lanesMeet l p at_ l' p' e.at_ then some 3 else none
  | .bank b _, .bank b' _ => if b = b' ∧ at_ = e.at_ then some 14 else none
  | .feed n, .feed n' => if n = n' ∧ at_ = e.at_ then some 3 else none
  | d, d' => if d = d' ∧ at_ = e.at_ then some 4 else none

/-- A result of cycle t that will stand at a place. -/
def STile.put (t : Nat) (T : STile) (at_ : Nat) (d : Dest) (mask : Option Nat := none) : STile :=
  let T1 := match T.evs.findSome? (SEv.clash at_ d) with
    | some code => T.fail code
    | none => T
  { T1 with evs := ⟨at_, d, mask, T.here, t⟩ :: T1.evs }

/-- A write of a bank line, which must come within the compute superstep in every tile column (R18). -/
def STile.putBank (P : SPage) (late : Nat) (T : STile) (at_ b l : Nat) : STile :=
  (T.put at_ at_ (.bank b l)).failIf (decide (P.fc ≤ at_ + late)) 7

/-- A read of a bank (R179: one in a cycle). -/
def STile.readBank (T : STile) (b : Nat) : STile :=
  { T.failIf (T.rd.contains b) 14 with rd := b :: T.rd }

/-- A register read: E10 where nothing in the firing has written it, E01 where nothing has landed yet. -/
def STile.readReg (T : STile) (t : Nat) (d : Dest) : STile :=
  match T.evs.filter fun e => decide (e.dst = d) with
  | [] => T.fail 10
  | e :: es =>
    if (e :: es).any fun e => decide (e.at_ ≤ t) then T
    else
      let w := es.foldl (fun (m : SEv) x => if m.iss < x.iss then x else m) e
      T.failOn 1 w.src (t - w.iss) (w.at_ - w.iss)

/-- A mask register read; k0 is constant. -/
def STile.readK (T : STile) (t k : Nat) : STile := if k = 0 then T else T.readReg t (.kreg k)

/-- A latch read: E02 where no value is delivered in this cycle. -/
def STile.need (T : STile) (t : Nat) (d : Dest) : STile :=
  T.failIf (!(T.evs.any fun e => decide (e.dst = d) && decide (e.at_ = t))) 2

/-- The lane value that stands, `lo` to `hi` hops from its drive, at a position in a cycle. -/
def STile.onLane (T : STile) (t l pos lo hi : Nat) : Option SEv :=
  T.evs.find? fun e => match e.dst with
    | .lane l' p => decide (l' = l) && decide (e.at_ + lo ≤ t) && decide (t ≤ e.at_ + hi) &&
        decide (lanePos l p (t - e.at_) = pos)
    | _ => false

/-- A lane read: E05 where the value has gone beyond its eighth hop, E02 where there is none. A generator whose image is not
known at load may drive any lane. -/
def STile.needLane (T : STile) (t l pos : Nat) : STile :=
  if T.vague || (T.onLane t l pos 0 8).isSome then T
  else match T.onLane t l pos 9 15 with
    | some e => T.failOn 5 e.src (t - e.iss) (e.at_ + 8 - e.iss)
    | none => T.fail 2

def STile.tapOf (T : STile) (st : Nat) : Nat := if st = 0 then T.tap0 else T.tap1
def STile.vmOf (T : STile) (st : Nat) : List Nat := if st = 0 then T.vm0 else T.vm1

/-- An operand read (R50, R76). -/
def STile.opnd (T : STile) (t st code : Nat) : STile :=
  if code ≤ 11 then T.readReg t (.vreg st code)
  else if code = 12 then
    let l := T.tapOf st % 16
    if l = 15 then T.fail 11 else T.needLane t l (posStation st)
  else if code = 13 then T.need t .aout
  else if code = 14 then T.need t .pin
  else T

/-- A vector result (R51, R137). -/
def STile.emit (T : STile) (t st vd : Nat) (x : Bool) (lat : Nat) : STile :=
  if vd ≤ 11 then T.put t (t + lat) (.vreg st vd)
  else if vd = 12 then
    let l := T.tapOf st / 16
    if l = 15 then T.fail 11 else T.put t (t + lat + 1) (.lane l (posStation st))
  else if vd = 13 then T.put t (t + lat) .pout
  else if vd = 14 then T.put t (t + lat) (.feed (2 * st + x.toNat))
  else T

/-! ## Traced masks (R382) -/

/-- The latest value of a mask register that has landed by a cycle. -/
def STile.landedK (T : STile) (t k : Nat) : Option SEv :=
  T.evs.foldl (fun (m : Option SEv) e =>
    if e.dst = .kreg k ∧ e.at_ ≤ t then
      (match m with
        | some f => if f.at_ < e.at_ then some e else m
        | none => some e)
    else m) none

/-- The value of a mask register where it is traced. -/
def STile.trace (T : STile) (t k : Nat) : Option Nat :=
  if k = 0 then some (2 ^ 64 - 1) else (T.landedK t k).bind fun e => e.mask

/-- Whether a word's guard is true, where its mask is traced. -/
def STile.guard (T : STile) (t k : Nat) (inv : Bool) : Option Bool := (T.trace t k).map fun m => m.testBit 0 != inv

/-- VKAND: traced where both operands are, and zero where one is traced as zero. -/
def traceAnd (a b : Option Nat) : Option Nat :=
  if a = some 0 ∨ b = some 0 then some 0
  else match a, b with
    | some x, some y => some (Nat.land x y)
    | _, _ => none
def traceOr (a b : Option Nat) : Option Nat :=
  match a, b with
  | some x, some y => some (Nat.lor x y)
  | _, _ => none

/-! ## V slot (R137, R140, R143) -/

/-- How a V-slot instruction is checked: element types it accepts, latency, operand reads beyond VA. -/
structure SVec where
  o : VArgs
  acc : Nat
  lat : Nat
  two : Bool
  twin : Bool
  addend : Bool
  toK : Bool
  deriving DecidableEq, Repr

/-- The sets of R140. -/
def accSet (n : Nat) (t : EType) : Bool :=
  match n with
  | 0 => accFlt t
  | 1 => accInt t
  | 3 => accQt t
  | 4 => accMs t
  | 5 => accW32 t
  | 6 => accPack t
  | 7 => accUnpk t
  | _ => true

/-- The row of R143 for an instruction of the plain forms. Latency 4 of FLT is 6 on FP64 (set 0 with latency 4). -/
def sVec : Instr → Option SVec
  | .vadd o | .vsub o | .vmul o | .vmin o | .vmax o => some ⟨o, 0, 4, true, true, false, false⟩
  | .vdiv o => some ⟨o, 0, 12, true, true, false, false⟩
  | .vfma o | .vfms o | .vfnma o => some ⟨o, 0, 4, true, true, true, false⟩
  | .vabs o | .vneg o => some ⟨o, 0, 4, false, true, false, false⟩
  | .vrcp o | .vrsq o | .vexp2 o | .vlog2 o => some ⟨o, 0, 8, false, true, false, false⟩
  | .vsqrt o => some ⟨o, 0, 12, false, true, false, false⟩
  | .viadd o | .visub o | .vimul o | .vimin o | .vimax o | .vshl o | .vshr o | .vsar o =>
    some ⟨o, 1, 2, true, true, false, false⟩
  | .vand o | .vor o | .vxor o | .vsel o => some ⟨o, 2, 2, true, true, false, false⟩
  | .vimad o => some ⟨o, 1, 2, true, true, true, false⟩
  | .vnot o => some ⟨o, 2, 2, false, true, false, false⟩
  | .vclz o | .vpopc o => some ⟨o, 1, 2, false, true, false, false⟩
  | .vcmpeq o | .vcmpne o | .vcmplt o | .vcmple o => some ⟨o, 2, 2, true, false, false, true⟩
  | .vcvt o | .vcvtc o => some ⟨o, 2, 4, false, false, false, false⟩
  | .vdqnt o => some ⟨o, 3, 4, false, false, false, false⟩
  | .vpack o => some ⟨o, 6, 4, true, false, false, false⟩
  | .vunpk o => some ⟨o, 7, 4, false, false, false, false⟩
  | .vrsum o | .vrmax o | .vrmin o => some ⟨o, 2, 6, o.x, false, false, false⟩
  | .vperm o => some ⟨o, 2, 3, true, false, false, false⟩
  | .vrot o => some ⟨o, 2, 2, true, false, false, false⟩
  | .vbcst o | .vmov o | .viota o => some ⟨o, 2, 2, false, false, false, false⟩
  | .vrng o => some ⟨o, 5, 6, true, true, false, false⟩
  | .vdrop o => some ⟨o, 0, 6, true, true, false, false⟩
  | _ => none

/-- E13: a type that a station's VMODE may hold lies outside the set. -/
def STile.types (T : STile) (st set : Nat) : STile :=
  T.failIf ((T.vmOf st).any fun c => !accSet set (EType.ofCode c)) 13

/-- Latency over the types a station may hold: where FP64 is among them it is 6 (R137 gives one latency for one type; that a
station whose type a guard leaves open takes the longer one alone is the model's choice, log entry 93). -/
def STile.latOf (T : STile) (st set lat : Nat) : Nat :=
  if set = 0 ∧ lat = 4 ∧ (T.vmOf st).any (fun c => decide (c = 1)) then 6 else lat

/-- One station's run of a plain form: reads in cycle t, then the result. -/
def STile.vecReads (T : STile) (t : Nat) (u : SVec) (st : Nat) : STile :=
  let T1 := (T.types st u.acc).opnd t st u.o.va.toNat
  let T2 := if u.two then T1.opnd t st u.o.vb.toNat else T1
  if u.addend then T2.readReg t (.vreg st u.o.vd.toNat) else T2

def STile.vecWrites (T : STile) (t : Nat) (u : SVec) (st : Nat) : STile :=
  if u.toK then T.put t (t + u.lat) (.kreg u.o.vd.toNat)
  else T.emit t st u.o.vd.toNat u.o.x (T.latOf st u.acc u.lat)

/-- The reads of a V slot. -/
def STile.vReads (T : STile) (t : Nat) (i : Instr) : STile :=
  match i with
  | .vkand o | .vkor o => (T.readK t (o.va.toNat % 8)).readK t (o.vb.toNat % 8)
  | .vknot o => T.readK t (o.va.toNat % 8)
  | .vkmov o => if o.x then T.opnd t o.st.toNat o.va.toNat else T.readK t (o.va.toNat % 8)
  | .vqnt o =>
    let st := o.st.toNat
    let T1 := (T.types st 3).opnd t st o.va.toNat
    if (T.vmOf st).any fun c => decide ((EType.ofCode c).w = 32) then
      if o.va.toNat % 2 = 1 ∨ 11 < o.va.toNat then T1.fail 13 else T1.readReg t (.vreg st (o.va.toNat + 1))
    else T1
  | .vrsumm o =>
    let st := o.st.toNat
    let T1 := ((T.types st 4).readK t o.k.toNat).opnd t st o.va.toNat
    if o.x then T1 else (T1.readReg t (.vreg st o.vd.toNat)).readReg t (.vreg st (o.vd.toNat + 1))
  | .vrscl o =>
    let st := o.st.toNat
    (((T.types st 4).readReg t (.vreg st o.va.toNat)).readReg t (.vreg st (o.va.toNat + 1))).opnd t st o.vb.toNat
  | i => match sVec i with
    | some u => (stations u.twin u.o).foldl (fun T st => T.vecReads t u st) (T.readK t u.o.k.toNat)
    | none => T

/-- The results of a V slot. `sure` says that the word executes on every run. -/
def STile.vWrites (T : STile) (t : Nat) (sure : Bool) (i : Instr) : STile :=
  let traced := fun (m : Option Nat) => if sure then m else none
  match i with
  | .vkand o => T.put t (t + 2) (.kreg o.vd.toNat) (traced (traceAnd (T.trace t (o.va.toNat % 8)) (T.trace t (o.vb.toNat % 8))))
  | .vkor o => T.put t (t + 2) (.kreg o.vd.toNat) (traced (traceOr (T.trace t (o.va.toNat % 8)) (T.trace t (o.vb.toNat % 8))))
  | .vknot o => T.put t (t + 2) (.kreg o.vd.toNat) (traced ((T.trace t (o.va.toNat % 8)).map fun m => 2 ^ 64 - 1 - m))
  | .vkmov o => T.put t (t + 2) (.kreg o.vd.toNat) (if o.x then none else traced (T.trace t (o.va.toNat % 8)))
  | .vqnt o => T.emit t o.st.toNat o.vd.toNat false 4
  | .vrsumm o => (T.put t (t + 6) (.vreg o.st.toNat o.vd.toNat)).put t (t + 6) (.vreg o.st.toNat (o.vd.toNat + 1))
  | .vrscl o =>
    let T1 := T.emit t o.st.toNat o.vd.toNat o.x 6
    if o.k = 0 then T1 else T1.put t (t + 6) (.kreg o.k.toNat)
  | i => match sVec i with
    | some u => (stations u.twin u.o).foldl (fun T st => T.vecWrites t u st) T
    | none => T

/-! ## M slot (R117, R118, R123 to R132) -/

/-- A header: written in this firing, and its value where known at load. -/
def STile.header (T : STile) (n : Nat) : Option (Option Nat) := (T.hdr.find? fun e => decide (e.1 = n)).map (·.2)
def STile.setHeader (T : STile) (n : Nat) (v : Option Nat) : STile := { T with hdr := tput T.hdr n v }
def STile.needHeader (T : STile) (n : Nat) : STile := T.failIf (T.header n).isNone 10
def STile.known (T : STile) (n : Nat) : Option Nat := (T.header n).bind id

/-- A format known at load; an unknown one counts as one of class H, the shortest interval. -/
def fmtOf (h : Option Nat) : VFmt := VFmt.ofCode (match h with | some v => v % 32 | none => 3)

/-- E12: an M-slot instruction other than a drain or MXSTAT in a busy cycle. -/
def STile.notBusy (T : STile) (t : Nat) : STile := T.failIf (decide (t < T.busy)) 12

/-- A drain, MXSTAT or MXCLR before its accumulator is valid (R129). -/
def STile.needValid (T : STile) (t acc code : Nat) : STile :=
  match T.valid.find? fun e => decide (e.1 = acc) with
  | some (_, v, src, iss) => if t < v then T.failOn code src (t - iss) (v - iss) else T
  | none => T

/-- E01: a word that reads PAIRED in the cycle after an MXPAIR or MXSOLO, whose binding is usable at t + 2 (R131). -/
def STile.needBind (T : STile) (t : Nat) : STile :=
  match T.pairAt with
  | some (c, src) => if t < c + 2 then T.failOn 1 src (t - c) 2 else T
  | none => T

/-- E10: a scale word of a column that no MXLDB of the firing has loaded. -/
def STile.needScales (T : STile) (side : Nat) (h : Option Nat) (first n : Nat) : STile :=
  match h with
  | none => T
  | some v =>
    if (fmtOf h).block then
      T.failIf ((List.range n).any fun b => !(T.chunks.contains (8 * side + (bitsOf v 14 9 + first + b) % 512 / 64))) 10
    else T

/-- E12 where the headers of the word in progress are known on every path to it (R132). -/
def STile.known2 (T : STile) (known bad : Bool) : STile :=
  if !known then { T with unks := T.here :: T.unks }
  else if bad then { T with softs := SFind.plain 12 T.here :: T.softs }
  else T

/-- An accumulator whose fields RM to DRAIN an MXACCF of the firing has set: its own, or those of the even half where it may
be the odd half of an FP64 pair. -/
def STile.configured (T : STile) (acc : Nat) : Bool :=
  T.cfgd.contains acc || (T.halves.contains acc && T.cfgd.contains (acc - 1))

/-- Whether something stands on a row of a lane set in a cycle. -/
def STile.rowFed (T : STile) (t ls n : Nat) : Bool :=
  let src := (laneSetRows ls)[n]?.getD 0
  if src < 8 then (T.onLane t src posVat 0 8).isSome
  else T.evs.any fun e => decide (e.dst = .feed (src - 8)) && decide (e.at_ = t)

/-- MXFEED: the reads of R117, the formats of R104, the scale words of R120. -/
def STile.feed (P : SPage) (t acc ls slot : Nat) (T : STile) : STile :=
  let T0 := (((T.notBusy t).needBind t).needHeader 4).needHeader (6 + T.buf)
  let T1 := T0.failIf (hYield P.hdr && !T.slots.contains (32 * T.buf + slot)) 10
  let T2 := (T1.failIf (hYield P.hdr && !T.configured acc) 10).failIf (T.bound && !T.mxcfg) 10
  let fh := T.known 4
  let bh := T.known (6 + T.buf)
  let f := fmtOf fh
  let g := fmtOf bh
  let both := fh.isSome && bh.isSome
  let pair := both && decide (f.code = 0) && decide (g.code = 0)
  let T3 := T2.known2 both (accFormat f g acc false).isNone
  let kc := colDepth f g
  let T4 := match T.fcc with
    | some n => if both then T3.needScales 0 fh (kc * n) kc else T3
    | none => T3
  let T5 := if both then T4.needScales 1 bh (kc * slot) kc else T4
  let c := colCycles f g
  let some_ := T.vague || (List.range (if both then usedRows f kc else 4)).any fun n => T.rowFed t ls n
  let v := (t + 33 + c, T.here, t)
  let val := tput (if pair then tput T.valid (acc + 1) v else T.valid) acc v
  let odd := if acc % 2 = 0 then acc + 1 else acc
  let rest := T5.halves.filter (· ≠ odd)
  { T5 with
    halves := if acc % 2 = 0 ∧ (pair ∨ !both) then odd :: rest else rest
    valid := val
    busy := t + c
    fcc := T.fcc.map (· + 1)
    live := if some_ then tset 0 T.live acc (2 ^ 32 - 1) else T.live }

/-- An MXCLR empties its accumulator, and its partner's where they may be a pair. -/
def STile.clear (T : STile) (acc : Nat) : STile :=
  { T with
    live := tset 0 (tset 0 T.live acc 0) (if acc % 2 = 0 then acc + 1 else acc - 1) 0
    halves := T.halves.filter fun n => decide (n / 2 ≠ acc / 2) }

/-- A drain: E01 before the accumulator is valid, E10 where a YIELD page has not set its drain fields. -/
def STile.drain (P : SPage) (t acc lane : Nat) (T : STile) : STile :=
  let T1 := (T.needValid t acc 1).needBind t
  let T2 := (T1.failIf (hYield P.hdr && !T.configured acc) 10).put t (t + 2) .aout
  if lane ≤ 7 then T2.put t (t + 3) (.lane lane posVat) else T2

def STile.mSlot (P : SPage) (t : Nat) (sure : Bool) (i : Instr) (T : STile) : STile :=
  match i with
  | .mxhdr stat opnd src st hd =>
    let n := if stat then 5 else 4
    let T0 := T.notBusy t
    let T1 := if opnd then (T0.opnd t st.toNat src.toNat).setHeader n none
      else (T0.needHeader hd.toNat).setHeader n (if sure then T.known hd.toNat else none)
    if stat then T1 else { T1 with fcc := some 0 }
  | .mxldb sc side _ n =>
    let T0 := T.notBusy t
    if sc then { T0 with chunks := (8 * side.toNat + n.toNat) :: T0.chunks }
    else { T0 with slots := (32 * (1 - T0.buf) + n.toNat) :: T0.slots }
  | .mxldbt _ slot =>
    let T0 := ((T.notBusy t).needHeader 4).needHeader 5
    let T1 := T0.known2 (T.known 5).isSome (fmtOf (T.known 5)).block
    { T1 with slots := (32 * (1 - T1.buf) + slot.toNat) :: T1.slots }
  | .mxfeed acc ls _ slot => T.feed P t acc.toNat ls.toNat slot.toNat
  | .mxbub _ => let T0 := T.notBusy t; { T0 with fcc := T0.fcc.map (· + 1) }
  | .mxclr acc => ((T.notBusy t).needValid t acc.toNat 12).clear acc.toNat
  | .mxdrn acc lane _ _ => T.drain P t acc.toNat lane.toNat
  | .mxdrnc acc lane row _ =>
    let T1 := T.drain P t acc.toNat lane.toNat
    { T1 with live := tset 0 T1.live acc.toNat (setBits (tget 0 T1.live acc.toNat) row.toNat 1 0) }
  | .mxaccf acc _ _ _ _ => let T0 := T.notBusy t; { T0 with cfgd := acc.toNat :: T0.cfgd }
  | .mxstat acc form dst st =>
    let T0 := T.needValid t acc.toNat 1
    if form = 3 then T0.put t (t + 2) (.vreg st.toNat dst.toNat) else T0.put t (t + 2) (.kreg dst.toNat)
  | .mxswapb =>
    let T0 := (T.notBusy t).needHeader 5
    { T0.setHeader (6 + (1 - T0.buf)) (if sure then T.known 5 else none) with buf := 1 - T0.buf }
  | .mxpair =>
    let T0 := T.notBusy t
    { T0 with
      bound := true
      pairAt := some (t, T0.here) }
  | .mxsolo =>
    let T0 := T.notBusy t
    { T0 with
      bound := if sure then false else T.bound
      pairAt := some (t, T0.here) }
  | _ => T.notBusy t

/-! ## S slot (R160 to R181) -/

/-- A line written to a pond slot (R161): E14 after the slot's close, or at a close before every line; a fill whose image is
not known at load may write any line. -/
def STile.writeLine (T : STile) (p x l n : Nat) : STile :=
  let T1 := { T.failIf (T.closed.contains (p, x)) 14 with
    lines := (p, x, l) :: T.lines
    wrote := tput T.wrote p T.here }
  if l + 1 = n then
    let T2 := T1.failIf (!T1.vague && (List.range n).any fun k => !T1.lines.contains (p, x, k)) 14
    { T2 with closed := (p, x) :: T2.closed, ww := tset 0 T2.ww p (tget 0 T2.ww p + 1) }
  else T1

def STile.gen (T : STile) (g : Nat) : SGen := tget SGen.zero T.gens g
def STile.setGen (T : STile) (g : Nat) (x : SGen) : STile := { T with gens := tset SGen.zero T.gens g x }

/-- E10: a scratch line read that no earlier cycle of the firing has written. -/
def STile.needScratch (T : STile) (t b l : Nat) : STile :=
  T.failIf (!T.vague && !(T.scr.any fun e => decide (e.1 = b) && decide (e.2.1 = l) && decide (e.2.2 < t))) 10

/-- The step of a running generator in cycle t (R172). A step of an image that is not known at load is not followed. -/
def STile.genStep (P : SPage) (t late : Nat) (T0 : STile) (g : Nat) : STile :=
  let x := T0.gen g
  if !x.run || x.dark then T0
  else
    let T := { T0 with here := x.src }
    let im := x.lat
    let b := gBank im
    let la := gAddr im x.i x.j
    let ln := wrapLine la
    let e := P.pond (gPond im)
    let n := peLines e
    let ij := gStep im x.i x.j
    let x' := { x with
      i := ij.1
      j := ij.2
      run := !gLast im x.i x.j
      step := some t }
    let T1 := T.setGen g x'
    let outside := decide (la < 0) || decide ((n * peCount e : Nat) ≤ la)
    let lane : Dest := .lane (gLane im) (posBank b)
    match gMode im with
    | 1 => (((T1.failIf (P.inWindow b ln) 15).needScratch t b ln).readBank b).put t (t + 2) lane
    | 2 =>
      let T2 := ((T1.failIf (P.inWindow b ln) 15).needLane t (gLane im) (posBank b)).putBank P late (t + 1) b ln
      { T2 with scr := (b, ln, t + 1) :: T2.scr }
    | 3 => ((T1.failIf outside 15).readBank b).put t (t + 2) lane
    | _ =>
      if outside then T1.fail 15
      else
        let at_ := la.toNat
        ((T1.needLane t (gLane im) (posBank b)).putBank P late (t + 1) b
          (peLine e (x.ww + at_ / n) (at_ % n))).writeLine (gPond im) (x.ww + at_ / n) (at_ % n) n

/-- LDT and STT (R167). Which line a generator image that is not known at load names is not judged, but when an STT's line
is written is (R18). -/
def STile.through (P : SPage) (t late g off : Nat) (adv store : Bool) (T : STile) : STile :=
  let x := T.gen g
  if x.unknown then
    if store then { (T.need t .pout).failIf (decide (P.fc ≤ t + 1 + late)) 7 with vague := true } else T.put t (t + 3) .pin
  else
    let b := gBank x.img
    let l := wrapLine (gAddr x.img x.i x.j + off)
    let T1 := (T.failIf (decide (gMode x.img ≠ 0)) 15).failIf (P.inWindow b l) 14
    let T2 := if store then (T1.need t .pout).putBank P late (t + 1) b l
      else ((T1.needScratch t b l).readBank b).put t (t + 3) .pin
    let T3 := if store then { T2 with scr := (b, l, t + 1) :: T2.scr } else T2
    if adv then
      let ij := if gLast x.img x.i x.j then (0, 0) else gStep x.img x.i x.j
      T3.setGen g { x with
        i := ij.1
        j := ij.2 }
    else T3

/-- AGGO (R167, R172). A generator is running in the cycle of its last step. Of an image that is not known at load the first
step is followed as far as its MODE is known: a store that could complete too late is refused (R18). -/
def STile.go (P : SPage) (t late g : Nat) (res : Bool) (T : STile) : STile :=
  let x := T.gen g
  let T1 := T.failIf ((x.run && !x.dark) || x.step = some t) 15
  let m := gMode x.img
  let p := gPond x.img
  if res then
    if x.dark then { T1.setGen g { x with run := true } with vague := true }
    else (T1.failIf (!x.held) 15).setGen g { x with
      run := true
      held := false
      src := T.here }
  else if x.unknown then
    let T2 := T1.failIf (!x.hi && (decide (m = 2) || decide (m = 4)) && decide (P.fc ≤ t + 2 + late)) 7
    { T2.setGen g { x with
        run := true
        held := false
        dark := true } with vague := true }
  else if m = 0 then T1.setGen g { x with
    i := 0
    j := 0 }
  else
    let T2 := (T1.failIf (decide (gLane x.img = 15)) 15).failIf (decide (3 ≤ m) && decide (gBank x.img ≠ peBank (P.pond p))) 15
    T2.setGen g { x with
      lat := x.img
      run := true
      held := false
      i := 0
      j := 0
      ww := if m = 4 then tget 0 T.ww p else 0
      src := T.here
      dark := false }

/-- A line number at or beyond the slot's line count (R165). -/
def STile.lineIn (P : SPage) (p l : Nat) (T : STile) : STile :=
  T.failIf (peValid (P.pond p) && decide (peLines (P.pond p) ≤ l)) 14

/-- A port that faces out of the region in some tile of the tile row (R165, R168): a word runs in every tile of its row, so
a port to the east or west does so in the tile at that edge (log entry 93). -/
def facesOut (P : SPage) (row port : Nat) : Bool :=
  (decide (port = 0) && decide (row = 0)) || (decide (port = 2) && decide (row + 1 = P.tileRows)) || decide (port % 2 = 1)

/-- The column at which a port faces out. -/
def edgeColumn (P : SPage) (port : Nat) : Nat := if port = 1 then 2 * hWblk P.hdr - 1 else 0

/-- Refuse a port that faces out of the region; the finding names the tile at the edge. -/
def STile.needPort (P : SPage) (port code : Nat) (T : STile) : STile :=
  if facesOut P T.row port then
    { T with bads := T.bads ++ [SFind.plain code { T.here with col := edgeColumn P port }] }
  else T

/-- A line, or a sluice slot, sent into the neighbour's pond. -/
def STile.send (P : SPage) (t p port : Nat) (line : Option Nat) (T : STile) : STile :=
  if facesOut P T.row port then T
  else
    let a := P.across T.row port
    { T with sends := T.sends ++ [⟨a.1, t + 1 + a.2, p, facing port, line, T.here⟩] }

def STile.sSlot (P : SPage) (t late : Nat) (T : STile) (i : Instr) : STile :=
  match i with
  | .prd p l => ((T.lineIn P p.toNat l.toNat).readBank (peBank (P.pond p.toNat))).put t (t + 3) .pin
  | .pwr p l =>
    let e := P.pond p.toNat
    let x := tget 0 T.ww p.toNat
    (((T.lineIn P p.toNat l.toNat).need t .pout).putBank P late (t + 1) (peBank e) (peLine e x l.toNat)).writeLine
      p.toNat x l.toNat (peLines e)
  | .prw p port l =>
    (((T.lineIn P p.toNat l.toNat).need t .pout).needPort P port.toNat 14).send P t p.toNat port.toNat (some l.toNat)
  | .ldt g adv off => T.through P t late g.toNat off.toNat adv false
  | .stt g adv off => T.through P t late g.toNat off.toNat adv true
  | .sin port lane =>
    let T1 := (T.needPort P port.toNat 2).put t (t + 1) .pin
    let T2 := { T1 with ins := (port.toNat, t, T.here) :: T1.ins }
    if lane.toNat ≤ 7 then T2.put t (t + 1) (.lane lane.toNat (posPort port.toNat)) else T2
  | .sout port lane =>
    let T1 := (T.needPort P port.toNat 2).failIf (T.outs.any fun e => decide (e.1 = port.toNat) && decide (e.2.1 = t)) 3
    let T2 := if lane.toNat ≤ 7 then T1.needLane t lane.toNat (posPort port.toNat) else T1.need t .pout
    { T2 with outs := (port.toNat, t, T.here) :: T2.outs }
  | .tap st inl outl =>
    let v := inl.toNat + 16 * outl.toNat
    if st then { T with tap1 := v } else { T with tap0 := v }
  | .aggo g res => T.go P t late g.toNat res
  | .agstop g =>
    let x := T.gen g.toNat
    if x.run then T.setGen g.toNat { x with
      run := false
      held := true } else T
  | .agld g lane =>
    let x := T.gen g.toNat
    (if x.hi then T else T.needLane t lane.toNat (posBank (gBank x.img))).setGen g.toNat { x with
      lo := true
      hi := true }
  | .kedge k _ => T.readK t k.toNat
  | .slck _ k => T.put t (t + 2) (.kreg k.toNat)
  | .slfwd p port remote =>
    if remote then (T.needPort P port.toNat 14).send P t p.toNat port.toNat none
    else
      let x := tget 0 T.ww p.toNat
      { T with
        ww := tset 0 T.ww p.toNat (x + 1)
        closed := (p.toNat, x) :: T.closed }
  | .poisk k => (T.need t .pin).put t (t + 2) (.kreg k.toNat)
  | _ => T

/-! ## FL words (R55, R159, R171, R178) -/

def STile.long (t : Nat) (sure : Bool) (i : Instr) (T : STile) : STile :=
  match i with
  | .vimm st vd _ => T.put t (t + 1) (.vreg st.toNat vd.toNat)
  | .vsetm et _ _ w0 w1 =>
    let keep := fun (xs : List Nat) => if sure then [et.toNat] else (et.toNat :: xs).eraseDups
    let T1 := if w0 then { T with vm0 := keep T.vm0 } else T
    if w1 then { T1 with vm1 := keep T1.vm1 } else T1
  | .kset k mode v =>
    T.put t (t + 1) (.kreg k.toNat)
      (if !sure then none else match mode.toNat with
        | 0 => some v.toNat
        | 1 => (T.trace t k.toNat).map fun m => m % 2 ^ 32 + 2 ^ 32 * v.toNat
        | _ => some (v.toNat * 0x100000001))
  | .agcfg g _ _ _ =>
    let x := T.gen g.toNat
    T.setGen g.toNat { x with
      img := BitVec.ofNat 128 (setBits x.img.toNat 3 61 ((payload i).toNat / 8))
      lo := false }
  | .agcfg2 g _ _ _ _ _ _ =>
    let x := T.gen g.toNat
    T.setGen g.toNat { x with
      img := BitVec.ofNat 128 (setBits x.img.toNat 67 61 ((payload i).toNat / 8))
      hi := false }
  | .hdrset hd _ _ _ _ => T.setHeader hd.toNat (if sure then some ((payload i).toNat % 2 ^ 23) else none)
  | .mxcfg _ _ _ _ => { T with mxcfg := true }
  | _ => T

/-! ## A cycle, an iteration, a firing -/

/-- The word of a tile row in cycle t. A word whose guard is traced false is not checked; every other guard counts as true
(R382). The slots read before any of them writes (R49). -/
def STile.cycle (P : SPage) (t late base j : Nat) (T0 : STile) : STile :=
  let at_ := fun (T : STile) (slot : Nat) => { T with here := ⟨T.row, 0, if base = 0 then 0 else 1, j, slot⟩ }
  let T := at_ ((List.range 8).foldl (fun T g => T.genStep P t late g) { T0 with rd := [] }) 0
  match decode (P.word T.row (base + j)) with
  | .ok (.ft ginv gk m v s) =>
    let T1 := T.readK t gk.toNat
    let b := T.guard t gk.toNat ginv
    if b = some false then T1
    else
      let sure := decide (b = some true)
      let T2 := match v with
        | some i => (at_ T1 2).vReads t i
        | none => T1
      let T3 := match m with
        | some i => (at_ T2 1).mSlot P t sure i
        | none => T2
      let T4 := match v with
        | some i => (at_ T3 2).vWrites t sure i
        | none => T3
      match s with
        | some i => (at_ T4 3).sSlot P t late i
        | none => T4
  | .ok (.fl ginv gk i) =>
    let T1 := T.readK t gk.toNat
    let b := T.guard t gk.toNat ginv
    if b = some false then T1 else T1.long t (decide (b = some true)) i
  | _ => T

/-- A line arrives at a neighbour's pond through the pointer of the facing port (R162, R165): a write of the bank, and of the
slot at the pointer; a pond is written through one pointer. -/
def STile.take (P : SPage) (late : Nat) (T0 : STile) (e : SSend) : STile :=
  let T := { T0 with here := e.src }
  let p := P.pond e.pond
  let key := e.pond + 32 * (e.port + 1)
  let x := tget 0 T.ww key
  let T1 := T.failIf (T.lines.any fun l => decide (l.1 % 32 = e.pond) && decide (l.1 ≠ key)) 14
  match e.line with
  | some l => (T1.putBank P late e.at_ (peBank p) (peLine p x l)).writeLine key x l (peLines p)
  | none =>
    let T2 := T1.putBank P late e.at_ (peBank p) (peLine p x 0)
    { T2 with
      ww := tset 0 T2.ww key (x + 1)
      closed := (key, x) :: T2.closed }

/-- The lines that the tiles sent in a cycle reach their neighbours. -/
def deliverSends (P : SPage) (late : Nat) (ts : List STile) : List STile :=
  let es := ts.flatMap STile.sends
  if es.isEmpty then ts
  else ts.map fun (T : STile) =>
    (es.filter fun e => decide (e.dest = T.row)).foldl (fun T e => T.take P late e) { T with sends := [] }

/-- Drop results that nothing can read or meet any more. -/
def STile.forget (t : Nat) (T : STile) : STile :=
  { T with evs := T.evs.filter fun e => match e.dst with
      | .vreg _ _ | .kreg _ => true
      | _ => decide (t ≤ e.at_ + 16) }

/-- Rows j to j + n − 1 of a schedule that starts at row `base` of the row store. -/
def runRows (P : SPage) (base late : Nat) : Nat → Nat → Nat → List STile → List STile
  | _, _, 0, ts => ts
  | t, j, n + 1, ts =>
    runRows P base late (t + 1) (j + 1) n (deliverSends P late (ts.map fun (T : STile) => T.cycle P t late base j))

/-- A firing as it was followed: the conditions that its iterations after the first took (true for B), its tiles at the end,
and its cycles. -/
structure SRun where
  conds : List Bool
  tiles : List STile
  len : Nat
  deriving DecidableEq, Repr

/-- Every sequence of iterations from iteration `sel` on, `n` of them left (R26, R73: without bubble cycles); `late` is how
much later a cycle of this iteration can come, in the longest firing and in the eastmost column (R18); `cs` the conditions
taken so far, the latest first. -/
def walk (P : SPage) : Nat → Bool → Nat → Nat → List Bool → List STile → List SRun
  | 0, _, t, _, cs, ts => [⟨cs.reverse, ts, t⟩]
  | n + 1, sel, t, late, cs, ts =>
    let ii := if sel then hIib P.hdr else hIia P.hdr
    let us := runRows P (if sel then 16 else 0) late t 0 ii (ts.map (STile.forget t))
    if hDual P.hdr then
      let slack := late + 2 + (if t = 0 then 0 else max (hIia P.hdr) (hIib P.hdr) - ii)
      if n = 0 then [⟨cs.reverse, us, t + ii⟩]
      else walk P n false (t + ii) slack (false :: cs) us ++ walk P n true (t + ii) slack (true :: cs) us
    else walk P n false (t + ii) late cs us

/-- The sequences of a firing of n iterations that starts with these tiles. -/
def firings (P : SPage) (n : Nat) (ts : List STile) : List SRun :=
  walk P n (hSsel0 P.hdr) 0 (2 * hWblk P.hdr - 1) [] ts

/-- The condition sequences that a firing of the page can take: those that its run-ahead thread delivers, as far as that
thread can be followed (log entry 93); none where any sequence can come. -/
def SPage.delivered (P : SPage) : Option (List (List Bool)) :=
  if !hDual P.hdr || hCsrc P.hdr then none
  else match allDeliveries P.code (hIter P.hdr - 1) with
    | some [] | none => none
    | some qs => some qs

/-! ## Whole-page checks -/

/-- The condition words of a schedule: tile row, row, column offset, and whether the guard is always true. -/
def kedges (P : SPage) (base ii : Nat) : List (Nat × Nat × Nat × Bool) :=
  (List.range P.tileRows).flatMap fun r => (List.range ii).filterMap fun j =>
    match decode (P.word r (base + j)) with
    | .ok (.ft ginv gk _ _ (some (.kedge _ col))) => some (r, j, col.toNat, !ginv && decide (gk = 0))
    | _ => none

/-- The KEDGE words of a schedule that break R27, R28 or R174: column, guard, and time for the last row cycle; and a count
that is not one in a schedule that another iteration follows. -/
def badKedgesOf (P : SPage) (base ii : Nat) (used : Bool) : List SFind :=
  let h := P.hdr
  let ks := kedges P base ii
  let place := fun (e : Nat × Nat × Nat × Bool) => SPlace.mk e.1 e.2.2.1 (if base = 0 then 0 else 1) e.2.1 3
  if !hCsrc h then ks.map fun e => SFind.plain 7 (place e)
  else
    (ks.filter fun e => !e.2.2.2 || decide (2 * hWblk h ≤ e.2.2.1)).map (fun e => SFind.plain 14 (place e)) ++
      (if used then
        (ks.filter fun e => decide (ii < e.2.1 + e.2.2.1 + 2)).map (fun e => SFind.plain 7 (place e)) ++
          (if ks.length = 1 then []
          else [14, 7].map fun code => SFind.plain code ⟨0, 0, if base = 0 then 0 else 1, ii - 1, 3⟩)
      else [])

/-- R27, R28 and R174: where KEDGE may stand, its guard and column, one delivery in each iteration that another follows, in
time for the last row cycle. -/
def badKedges (P : SPage) : List SFind :=
  let h := P.hdr
  let many := decide (3 ≤ hIter h)
  badKedgesOf P 0 (hIia h) (decide (2 ≤ hIter h) && (!hSsel0 h || many)) ++
    (if hDual h then badKedgesOf P 16 (hIib h) (decide (2 ≤ hIter h) && (hSsel0 h || many)) else [])

/-- The ports of a tile row. -/
def portsOf (ts : List STile) (r : Nat) (f : STile → List (Nat × Nat × SPlace)) : List (Nat × Nat × SPlace) :=
  match ts.find? fun (T : STile) => decide (T.row = r) with
  | some T => f T
  | none => []

/-- E02: a SOUT to the north or south without the SIN of the neighbour at t + h, or a SIN without its SOUT (R168). -/
def badPorts (P : SPage) (ts : List STile) : List SFind :=
  ts.flatMap fun (T : STile) =>
    let lone := fun (other : STile → List (Nat × Nat × SPlace)) (later : Bool) (e : Nat × Nat × SPlace) =>
      let a := P.across T.row e.1
      !facesOut P T.row e.1 && !((portsOf ts a.1 other).any fun o =>
        decide (o.1 = facing e.1) && decide (if later then o.2.1 = e.2.1 + a.2 else o.2.1 + a.2 = e.2.1))
    ((T.outs.filter (lone STile.ins true)) ++ (T.ins.filter (lone STile.outs false))).map fun e => SFind.plain 2 e.2.2

/-- The word that fed a live accumulator last. -/
def STile.feeder (T : STile) (acc : Nat) : SPlace :=
  ((T.valid.find? fun e => decide (e.1 = acc)).map fun e => e.2.2.1).getD T.here

/-- What the end of a firing of `len` cycles shows in a tile: E15 for a generator still running in its last cycle, E14 for a
slot written and not closed (R161), E09 for a live accumulator at a yield point. -/
def badEnd (P : SPage) (len : Nat) (T : STile) : List SFind :=
  (T.gens.filterMap fun e =>
    if (e.2.run && !e.2.dark) || e.2.step = some (len - 1) then some (SFind.plain 15 e.2.src) else none) ++
    (if T.vague then []
    else (T.lines.filter fun e => !T.closed.contains (e.1, e.2.1)).map fun e => SFind.plain 14 (tget T.here T.wrote e.1)) ++
    (if hYield P.hdr then (T.live.filter fun e => decide (e.2 ≠ 0)).map fun e => SFind.plain 9 (T.feeder e.1) else [])

/-- What a sequence's tiles show. A pond that a route writes through a pointer is written through nothing else (R162). -/
def findsOf (P : SPage) (e : SRun) : List SFind :=
  e.tiles.flatMap STile.bads ++ badPorts P e.tiles ++
    e.tiles.flatMap fun (T : STile) => (T.lines.filter fun l => P.routed.any fun q =>
      decide (q.1 = T.row) && decide (q.2.1 = l.1 % 32) && decide (q.2.2.map (fun n => l.1 % 32 + 32 * (n + 1)) ≠ some l.1)).map
      fun l => SFind.plain 14 (tget T.here T.wrote l.1)

/-- What the ends of the firings show that the page can take. -/
def endFinds (P : SPage) (es : List SRun) : List SFind :=
  let ends := fun (e : SRun) => e.tiles.flatMap (badEnd P e.len)
  match P.delivered with
  | none => es.flatMap ends
  | some qs => (es.filter fun e => qs.contains e.conds).flatMap ends

/-- The findings over some sequences; one that rests on headers known at load counts where they are known on every path to
the word (R132). -/
def findsAll (P : SPage) (es : List SRun) : List SFind :=
  let unks := es.flatMap fun e => e.tiles.flatMap STile.unks
  let softs := es.flatMap fun e => e.tiles.flatMap STile.softs
  es.flatMap (findsOf P) ++ softs.filter fun f => !unks.contains f.at_

/-- The sequences of the firings that start with `new`, and of those that follow their ends; `seen` holds starts already
followed. -/
def allFirings (P : SPage) : Nat → List (List STile) → List (List STile) → List SRun
  | 0, _, _ => []
  | n + 1, seen, new =>
    let es := new.flatMap (firings P (hIter P.hdr))
    let next := ((es.map fun e => e.tiles.map STile.again).eraseDups).filter fun ts => !(seen ++ new).contains ts
    if next.isEmpty then es else es ++ allFirings P n (seen ++ new) next

/-- A DUAL page of fewer than three iterations never runs all four transitions: they are checked as if it had three, without
what FC allows (R73). -/
def shortRuns (P : SPage) (start : List STile) : List SRun :=
  if hDual P.hdr && decide (hIter P.hdr < 3) then firings { P with fc := 2 ^ 30 } 3 start else []

/-- Why the loader refuses a page's schedule under one crossing of a die boundary: a first firing, from the values of
placement, and every one that follows the end of an earlier firing (R73, R140). -/
def schedFindsAt (P : SPage) : List SFind :=
  let start := (List.range P.tileRows).map STile.placed
  let es := allFirings P 1024 [] [start]
  badKedges P ++ (findsAll P es ++ endFinds P es ++ findsAll P (shortRuns P start)).eraseDups

/-- Where a die boundary may cross a region of n tile rows: nowhere, or under an odd tile row (R10, R11). -/
def crossings (n : Nat) : List (Option Nat) :=
  (if n ≤ 16 then [none] else []) ++
    ((List.range (n - 1)).filter fun c => decide (c % 2 = 1) && decide (c ≤ 15) && decide (n ≤ 17 + c)).map some

/-- Why the loader refuses a page's schedule: a page does not say where it is placed, so it is refused where every placement
refuses it (log entry 93), with what the first shows. -/
def schedFinds (P : SPage) : List SFind :=
  let cs := crossings P.tileRows
  if cs.any fun c => (schedFindsAt { P with cross := c }).isEmpty then []
  else match cs with
    | c :: _ => schedFindsAt { P with cross := c }
    | [] => []

end Sys2Proof.Machine
end

