-- ==== Sys2Proof/Machine/LoaderOps.lean ====
section
/-! DEFINITION. The loader: the checks of an image as a whole (E18), of its pages' headers, words and frame lengths (E06,
E07), of ponds, routes and timelines (E16), the simulation of its rate sets (E08) and of their drains (E17), what the ponds
of a yield page hold (E09), the checks of its schedules, and what a refusal reports (R14, R15, R17, R18, R22 to R24, R29,
R45, R70 to R77, R252, R253, R256, R258, R259, R261, R265, R268, R270, R273, R286, R290 to R292, R313). The checks of a
page's schedule cycle by cycle are in SchedOps.lean. -/

namespace Sys2Proof.Machine

/-! ## What a refusal names (R72, R77) -/

/-- A refusal: code; the rule broken, for E18; section-table index, actor and stage; the word, for a refusal of a word; and
what else the code names (a rate set and package for E08, a pond, a route, a record). -/
structure Finding where
  code : Nat
  rule : Nat
  sect : Option Nat
  actor : Option Nat
  stage : Option Nat
  word : Option SFind
  what : List Nat
  deriving DecidableEq, Repr

/-- An absent number reads 0, a number one more. -/
def optNum (o : Option Nat) : Nat := match o with
  | some n => n + 1
  | none => 0

def SPlace.words (w : SPlace) : List Nat := [w.tr, w.col, w.sched, w.row, w.slot]

/-- The numbers of a report. -/
def Finding.words (f : Finding) : List Nat :=
  [f.code, f.rule, optNum f.sect, optNum f.actor, optNum f.stage] ++
    (match f.word with
      | some w => [1] ++ w.at_.words ++
        (match w.prod with
          | some q => [1] ++ q.words ++ [w.found, w.need]
          | none => [0])
      | none => [0]) ++ f.what

def Finding.whole (rule : Nat) (sect : Option Nat) : Finding := ⟨18, rule, sect, none, none, none, []⟩
def Finding.graph (code : Nat) (what : List Nat) : Finding := ⟨code, 0, none, none, none, none, what⟩

/-- A list with one element where a condition holds. -/
def oneIf {α : Type} (b : Bool) (x : α) : List α := if b then [x] else []

/-! ## The image as a whole (R70 to R72, R313) -/

/-- A section's size and TARGET for its kind. -/
def sectionOk (actors : Nat) (x : Section) : Bool :=
  match x.kind with
  | 1 | 4 | 6 => decide (x.target = 0)
  | 2 => decide (x.size = 65536) && decide (x.target < actors)
  | 3 => decide (x.size % 10 = 0)
  | 5 => decide (x.size ≠ 0) && decide (x.size % 16384 = 0) && decide (x.target % 2 ^ 16 < 384) && decide (x.target / 2 ^ 16 ≤ 1)
  | _ => false

def countOf (xs : List Section) (k t : Nat) : Nat := (xs.filter fun x => decide (x.kind = k) && decide (x.target = t)).length

def Section.clash (x y : Section) : Bool :=
  overlaps x.offset x.size y.offset y.size && decide (x.size ≠ 0) && decide (y.size ≠ 0)

/-- A page of an HBM actor (R265). -/
def hbmPage (bs : List Byte) : Bool := decide (hRole (BitVec.ofNat 128 (pgNum bs 0 16)) ≠ 0)

/-- What E18 finds in the sections: bounds and overlaps, KIND, FLAGS, sizes and TARGET, and doubles. -/
def badSections (d : ImageDecl) : List Finding :=
  let xs := d.sections
  let n := d.actorCount
  (xs.zip (List.range xs.length)).flatMap fun e =>
    let x := e.1
    let before := xs.take e.2
    oneIf (decide (d.file.length < x.offset + x.size) || before.any (Section.clash x) || decide (x.kind = 0) || decide (6 < x.kind))
        (Finding.whole 72 (some e.2)) ++
      oneIf (decide (x.flags ≠ 0) || !sectionOk n x ||
          (decide (x.kind = 1) && decide (countOf before 1 0 ≠ 0)) ||
          ((decide (x.kind = 2) || decide (x.kind = 5)) && decide (countOf before x.kind x.target ≠ 0)))
        (Finding.whole 71 (some e.2))

/-- E18: what is wrong with the image as a whole. A channel that has a retreat timeline, or any channel of an image with an
HBM actor, needs a cold one: which channels an actor uses lies in shape records outside the image (log entry 8). -/
def badImage (d : ImageDecl) : List Finding :=
  let xs := d.sections
  let n := d.actorCount
  oneIf (decide (d.magic ≠ 0x4E595A49) || decide (d.version ≠ 1) || decide (d.mbz ≠ 0) || decide (d.nsect = 0) ||
      decide (4096 < d.nsect) || decide (d.file.length < d.tabOff + 32 * d.nsect)) (Finding.whole 70 none) ++
    badSections d ++
    oneIf (decide (d.meas ≠ Config.shake256 d.measured)) (Finding.whole 72 none) ++
    oneIf (decide (countOf xs 1 0 = 0) || (List.range n).any (fun a => decide (countOf xs 2 a = 0)) ||
      (List.range 384).any (fun c => decide (countOf xs 5 (c + 2 ^ 16) ≠ 0) && decide (countOf xs 5 c = 0)) ||
      (d.pages.any hbmPage && !(List.range 384).any (fun c => decide (countOf xs 5 c ≠ 0)))) (Finding.whole 71 none) ++
    oneIf (decide (256 < (d.ctl.filter fun e => decide (e.1 < 256)).length)) (Finding.whole 313 none)

/-- A finding in the page of an actor: its section, the actor and its stage. -/
def pageFinding (d : ImageDecl) (a code : Nat) (word : Option SFind) (what : List Nat) : Finding where
  code := code
  rule := 0
  sect := d.sections.findIdx? fun x => decide (x.kind = 2) && decide (x.target = a)
  actor := some a
  stage := some (hStage (BitVec.ofNat 128 (pgNum (d.page a) 0 16)))
  word := word
  what := what

/-! ## Pages (R17, R18, R22 to R24, R45) -/

def pgHeader (bs : List Byte) : BitVec 128 := BitVec.ofNat 128 (pgNum bs 0 16)
def pgRoutes (bs : List Byte) : List Route :=
  ((List.range 64).map fun k => BitVec.ofNat 128 (pgNum bs (0x1200 + 16 * k) 16)).map fun x => Route.mk x 0 0 false 0 0 0 0 0 0
def Route.valid (x : Route) : Bool := decide (bitsOf x.raw.toNat 0 1 = 1)
/-- The row-store words of a page: index 32 × tile row + row. -/
def pgWords (bs : List Byte) (rows : Nat) : List (Nat × Nat) :=
  (List.range (32 * rows)).map fun k => (k, pgNum bs (0x1600 + 10 * k) 10)
/-- The words of a page's run-ahead code. -/
def pgCode (bs : List Byte) : List W80 := codeWords (sliceOf bs 0x3E00 15360)

def pgTail (bs : List Byte) : Bool := (bs.drop 0x10 |>.take 0xF0).all (· = 0) && (bs.drop 0x7A00).all (· = 0)

/-- A header field out of its range. -/
def badHeader (h : BitVec 128) : Bool :=
  let n := h.toNat
  let dual := hDual h
  decide (bitsOf n 28 4 ≠ 0) || decide (bitsOf n 80 48 ≠ 0) || decide (hRole h = 3) || decide (hIter h = 0) ||
    (dual && decide (16 < hIia h)) || (!dual && (decide (hIib h ≠ 1) || hSsel0 h || hCsrc h)) ||
    decide (32 < hWblk h) || decide (16 < hHblk h)

/-- Cycles of the longest firing, skew included (R18). -/
def longestFiring (h : BitVec 128) : Nat :=
  let n := hIter h - 1
  let first := if hSsel0 h then hIib h else hIia h
  let later := if hDual h then max (hIia h) (hIib h) + 2 else hIia h
  first + n * later + 2 * hWblk h - 1

/-- A row word that no row of the schedules selects is NOP (R24). -/
def rowUnused (h : BitVec 128) (row : Nat) : Bool :=
  if hDual h then (if row < 16 then decide (hIia h ≤ row) else decide (hIib h ≤ row - 16)) else decide (hIia h ≤ row)

/-- A field that holds a form of a slot or an FL word: E06 where it is none, and E07 too where its opcode lies above the
last one listed (R24, R76). -/
def slotCodes (slot top opcode : Nat) (none_ : Bool) (f : Form) : List (Nat × Nat) :=
  if none_ || (readChecked f).isSome then [] else (6, slot) :: oneIf (decide (top < opcode)) (7, slot)

/-- The codes under which a word may not stand in a row store, each with the slot at fault: E06 (R45, R48, R51 to R53), and E07
for a control word, a reserved class or an unlisted opcode (R24, R76). -/
def fabricWordCodes (w : Nat) : List (Nat × Nat) :=
  let slot := fun (lo : Nat) => bitsOf w lo 24
  match classOf w with
  | 0 => if w = 0 then [] else [(6, 0)]
  | 1 => slotCodes 1 0x0D (bitsOf (slot 48) 17 7) (decide (slot 48 = 0)) (mForm (slot 48)) ++
      slotCodes 2 0x3A (bitsOf (slot 24) 17 7) (decide (slot 24 = 0)) (vForm (slot 24)) ++
      slotCodes 3 0x12 (bitsOf (slot 0) 17 7) (decide (slot 0 = 0)) (sForm (slot 0))
  | 2 => (slotCodes 0 0x0B (bitsOf w 64 8) false (.long (bitsOf w 64 8) (bitsOf w 0 64))) ++
      oneIf (decide (bitsOf w 64 8 = 0)) (7, 0)
  | 15 => [(6, 0)]
  | _ => [(6, 0), (7, 0)]

/-- A word that no control code may hold (R45); GUARD fills unused words. -/
def badControlWord (w : Nat) : Bool :=
  match decode w with
  | .ok (.ctl _) | .ok .nul | .ok .guard => false
  | _ => true

/-- The place of a slot of a row-store word. -/
def rowPlace (h : BitVec 128) (k slot : Nat) : SPlace :=
  let row := k % 32
  if hDual h && decide (16 ≤ row) then ⟨k / 32, 0, 1, row - 16, slot⟩ else ⟨k / 32, 0, 0, row, slot⟩

/-- The words of a page: E06 and E07 for each that may not stand there. A word in a tile row beyond the region's height
disagrees with the region's shape (R24). -/
def badWords (d : ImageDecl) (a : Nat) : List Finding :=
  let bs := d.page a
  let h := pgHeader bs
  let at_ := fun (k code slot : Nat) => pageFinding d a code (some (SFind.plain code (rowPlace h k slot))) []
  ((pgWords bs 32).flatMap fun e =>
    (fabricWordCodes e.2).map (fun c => at_ e.1 c.1 c.2) ++
      oneIf ((rowUnused h (e.1 % 32) || decide (2 * hHblk h ≤ e.1 / 32)) && decide (e.2 ≠ 0)) (at_ e.1 7 0)) ++
    ((pgCode bs).zip (List.range 1536)).filterMap fun e =>
      if badControlWord e.1.toNat then some (pageFinding d a 6 none [e.2]) else none

/-- The words of the control sections (R45). -/
def badCode (d : ImageDecl) : List Finding :=
  (d.sections.zip (List.range d.sections.length)).flatMap fun x =>
    if x.1.kind = 3 then
      let ws := codeWords (d.bytesOf x.1)
      (ws.zip (List.range ws.length)).filterMap fun e =>
        if badControlWord e.1.toNat then some ⟨6, 0, some x.2, none, none, none, [e.2]⟩ else none
    else []

/-- E07: a reserved byte, a header field, or a last word after frame cycle FC − 1, which names that word: the last row of the
schedule that the longest firing ends with. -/
def badPage (d : ImageDecl) (a : Nat) : List Finding :=
  let bs := d.page a
  let h := pgHeader bs
  let toB := if hIter h = 1 then hSsel0 h else hDual h && decide (hIia h < hIib h)
  let last := SPlace.mk 0 (2 * hWblk h - 1) toB.toNat ((if toB then hIib h else hIia h) - 1) 0
  oneIf (decide (bs.length ≠ 65536) || !pgTail bs || badHeader h) (pageFinding d a 7 none []) ++
    oneIf (decide (d.graph.fc < longestFiring h)) (pageFinding d a 7 (some (SFind.plain 7 last)) [])

/-- E07: frame lengths. -/
def badFrames (g : GraphDecl) : List Finding :=
  oneIf (decide (g.fc < 64) || decide (2 ^ 20 - 64 < g.fc) || decide (g.fm < 16) || decide (2 ^ 20 - 64 < g.fm))
    (Finding.graph 7 [])

/-! ## Ponds (R252, R253, R256, R261, R265, R270) -/

/-- A pond entry out of range, or a window beyond its bank. -/
def badPond (e : Word) : Bool :=
  let n := e.toNat
  let slog := bitsOf n 15 4
  let clog := bitsOf n 19 4
  let lines := 2 ^ slog / 64
  if n % 2 = 0 then decide (n ≠ 0)
  else decide (slog < 9) || decide (16 < slog) || decide (clog = 0) || decide (8 < clog) || decide (2 ^ clog < bitsOf n 32 9) ||
    decide (bitsOf n 41 2 = 3) || decide (bitsOf n 43 2 = 3) || decide (bitsOf n 45 19 ≠ 0) ||
    decide (bitsOf n 4 11 % lines ≠ 0) || decide (1536 < bitsOf n 4 11 + 2 ^ clog * lines)

def pondLines (e : Word) : Nat := peCount e * peLines e

/-- Two windows of one bank overlap. -/
def pondsClash (es : List Word) : Bool :=
  anyPair (fun a b => peValid a && peValid b && decide (peBank a = peBank b) &&
    overlaps (peOffset a) (pondLines a) (peOffset b) (pondLines b)) es

/-- The role and the timeline ponds of a page (R265). -/
def badRole (h : BitVec 128) (es : List Word) : Bool :=
  let has := fun (dir : Nat) => es.any fun e => peValid e && decide (peKind e = 2) && decide (peDir e = dir)
  match hRole h with
  | 0 => has 0 || has 1 || has 2
  | 1 => !has 0 || has 1 || has 2
  | _ => !has 1 || has 0 || has 2

/-- A page that consumes nothing (R270). -/
def noInput (es : List Word) : Bool := !(es.any fun e => peValid e && decide (peDir e ≠ 1))

/-- An output pond that neither a route nor a timeline carries (R256). -/
def strandedOutput (e : Word) (k : Nat) (rs : List Route) : Bool :=
  peValid e && decide (peDir e = 1) && decide (peKind e ≠ 2) && !(rs.any fun x => x.valid && decide (x.spond = k))

/-- The direction and kind that a graph's arcs give a pond: input, output, self-arc; cross-package. -/
def pondOfArcs (g : GraphDecl) (me a k : Nat) : Option (Nat × Nat) :=
  let ins := g.arcs.filter fun x => decide (x.consPkg = me) && decide (x.cons = a) && decide (x.consPond = k)
  let outs := g.arcs.filter fun x => decide (x.prodPkg = me) && decide (x.prod = a) && decide (x.prodPond = k)
  let kind := fun (xs : List ArcDecl) => if xs.any fun x => decide (x.prodPkg ≠ x.consPkg) then 1 else 0
  match ins, outs with
  | [], [] => none
  | _ :: _, [] => some (0, kind ins)
  | [], _ :: _ => some (1, kind outs)
  | _, _ => some (2, 0)

/-- DIR or KIND against the arcs, and INIT against the delay. -/
def badArcPond (g : GraphDecl) (me a k : Nat) (e : Word) : Bool :=
  if !peValid e then (pondOfArcs g me a k).isSome
  else if peKind e = 2 then (pondOfArcs g me a k).isSome
  else
    decide (pondOfArcs g me a k ≠ some (peDir e, peKind e)) ||
      g.arcs.any fun x => decide (x.consPkg = me) && decide (x.cons = a) && decide (x.consPond = k) && decide (x.delay ≠ peInit e)

/-- E16: the ponds of a page; a finding about one pond names it. -/
def badPonds (d : ImageDecl) (me a : Nat) : List Finding :=
  let bs := d.page a
  let es := (List.range 32).map (pgPond bs)
  ((List.range 32).filter fun k =>
    let e := (es[k]?).getD 0
    badPond e || badArcPond d.graph me a k e || strandedOutput e k (pgRoutes bs)).map (fun k => pageFinding d a 16 none [k]) ++
    oneIf (pondsClash es || badRole (pgHeader bs) es || noInput es) (pageFinding d a 16 none [])

/-! ## Routes (R258, R259) -/

/-- A route entry with a bit that must be zero, or a place outside its region. -/
def badRoute (h : BitVec 128) (x : Route) : Bool :=
  let n := x.raw.toNat
  if !x.valid then decide (n ≠ 0)
  else decide (bitsOf n 59 5 ≠ 0) || decide (bitsOf n 86 42 ≠ 0) || decide (2 * hHblk h ≤ bitsOf n 13 5) ||
    decide (2 * hWblk h ≤ bitsOf n 18 6) || (decide (x.path ≠ 3) && decide (x.pkg ≠ 0)) || (decide (x.path = 3) && decide (x.unit ≠ 0))

/-- The tiles of a PATH 0 route, at offsets from the region's north-west tile: column and row. -/
def pathEnds (x : Route) : (Int × Int) × (Int × Int) :=
  let c : Int := bitsOf x.raw.toNat 18 6
  let r : Int := bitsOf x.raw.toNat 13 5
  ((c, r), (c + x.dx, r + x.dy))

/-- Lines that a route sends in a rate set and phase. -/
def pgRouteLines (bs : List Byte) (x : Route) (set phase : Nat) : Nat :=
  pgNum bs (0x200 + 512 * set + 32 * phase + x.spond) 1 * peLines (pgPond bs x.spond)

/-- The hops of a PATH 0 route, in cycles, under each crossing of a die boundary that a placement can give its region. -/
def localHops (h : BitVec 128) (x : Route) : List Nat :=
  let e := pathEnds x
  (crossings (2 * hHblk h)).map fun (c : Option Nat) =>
    if e.1.2 ≠ e.2.2 ∧ c = some (min e.1.2 e.2.2).toNat then 3 else 1

/-- A PATH 0 route that leaves its region, is no neighbour, or whose last line arrives too late wherever the page is
placed. -/
def badLocalRoute (fm : Nat) (bs : List Byte) (x : Route) : Bool :=
  let h := pgHeader bs
  let e := (pathEnds x).2
  decide (e.1 < 0) || decide (e.2 < 0) || decide ((2 * hWblk h : Nat) ≤ e.1) || decide ((2 * hHblk h : Nat) ≤ e.2) ||
    decide (x.dx.natAbs + x.dy.natAbs ≠ 1) ||
    (List.range 8).any fun set => (List.range (hPhases h)).any fun ph =>
      let n := pgRouteLines bs x set ph
      decide (n ≠ 0) && (localHops h x).all fun k => decide (fm ≤ x.start + n - 1 + k)

/-- Two PATH 0 routes of a page use one port or one bank in one cycle. -/
def localMeet (bs : List Byte) (x y : Route) : Bool :=
  let h := pgHeader bs
  let a := pathEnds x
  let b := pathEnds y
  let bank := fun (z : Route) => peBank (pgPond bs z.dpond)
  (decide (a = b) || (decide (a.2 = b.2) && decide (bank x = bank y))) &&
    (List.range 8).any fun set => (List.range (hPhases h)).any fun ph =>
      let nx := pgRouteLines bs x set ph
      let ny := pgRouteLines bs y set ph
      decide (nx ≠ 0) && decide (ny ≠ 0) && decide (x.start < y.start + ny) && decide (y.start < x.start + nx)

/-- E16: the routes of a page; a finding about one route names it. -/
def badRoutes (d : ImageDecl) (a : Nat) : List Finding :=
  let bs := d.page a
  let xs := pgRoutes bs
  let ls := xs.filter fun x => x.valid && decide (x.path = 0)
  ((xs.zip (List.range 64)).filter fun e =>
    badRoute (pgHeader bs) e.1 || (e.1.valid && decide (e.1.path = 0) && badLocalRoute d.graph.fm bs e.1)).map
      (fun e => pageFinding d a 16 none [32 + e.2]) ++
    oneIf (anyPair (localMeet bs) ls) (pageFinding d a 16 none [])

/-! ## Timelines (R290 to R292, R300) -/

/-- Records rise strictly in CYC, and nothing follows an END. -/
def risingRecords : List Word → Bool
  | a :: b :: rest =>
    (if rcCmd a = 0 then decide (b = 0) else decide (b = 0) || decide (rcCyc a < rcCyc b)) && risingRecords (b :: rest)
  | _ => true

def liveRecords (t : TimelineDecl) : List Word := t.records.takeWhile fun w => decide (rcCmd w ≠ 0)

/-- The least weir window that the partition can have: a region too wide or too high for a die makes it span dies (R17). -/
def leastWeir (d : ImageDecl) : Nat :=
  if d.pages.any fun bs => decide (16 < hWblk (pgHeader bs)) || decide (8 < hHblk (pgHeader bs)) then 64 else 24

/-- A record with an unlisted command, a bit that must be zero, the wrong step for its command, a step of a TWE that serves
no page (the TWEs 0 to 3 of each block of a region serve its page, R286: none does where no actor uses the HBM), a slot line moved before the communication superstep, or a REPAIR outside it. Where the weir window is not
known at load, a cycle is refused under both (log entry 12). -/
def badRecord (d : ImageDecl) (t : TimelineDecl) (w : Word) : Bool :=
  let e := (t.steps[rcStep w]?).getD 0
  let k := rcCmd w
  let fc := d.graph.fc
  decide (10 < k) || decide (bitsOf w.toNat 58 6 ≠ 0) || (decide (k = 4) && teDrain e) || (decide (k = 5) && !teDrain e) ||
    ((decide (k = 4) || decide (k = 5) || decide (k = 10)) && !d.pages.any hbmPage) ||
    (decide (rcCyc w < fc + leastWeir d) && ((decide (k = 4) && teLast e) || decide (k = 10) || decide (k = 5) || decide (k = 8))) ||
    (decide (k = 8) && decide (fc + 64 + d.graph.fm ≤ rcCyc w))

/-- The row open in each bank, as a walk through the records goes. -/
def openRow (m : Tab Nat) (w : Word) : Tab Nat := if rcCmd w = 1 then tput m (rcBank w) (rcRow w) else m

/-- The 1 KiB group of a WR or WRC: bank, open row, and half of the row. -/
def groupOf (m : Tab Nat) (w : Word) : Nat × Nat × Nat := (rcBank w, tget 0 m (rcBank w), rcCol w / 16)

/-- Whether a later WRC writes the check line of a group. -/
def checkedLater (g : Nat × Nat × Nat) : Tab Nat → List Word → Bool
  | _, [] => false
  | m, w :: ws => (decide (rcCmd w = 6) && decide (groupOf m w = g)) || checkedLater g (openRow m w) ws

/-- A WR whose group no later WRC checks. -/
def unchecked : Tab Nat → List Word → Bool
  | _, [] => false
  | m, w :: ws =>
    (decide (rcCmd w = 5) && !checkedLater (groupOf m w) (openRow m w) ws) || unchecked (openRow m w) ws

def repairCycles (t : TimelineDecl) : List Nat := ((liveRecords t).filter fun w => decide (rcCmd w = 8)).map rcCyc

/-- E16: the timelines. A finding names the section, and the record where one is at fault. -/
def badTimelines (d : ImageDecl) : List Finding :=
  let first := match d.timelines with
    | t :: _ => repairCycles t
    | [] => []
  (d.sections.zip (List.range d.sections.length)).flatMap fun x =>
    if x.1.kind ≠ 5 then []
    else
      let bs := d.bytesOf x.1
      let t := timelineOf bs
      let f := fun (what : List Nat) => (⟨16, 0, some x.2, none, none, none, what⟩ : Finding)
      oneIf (decide (t.chan + (if t.retreat then 2 ^ 16 else 0) ≠ x.1.target) || decide (pgNum bs 2 1 / 2 ≠ 0) ||
        decide (pgNum bs 3 1 ≠ 0) || decide (pgNum bs 6 250 ≠ 0) || !risingRecords (timelineRecords bs) ||
        unchecked [] (liveRecords t) || decide ((repairCycles t).length ≠ 4) || decide (repairCycles t ≠ first) ||
        Config.jedecTimeline t.chan t.retreat (liveRecords t)) (f []) ++
        ((liveRecords t).zip (List.range t.records.length)).filterMap fun e =>
          if badRecord d t e.1 then some (f [e.2]) else none

/-! ## The set of images (R268) -/

/-- E08: the image of a package that an arc names is absent, or two images disagree on an arc between them; each finding
names the package. -/
def badSet (d : ImageDecl) (me : Nat) : List Finding :=
  let is := d.set me
  let named := ((d.allArcs me).flatMap fun x => [x.prodPkg, x.consPkg]).eraseDups
  let between := fun (i : ImageFile) (a b : Nat) => i.graph.arcs.filter fun x =>
    (decide (x.prodPkg = a) && decide (x.consPkg = b)) || (decide (x.prodPkg = b) && decide (x.consPkg = a))
  (named.filter fun p => !(is.any fun e => decide (e.1 = p))).map (fun p => Finding.graph 8 [0, p]) ++
    (is.filter fun e => is.any fun o => (between e.2 e.1 o.1).any fun x => !(between o.2 e.1 o.1).contains x).map
      (fun e => Finding.graph 8 [0, e.1])

/-! ## Rate sets (R14, R15, R268) -/

def phasesOf (set : List (List (List Byte))) (a : Nat) : Nat := ((set[a]?).getD []).length

/-- The token count that a rate set declares for an actor's pond in a frame. -/
def countAt (is : List (Nat × ImageFile)) (set pkg a f k : Nat) : Nat :=
  match is.find? fun e => decide (e.1 = pkg) with
  | none => 0
  | some e =>
    let ps := (((e.2.graph.rates[set]?).getD [])[a]?).getD []
    ((((ps[f % ps.length]?).getD [])[k]?).getD 0).toNat

/-- The least common multiple of the phase counts of every actor of the graph. -/
def hyperFrames (is : List (Nat × ImageFile)) (set : Nat) : Nat :=
  is.foldl (fun m e => (List.range e.2.actorCount).foldl
    (fun m a => Nat.lcm m (max 1 (phasesOf ((e.2.graph.rates[set]?).getD []) a))) m) 1

/-- An arc with its slots and the tokens it holds. -/
abbrev Held := ArcDecl × Nat × Nat

def launchTokens (d : ImageDecl) (me : Nat) : List Held := (d.allArcs me).map fun x => (x, d.arcSlots me x, x.delay)

/-- One frame of an arc: the codes it shows (8 where it holds too few tokens; 8 and 16 where it would hold too many), and
the tokens after it. -/
def frameArc (is : List (Nat × ImageFile)) (set f : Nat) (h : Held) : List Nat × Held :=
  let c := countAt is set h.1.consPkg h.1.cons f h.1.consPond
  let p := countAt is set h.1.prodPkg h.1.prod f h.1.prodPond
  ((if h.2.2 < c then [8] else []) ++ (if h.2.1 < h.2.2 + p then [8, 16] else []), (h.1, h.2.1, h.2.2 - c + p))

/-- The codes that n frames from frame f on show, and the tokens after them. -/
def runFrames (is : List (Nat × ImageFile)) (set : Nat) : Nat → Nat → List Held → List Nat × List Held
  | _, 0, xs => ([], xs)
  | f, n + 1, xs =>
    let r := xs.map (frameArc is set f)
    let rest := runFrames is set (f + 1) n (r.map (·.2))
    (r.flatMap (·.1) ++ rest.1, rest.2)

/-- The timeline input ponds of the set's images: each frame needs what its phase consumes, and as many fills arrive. -/
def timelineCodes (is : List (Nat × ImageFile)) (set : Nat) : List Nat :=
  is.flatMap fun i => (List.range i.2.actorCount).flatMap fun a => (List.range 32).flatMap fun k =>
    let e := i.2.pond a k
    if peValid e ∧ peKind e = 2 ∧ peDir e = 0 then (List.range 16).flatMap fun f =>
      let c := countAt is set i.1 a f k
      (if peInit e < c then [8] else []) ++ (if peCount e < peInit e + c then [8, 16] else [])
    else []

/-- The actors of an image whose phase count in a rate set is not the one declared (R15), or no phase count. -/
def badPhases (i : ImageFile) (set : Nat) : Bool :=
  (List.range i.actorCount).any fun a =>
    let n := phasesOf ((i.graph.rates[set]?).getD []) a
    decide (n ≠ ((i.graph.actors[a]?).map fun (x : ActorDecl) => x.phases).getD 0) || decide (n = 0) || decide (16 < n)

/-- E08 and E16: a rate set whose phase counts are wrong, that runs short of tokens or slots, or that does not return to its
launch state; a delay above its slots. A finding names the rate set. -/
def badRates (d : ImageDecl) (me : Nat) : List Finding :=
  let g := d.graph
  let is := d.set me
  let start := launchTokens d me
  oneIf (decide (g.rates.length = 0) || decide (8 < g.rates.length) ||
      g.arcs.any (fun x => decide (255 < x.delay) || decide (d.arcSlots me x < x.delay))) (Finding.graph 8 []) ++
    (List.range g.rates.length).flatMap fun set =>
      let r := runFrames is set 0 (hyperFrames is set) start
      let codes := (if is.any fun i => badPhases i.2 set then [8] else []) ++
        r.1 ++ (if r.2 = start then [] else [8]) ++ timelineCodes is set
      codes.eraseDups.map fun c => Finding.graph c [set]

/-! ## Drains (R270, R271, R273) -/

/-- A pond in the drain simulation: its consumer (package and actor) and pond, its producer (none for a timeline input
pond), slots, tokens, INIT, whether its newest slot is a sluice slot, whether it is a self-arc. -/
structure DrainPond where
  cons : Nat × Nat
  consPond : Nat
  prod : Option ((Nat × Nat) × Nat)
  slots : Nat
  n : Nat
  init : Nat
  sluice : Bool
  self : Bool
  deriving DecidableEq, Repr

/-- The actors of the whole graph. -/
def actorsOf (is : List (Nat × ImageFile)) : List (Nat × Nat) :=
  is.flatMap fun e => (List.range e.2.actorCount).map fun a => (e.1, a)

/-- The ponds of a graph as a drain begins: a sluice slot in every timeline input pond. -/
def drainStart (d : ImageDecl) (me : Nat) : List DrainPond :=
  let arcs := (d.allArcs me).map fun x =>
    DrainPond.mk (x.consPkg, x.cons) x.consPond (some ((x.prodPkg, x.prod), x.prodPond)) (d.arcSlots me x) x.delay x.delay false
      (decide (x.consPkg = x.prodPkg) && decide (x.cons = x.prod) && decide (x.consPond = x.prodPond))
  let ts := (d.set me).flatMap fun i => (List.range i.2.actorCount).flatMap fun a => (List.range 32).filterMap fun k =>
    let e := i.2.pond a k
    if peValid e ∧ peKind e = 2 ∧ peDir e = 0 then
      some (DrainPond.mk (i.1, a) k none (peCount e) (peInit e + 1) (peInit e) true false)
    else none
  arcs ++ ts

def DrainPond.ripe (q : DrainPond) : Bool := q.sluice && decide (q.n = q.init + 1)

/-- What an actor does in a drain frame: stands sealed, fires its sluice firing, or fires as declared. -/
def drainKind (qs : List DrainPond) (sealed : List (Nat × Nat)) (a : Nat × Nat) : Nat :=
  let ins := qs.filter fun q => decide (q.cons = a) && !q.self
  if sealed.contains a then 0 else if ins ≠ [] ∧ ins.all DrainPond.ripe then 1 else 2

/-- One drain frame of a pond: the code it shows (17 where its consumer would freeze, 16 where it would hold too many slots,
sluice slots included), and the pond after it. -/
def drainPond (is : List (Nat × ImageFile)) (set f : Nat) (kind : Nat × Nat → Nat) (q : DrainPond) : List Nat × DrainPond :=
  let take := if kind q.cons = 2 then countAt is set q.cons.1 q.cons.2 f q.consPond else 0
  let held := q.n - q.sluice.toNat
  let q1 := if kind q.cons = 1 && !q.self then { q with
      n := q.n - 1
      sluice := false }
    else { q with n := q.n - take }
  let adds := match q.prod with
    | none => (0, false)
    | some (a, k) => if kind a = 2 then (countAt is set a.1 a.2 f k, false) else if kind a = 1 && !q.self then (1, true) else (0, false)
  ((if (q.sluice && decide (q.n < q.init + 1)) || decide (held < take) then [17] else []) ++
    (if q.slots < q.n + adds.1 then [16] else []),
    { q1 with
      n := q1.n + adds.1
      sluice := q1.sluice || adds.2 })

/-- What a drain shows within some frames: no code where it reaches quiescence. -/
def drains (is : List (Nat × ImageFile)) (set : Nat) : Nat → Nat → List (Nat × Nat) → List DrainPond → List Nat
  | _, 0, _, _ => [17]
  | f, k + 1, sealed, qs =>
    if (actorsOf is).all fun a => sealed.contains a then
      (if qs.all fun q => decide (q.n = q.init) && !q.sluice then [] else [17])
    else
      let kind := drainKind qs sealed
      let r := qs.map (drainPond is set f kind)
      match r.flatMap (·.1) with
      | [] => drains is set (f + 1) k (sealed ++ (actorsOf is).filter fun a => decide (kind a = 1)) (r.map (·.2))
      | codes => codes

/-- E17 (and E16 for slots): a rate set of a graph with timeline input ponds whose drain does not come to rest; the finding
names the rate set. -/
def badDrains (d : ImageDecl) (me : Nat) : List Finding :=
  let is := d.set me
  let qs := drainStart d me
  if qs.any fun q => q.prod.isNone then
    (List.range d.graph.rates.length).flatMap fun set =>
      ((drains is set 0 (((actorsOf is).length + 2) * (hyperFrames is set + 256)) [] qs).eraseDups).map fun c => Finding.graph c [set]
  else []

/-! ## Yield pages (R29) -/

/-- Bytes of an actor's pond slots that are FULL in a tile at a firing boundary: its input tokens, and what its timeline
input ponds hold at every frame start (R268). -/
def fullBytes (d : ImageDecl) (me a : Nat) (xs : List Held) : Nat :=
  (xs.map fun x => if x.1.consPkg = me ∧ x.1.cons = a then x.2.2 * (64 * peLines (d.pond a x.1.consPond)) else 0).sum +
    ((List.range 32).map fun k =>
      let e := d.pond a k
      if peValid e && decide (peKind e = 2) && decide (peDir e = 0) then peInit e * (64 * peLines e) else 0).sum

/-- The yield pages that some frame start of a rate set finds with more than 256 KiB in the ponds of a tile. -/
def overYield (d : ImageDecl) (is : List (Nat × ImageFile)) (me set : Nat) : Nat → Nat → List Held → List Nat
  | _, 0, _ => []
  | f, n + 1, xs =>
    ((List.range d.actorCount).filter fun a => hYield (pgHeader (d.page a)) && decide (262144 < fullBytes d me a xs)) ++
      overYield d is me set (f + 1) n (xs.map fun x => (frameArc is set f x).2)

/-- E09: a yield page whose ponds hold too much at a yield point. -/
def badYield (d : ImageDecl) (me : Nat) : List Finding :=
  let is := d.set me
  ((List.range d.graph.rates.length).flatMap fun set =>
    overYield d is me set 0 (hyperFrames is set) (launchTokens d me)).eraseDups.map fun a => pageFinding d a 9 none []

/-! ## Schedules (R73 to R76, R162) -/

/-- Where a page's routes to ponds of this package end: actor, tile row and column in its region, pond, and the port that a
PATH 0 route enters by. -/
def routeEnds (a : Nat) (bs : List Byte) : List ((Nat × Nat × Nat × Nat) × Option Nat) :=
  (pgRoutes bs).filterMap fun (x : Route) =>
    if !x.valid then none
    else match x.path with
      | 0 =>
        let e := (pathEnds x).2
        let port := if x.dx = 1 then 1 else if x.dx = -1 then 3 else if x.dy = 1 then 2 else 0
        some ((a, e.2.toNat, e.1.toNat, x.dpond), some (facing port))
      | 1 | 2 => some ((x.peer, x.dy.toNat, x.dx.toNat, x.dpond), none)
      | _ => none

def allRouteEnds (d : ImageDecl) : List ((Nat × Nat × Nat × Nat) × Option Nat) :=
  (List.range d.actorCount).flatMap fun a => routeEnds a (d.page a)

/-- A page as the schedule checks read it. -/
def schedPage (d : ImageDecl) (a : Nat) : SPage :=
  let bs := d.page a
  { fc := d.graph.fc
    hdr := pgHeader bs
    words := pgWords bs (2 * hHblk (pgHeader bs))
    ponds := (List.range 32).map (pgPond bs)
    routed := (allRouteEnds d).filterMap fun e => if e.1.1 = a then some (e.1.2.1, e.1.2.2.2, e.2) else none
    cross := none
    code := pgCode bs }

/-- What the schedule checks find, page by page; E14 for a pond that two pointers write. A page whose header is refused is
not run. -/
def badSchedules (d : ImageDecl) : List Finding :=
  let ends := (allRouteEnds d).map (·.1)
  (List.range d.actorCount).flatMap fun a =>
    oneIf (ends.any fun e => decide (e.1 = a) && decide (1 < ends.count e)) (pageFinding d a 14 none []) ++
      (if badHeader (pgHeader (d.page a)) then []
      else (schedFinds (schedPage d a)).map fun f => pageFinding d a f.code (some f) [])

/-! ## Loading (R72, R77, R377) -/

/-- Why the loader refuses an image: every finding, or those of the image as a whole where that cannot be read. -/
def refusal (d : ImageDecl) (me : Nat) : List Finding :=
  let as := List.range d.actorCount
  match badImage d with
  | f :: fs => f :: fs
  | [] =>
    badFrames d.graph ++ as.flatMap (badPage d) ++ as.flatMap (badWords d) ++ badCode d ++
      as.flatMap (badPonds d me) ++ as.flatMap (badRoutes d) ++ badTimelines d ++ badSet d me ++ badRates d me ++
      badDrains d me ++ badYield d me ++ badSchedules d

/-- The bytes of an accepted image stand in memory where it is loaded. -/
def State.putImage (s : State) (pa : Nat) (d : ImageDecl) : State := s.storeBytes .hub (memKey pa) d.file

/-- Report each finding of a refused image. -/
def State.reportRefusal (s : State) (index : Nat) : List Finding → State
  | [] => s
  | f :: fs => (s.out (17 :: index :: f.words)).reportRefusal index fs

/-- IMAGE_LOAD: accepted, with its MEAS in the measurement log, or refused with its findings; then nothing is placed. -/
def State.loadImage (s : State) (index pa : Nat) (d : ImageDecl) : State :=
  match refusal d Config.pkgId.toNat with
  | [] =>
    let s1 := s.putImage pa d
    { s1 with
      images := tput s1.images pa d
      measLog := s1.measLog ++ [(d.meas, index)] }
  | fs => s.reportRefusal index fs

end Sys2Proof.Machine
end

