-- ==== Sys2Proof/Machine/Loader.lean ====
section
/-! DEFINITION. The meanings of loading an image (R72) and of removing a page (R286). -/

namespace Sys2Proof.Machine

def execImageLoad (index pa _ : Nat) (img : ImageDecl) (s : State) := hubOp (s.loadImage index pa img)

/-- Firmware removes a page; a page of a running graph stays. -/
def execPageRemoval (r : Nat) (s : State) :=
  hubOp (if (s.graphRegions (s.region r).part).any (· == r) then s else s.removePage r)

end Sys2Proof.Machine
end

