-- ==== Sys2Proof/Machine/Long.lean ====
section
/-! DEFINITION. The meanings of the FL words (R55, R130, R159, R171, R178). Each also loads the immediate latch. -/

namespace Sys2Proof.Machine

/-- VIMM: every 32-bit word of the register, usable from the next cycle. -/
def execVimm (st : Bool) (vd : BitVec 4) (value : BitVec 32) (s : State) :=
  longOp s (.vimm st vd value) fun c T =>
    T.send (c.cyc + 1) (.vreg st.toNat vd.toNat) ⟨BitVec.ofNat 512 (replicate 32 value.toNat 16), 0, 0⟩

/-- VIMM64: the immediate latch only. -/
def execVimm64 (value : BitVec 64) (s : State) := longOp s (.vimm64 value) fun _ T => T

/-- VSETM (R90). -/
def execVsetm (etype : BitVec 4) (rm : BitVec 3) (sat w0 w1 : Bool) (s : State) :=
  longOp s (.vsetm etype rm sat w0 w1) fun _ T =>
    let v : BitVec 32 := BitVec.ofNat 32 (pack [(4, etype.toNat), (3, rm.toNat), (1, sat.toNat)])
    { T with vmode0 := if w0 then v else T.vmode0
             vmode1 := if w1 then v else T.vmode1 }

/-- KSET: the low word, the high word with the low one kept, or both. -/
def execKset (k : BitVec 3) (mode : BitVec 2) (value : BitVec 32) (s : State) :=
  longOp s (.kset k mode value) fun _ T =>
    let old := (T.kreg k.toNat).toNat
    T.setKreg k.toNat (BitVec.ofNat 64 (match mode.toNat with
      | 0 => value.toNat
      | 1 => old % 2 ^ 32 + 2 ^ 32 * value.toNat
      | _ => value.toNat * 0x100000001))

/-- RNGKEY (R112): one of KEY0, KEY1, LAYER, SRBASE. -/
def execRngkey (part : BitVec 2) (value : BitVec 48) (s : State) :=
  longOp s (.rngkey part value) fun _ T =>
    let n := T.rngkey.toNat
    { T with rngkey := BitVec.ofNat 128 (match part.toNat with
      | 0 => setBits n 0 32 value.toNat
      | 1 => setBits n 32 32 value.toNat
      | 2 => setBits n 64 15 value.toNat
      | _ => setBits n 80 48 value.toNat) }

def execSclset (value : BitVec 32) (s : State) :=
  longOp s (.sclset value) fun _ T => { T with scale := value }

/-- AGCFG (R170, R171): bits [63:3] of the image. -/
def execAgcfg (g : BitVec 3) (base : BitVec 11) (str cnt : BitVec 12) (s : State) :=
  longOp s (.agcfg g base str cnt) fun _ T =>
    let x := T.gen g.toNat
    let n := setBits x.img.toNat 3 61 (pack [(11, base.toNat), (12, str.toNat), (12, cnt.toNat)])
    T.setGen g.toNat { x with img := BitVec.ofNat 128 n }

/-- AGCFG2: bits [127:67] of the image. -/
def execAgcfg2 (g : BitVec 3) (str cnt : BitVec 12) (bank : BitVec 3) (lane : BitVec 4) (mode : BitVec 3)
    (pond : BitVec 5) (s : State) :=
  longOp s (.agcfg2 g str cnt bank lane mode pond) fun _ T =>
    let x := T.gen g.toNat
    let n := setBits x.img.toNat 67 61 (pack [(12, str.toNat), (12, cnt.toNat), (3, bank.toNat),
      (4, lane.toNat), (3, mode.toNat), (5, pond.toNat)])
    T.setGen g.toNat { x with img := BitVec.ofNat 128 n }

/-- HDRSET (R116, R178). -/
def execHdrset (hd : BitVec 2) (fmt : BitVec 5) (swz : BitVec 4) (vlim : BitVec 5) (sbase : BitVec 9) (s : State) :=
  longOp s (.hdrset hd fmt swz vlim sbase) fun _ T =>
    let h := pack [(5, fmt.toNat), (4, swz.toNat), (5, vlim.toNat), (9, sbase.toNat)]
    { T with vctl := T.vctl.setHeader hd.toNat (BitVec.ofNat 64 h) }

/-- DROPCFG (R178). -/
def execDropcfg (thr scale : BitVec 32) (s : State) :=
  longOp s (.dropcfg thr scale) fun _ T =>
    { T with dropthr := BitVec.ofNat 64 (pack [(32, thr.toNat), (32, scale.toNat)]) }

/-- MXCFG (R115, R130): EFMT, ESWZ, EEN and PLINK of VATST. -/
def execMxcfg (efmt : BitVec 5) (eswz : BitVec 4) (een plink : Bool) (s : State) :=
  longOp s (.mxcfg efmt eswz een plink) fun _ T =>
    { T with vctl := T.vctl.setSt 4 11 (pack [(1, plink.toNat), (1, een.toNat), (5, efmt.toNat), (4, eswz.toNat)]) }

end Sys2Proof.Machine
end

