-- ==== Sys2Proof/Machine/Regs.lean ====
section
/-! DEFINITION. The meanings of stores to registers with behaviour of their own (R203, R277, R279, R294, R298, R306,
R308, R309, R311, R320, R323 to R327, R348, R356, R361 to R363, R373, R395, R396), and of what they lead to at a yield
point. An operand that names no unit changes nothing. -/

namespace Sys2Proof.Machine

/-- A store that may freeze the storing thread with PROTECT; an event of the hub then stores nothing. -/
def storeRow (s : State) (pa : Nat) (r : Option State) : Host.Outcome State Fault Refusal :=
  match r, s.cur with
  | some s1, _ => .next s1
  | none, .thread t => .next (s.freezeThread t 0x06 (BitVec.ofNat 64 pa))
  | none, _ => .next s

/-- A store whose unit exists. -/
def unitRow (s : State) (ok : Bool) (f : State) : Host.Outcome State Fault Refusal := .next (if ok then f else s)

/-- A store to a register after its check: the cause that forbids it, or what the store leaves. -/
def checkedRow (s : State) (pa : Nat) (c : Option Nat) (r : Option State) : Host.Outcome State Fault Refusal :=
  match s.cur, c with
  | .thread t, some c => .next (s.freezeThread t c (BitVec.ofNat 64 pa))
  | _, _ => storeRow s pa r

/-- The thread that executes; 0 for the hub. -/
def State.curThread (s : State) : Nat :=
  match s.cur with
  | .thread t => t
  | _ => 0

/-- The check of R42 for the executing unit; the hub's own stores have none. -/
def State.rowCause (s : State) (pa : Nat) : Option Nat :=
  match s.cur with
  | .thread t => s.winWriteCause (s.thread t) pa
  | _ => none

/-- A store to any register of the window by the executing thread, after the check of R42, or by the hub. -/
def windowRow (s : State) (pa : Nat) (v : Word) : Host.Outcome State Fault Refusal :=
  checkedRow s pa (s.rowCause pa) (s.regStore s.curThread pa v)

/-! ## Queues, images, limits -/

def execKick (q : Nat) (s : State) := unitRow s (decide (q < 256)) (s.hostKick q).wake
def execEndrWrite (v : BitVec 32) (s : State) := hubOp (s.storeEndr v.toNat)
def execImageTableEdit (i : Nat) (ver : BitVec 16) (pa : BitVec 52) (s : State) :=
  storeRow s (imageAt i 0) (if i < 1024 then s.imageEdit i ver.toNat pa.toNat else some s)
def execQueueLimitWrite (pa : Nat) (v : Word) (s : State) := windowRow s pa v
def execRegisterWrite (pa : Nat) (v : Word) (s : State) := windowRow s pa v
def execRidxWrite (q : Nat) (v : BitVec 32) (s : State) :=
  storeRow s (brbQueueAt q 1) (if q < 64 then s.storeRidx q v.toNat else some s)

/-! ## Pre-emption requests and what they do at a yield point (R323 to R325, R374) -/

def execPctlEval (p : Nat) (newtok : BitVec 16) (s : State) := unitRow s (decide (p < 16)) (s.request p 1 newtok.toNat)
def execPctlKill (p : Nat) (s : State) := unitRow s (decide (p < 16)) (s.request p 2 0)
def execPctlCheckpoint (p : Nat) (s : State) := unitRow s (decide (p < 16)) (s.request p 3 0)
def execRestore (p : Nat) (s : State) := unitRow s (decide (p < 16)) (s.storeRestore p)
def execRestorePerformed (p : Nat) (s : State) := hubOp (s.restoreNow p)
def execDrainlimExpiry (p : Nat) (s : State) := hubOp (s.drainlim p)
def execPreemptKill (p : Nat) (s : State) := hubOp (s.preemptKill p)
def execCheckpoint (p : Nat) (s : State) := hubOp (s.checkpoint p)
def execThermalFreeze (p : Nat) (s : State) := hubOp (s.thermalFreeze p)

/-! ## PKILL (R348) -/

def execKillall (p : Nat) (s : State) := unitRow s (decide (p < 16)) (s.killAll p)
/-- ENDGRAPH stands beside KILLALL: the units are killed, then the graph ends with status 1. -/
def execEndgraph (p : Nat) (s : State) := unitRow s (decide (p < 16)) (s.killEnd p)
def execRedispatch (p : Nat) (s : State) := unitRow s (decide (p < 16)) (s.redispatch p)

/-! ## Runoff windows (R361, R362) -/

def State.windowDeadline (s : State) (p n : Nat) : State :=
  match (s.runWin p n).deadline with
  | some d => if d ≤ s.now then s.closeWindow p n else s
  | none => s

def windowUnit (p n : Nat) : Bool := decide (p < 16) && decide (n < 8)
def execArm (p n : Nat) (s : State) := unitRow s (windowUnit p n) (s.armWindow p n)
def execClose (p n : Nat) (s : State) := unitRow s (windowUnit p n) (s.closeWindow p n)
def execWindowDeadline (p n : Nat) (s : State) := unitRow s (windowUnit p n) (s.windowDeadline p n)

/-! ## Copy-engine chains (R306) -/

def chainUnit (p e : Nat) : Bool := decide (p < 16) && decide (e < 16)
def execResume (p e : Nat) (s : State) := unitRow s (chainUnit p e) (s.chainResume (16 * p + e))
def execSkip (p e : Nat) (s : State) := unitRow s (chainUnit p e) (s.chainSkip (16 * p + e))

/-! ## Thermal commands (R373) -/

def execCool (s : State) := hubOp (s.storeCmd 1)
def execWarm (s : State) := hubOp (s.storeCmd 2)
def execOff (s : State) := hubOp (s.storeCmd 3)

/-! ## HBM channels (R294, R395, R396) -/

/-- GO with a direction, the other fields as they stand in the register. -/
def State.goTest (s : State) (c : Nat) (dir : Bool) : State :=
  if s.goOk c then (s.setWf (hcbAt c 0xD0) 1 1 dir.toNat).startTest c dir else s.refuseGo c

def execTrainingReadTest (c : Nat) (s : State) := unitRow s (decide (c < 384)) (s.goTest c false)
def execTrainingWriteTest (c : Nat) (s : State) := unitRow s (decide (c < 384)) (s.goTest c true)
def execTrainingTestDone (c : Nat) (s : State) := hubOp (s.testDone c)

/-- The thread whose later loads see a deferred store at once (R395, R397). -/
def State.storer (s : State) : Nat :=
  match s.cur with
  | .thread t => t
  | _ => 0

def execLrepWrite (c : Nat) (v : Word) (s : State) :=
  storeRow s (hcbAt c 0xF0) (if c < 384 then s.storeLrep s.storer c v else some s)
def execDegrClear (c : Nat) (s : State) := unitRow s (decide (c < 384)) (s.clearDegr c)

/-! ## Range entries, access counters, routes -/

def execRangeEntryWrite (p n w : Nat) (v : Word) (s : State) :=
  storeRow s (rangeAt p n w) (if p < 16 ∧ n < 64 then s.storeRange p n w v else some s)
def execMigctlWrite (p : Nat) (v : Word) (s : State) := unitRow s (decide (p < 16)) (s.storeMigctl p v)
def execRouteEntryWrite (d : Nat) (v : Word) (s : State) := unitRow s (decide (d < 1024)) (s.storeRoute d v)

end Sys2Proof.Machine
end

