-- ==== Sys2Proof/Machine/Stream.lean ====
section
/-! DEFINITION. The meanings of the S slot (R164 to R177). -/

namespace Sys2Proof.Machine

/-- PRD (R165): the line of the slot at the working read index, in PIN three cycles later, checked at its first read. -/
def execPrd (p : BitVec 5) (line : BitVec 10) (s : State) :=
  tileOp s fun c T =>
    let x := (T.pond p.toNat).wr.toNat
    let r := T.firstRead p.toNat x
    ((r.1.noteSlot p.toNat x line.toNat).send (c.cyc + 3) .pin (r.1.slotLine c p.toNat x line.toNat r.2), match r.2 with
      | some cause => [c.direct slotS cause]
      | none => [])

/-- PWR (R165): POUT into a line of the slot at the working write index; nothing where POUT holds nothing. -/
def execPwr (p : BitVec 5) (line : BitVec 10) (s : State) :=
  tileOp s fun c T =>
    match latchAt T.dels .pout c.cyc with
    | some v => T.localWrite c p.toNat line.toNat v
    | none => (T, [])

/-- PRW (R165): the same through a port, into the neighbour's pond. -/
def execPrw (p : BitVec 5) (port : BitVec 2) (line : BitVec 8) (s : State) :=
  onFabric s fun c ts =>
    match latchAt (tget Tile.zero ts c.t).dels .pout c.cyc with
    | some v => remoteWrite c ts port.toNat p.toNat line.toNat v
    | none => FabOut.pure ts

def execPadv (p : BitVec 5) (n : BitVec 8) (s : State) := tileOp s fun c T => T.advance c p.toNat n.toNat

/-- PTAGC (R166): all three checks on the slot at working read + j, which then counts as read. -/
def execPtagc (p : BitVec 5) (j : BitVec 8) (s : State) :=
  tileOp s fun c T =>
    let x := ((T.pond p.toNat).wr + BitVec.ofNat 32 j.toNat).toNat
    let r := T.firstRead p.toNat x
    (r.1, match r.2 with
      | some cause => [c.direct slotS cause]
      | none => [])

def execLdt (g : BitVec 3) (adv : Bool) (off : BitVec 8) (s : State) :=
  tileOp1 s fun c T => T.loadThrough c g.toNat off.toNat adv
def execStt (g : BitVec 3) (adv : Bool) (off : BitVec 8) (s : State) :=
  tileOp s fun c T => T.storeThrough c g.toNat off.toNat adv
def execSin (port : BitVec 2) (lane : BitVec 4) (s : State) :=
  tileOp1 s fun c T => T.portTake c port.toNat lane.toNat

/-- SOUT (R168): the value on a lane at the port's ring position, or POUT. -/
def execSout (port : BitVec 2) (lane : BitVec 4) (s : State) :=
  onFabric s fun c ts =>
    let T := tget Tile.zero ts c.t
    portSend c ts port.toNat
      (if lane.toNat = 15 then latchAt T.dels .pout c.cyc else laneAt T.dels lane.toNat (posPort port.toNat) c.cyc)

/-- TAP (R169). -/
def execTap (st : Bool) (inl outl : BitVec 4) (s : State) :=
  tileOp1 s fun _ T =>
    let v : BitVec 8 := BitVec.ofNat 8 (inl.toNat + 16 * outl.toNat)
    if st then { T with tap1 := v } else { T with tap0 := v }

def execAggo (g : BitVec 3) (res : Bool) (s : State) := tileOp s fun c T => T.genStart c g.toNat res
def execAgstop (g : BitVec 3) (s : State) := tileOp1 s fun _ T => T.genStop g.toNat
def execAgld (g : BitVec 3) (lane : BitVec 4) (s : State) := tileOp s fun c T => T.genLoad c g.toNat lane.toNat

/-- KEDGE (R174): only the tile at the named column offset delivers bit 0 of the mask register. -/
def execKedge (k : BitVec 3) (col : BitVec 6) (s : State) :=
  onFabric s fun c ts =>
    if c.t % 64 = c.west % 64 + col.toNat then
      ⟨ts, [], some (decide (((tget Tile.zero ts c.t).kreg k.toNat).toNat % 2 = 1)), none⟩
    else FabOut.pure ts

/-- SLCK (R175): all ones if the slot at the working read index is FULL with SLUICE set; no first-read check. -/
def execSlck (p : BitVec 5) (k : BitVec 3) (s : State) :=
  tileOp1 s fun c T =>
    let m := T.slot p.toNat (T.pond p.toNat).wr.toNat
    T.emitK c slotS k.toNat 2 (if smState m = 2 ∧ smSluice m then 2 ^ 64 - 1 else 0) none

/-- SLFWD (R175): the sluice slot carries the rate set of the region's sluice firing (R271). -/
def execSlfwd (p : BitVec 5) (port : BitVec 2) (remote : Bool) (s : State) :=
  onFabric s fun c ts =>
    let nrs := (s.region c.r).pendSet
    if remote then sluiceRemote c ts port.toNat p.toNat nrs
    else onTile c ts fun T => T.sluiceLocal c p.toNat nrs

/-- TWPRM (R176): the grant is held with the firing until the weir fires. -/
def execTwprm (p : BitVec 5) (twe : BitVec 2) (drain : Bool) (n : BitVec 8) (s : State) :=
  onFabric s fun c ts => ⟨ts, [], none, some ⟨c.t, twe.toNat, p.toNat, drain, n.toNat, none⟩⟩

/-- POISK (R177): the byte poison of PIN in this cycle. -/
def execPoisk (k : BitVec 3) (s : State) :=
  tileOp1 s fun c T =>
    T.emitK c slotS k.toNat 2
      (match latchAt T.dels .pin c.cyc with
        | some v => v.pois.toNat
        | none => 0) none

end Sys2Proof.Machine
end

