-- ==== Sys2Proof/Machine/Timeline.lean ====
section
/-! DEFINITION. The meanings of the timeline commands (R291 to R296, R300). -/

namespace Sys2Proof.Machine

def execAct (c : Nat) (bank : BitVec 6) (row : BitVec 14) (s : State) := hubOp (s.timelineAct c bank.toNat row.toNat)
def execPre (c : Nat) (bank : BitVec 6) (s : State) := hubOp (s.timelinePre c bank.toNat)
def execPrea (c : Nat) (s : State) := hubOp (s.timelinePrea c)
def execRd (c : Nat) (bank : BitVec 6) (col : BitVec 5) (step : BitVec 8) (s : State) :=
  hubOp (s.timelineRead c bank.toNat col.toNat step.toNat)
def execWr (c : Nat) (_ : BitVec 6) (_ : BitVec 5) (step : BitVec 8) (s : State) :=
  hubOp (s.timelineWrite c ((s.chan c).step step.toNat))
/-- WRC writes the check line of a 1 KiB group, which device physical addresses do not reach (R295). -/
def execWrc (_ : Nat) (_ : BitVec 6) (_ : BitVec 5) (s : State) := hubOp s
/-- REF refreshes rows: their contents stay, and the band's count rises (R293). -/
def execRef (c : Nat) (s : State) := hubOp (s.timelineRef c)
def execRepair (c : Nat) (s : State) := hubOp (s.timelineRepair c)
def execOpenRec (c : Nat) (len : BitVec 14) (s : State) := hubOp (s.timelineOpen c len.toNat)
def execTwstep (c : Nat) (step : BitVec 8) (s : State) := hubOp (s.timelineCache c step.toNat)
def execTimelineEnd (c : Nat) (s : State) := hubOp (s.timelineEnd c)
def execDynamicModeRefresh (c : Nat) (s : State) := hubOp (s.refreshDynamic c)

end Sys2Proof.Machine
end

