-- ==== Sys2Proof/Machine/Vat.lean ====
section
/-! DEFINITION. The meanings of the M slot (R122 to R130, R133 to R135). -/

namespace Sys2Proof.Machine

/-! ## Headers and loads -/

/-- MXHDR (R123): the header of FH or SH from a staging register or an operand; poison in bytes 0 to 2 is a vat sink. -/
def Tile.latchHeader (T : Tile) (c : FabCtx) (stat opnd : Bool) (src st hd : Nat) : Tile × List Token :=
  let v := T.operand c st src 64
  if opnd && v.bytePois 0 3 then (T, [c.sinkTok slotM v.org skVat])
  else
    let x : Nat := if opnd then v.bits.toNat else (T.vctl.header hd).toNat
    let ctl := T.vctl.setHeader (if stat then 5 else 4) (BitVec.ofNat 64 (x % 2 ^ 23))
    ({ T with vctl := if stat then ctl else ctl.setSt 15 9 0 }, [])

/-- Poisoned scale words among the 64 of a chunk. -/
def VatCtl.chunkPois (v : VatCtl) (key : Nat) : Option Word :=
  (v.sclPois.find? fun e => decide (key ≤ e.1) && decide (e.1 < key + 64)).map (·.2)

/-- Load 64 scale words from an image (R124). -/
def VatCtl.loadScales (v : VatCtl) (key : Nat) (img : Col) : VatCtl :=
  (List.range 64).foldl (fun v w =>
    { v with scl := tset 0 v.scl (key + w) (BitVec.ofNat 32 (bitsOf img.bits.toNat (32 * w) 32))
             sclPois := tset 0 v.sclPois (key + w) (img.orgIn (4 * w) 4) }) v

/-- The bytes that element e of width w lies in: the first and how many. -/
def elemBytes (w e : Nat) : Nat × Nat := (w * e / 8, (w * e + w - 1) / 8 - w * e / 8 + 1)

/-- Transpose an image (R124): element (t, j) at 32 t + j goes to kc j + t; an element's poison, with its origin, marks
its bytes. What lies beyond the kc × 32 elements is 0 without poison: the model's choice (log entry 130). -/
def transposeImg (w kc : Nat) (img : Col) : Col :=
  let idx := (List.range (32 * kc)).map fun e => 32 * (e % kc) + e / kc
  let bits := idx.map fun i => bitsOf img.bits.toNat (w * i) w
  let body := bits.foldr (fun b acc => b + 2 ^ w * acc) 0
  let put := fun (m : Tab Word) (x : Nat × Nat) =>
    let from_ := elemBytes w x.2
    let into_ := elemBytes w x.1
    let o := img.orgIn from_.1 from_.2
    if o = 0 then m else (List.range into_.2).foldl (fun m k =>
      if tget 0 m (into_.1 + k) = 0 then tset 0 m (into_.1 + k) o else m) m
  let orgs := if img.pois = 0 then [] else ((List.range (32 * kc)).zip idx).foldl put []
  let marks := orgs.foldl (fun m e => Nat.lor m (2 ^ e.1)) 0
  ⟨BitVec.ofNat 2048 body, BitVec.ofNat 256 marks, orgs⟩

/-- Put an image into a slot of the inactive buffer; over poison it is a sink (R124, R135). -/
def Tile.loadSlot (T : Tile) (c : FabCtx) (slot : Nat) (img : Col) : Tile × List Token :=
  let key := 32 * (1 - T.vctl.abuf) + slot
  let old := tget Col.zero T.vat.bbuf key
  if old.pois ≠ 0 then (T, [c.sinkTok slotM old.org skVat])
  else ({ T with vat := { T.vat with bbuf := tset Col.zero T.vat.bbuf key img } }, [])

def Tile.loadB (T : Tile) (c : FabCtx) (sc side : Bool) (ls n : Nat) : Tile × List Token :=
  let img := (T.feedImage c ls).1
  if sc then
    let key := (if side then 512 else 0) + 64 * n
    match T.vctl.chunkPois key with
    | some org => (T, [c.sinkTok slotM org skVat])
    | none => ({ T with vctl := T.vctl.loadScales key img }, [])
  else T.loadSlot c n img

/-- MXLDBT (R124): the transposed image; a block format is an HDR fault of this tile (R133; log entry 112). -/
def Tile.loadBT (T : Tile) (c : FabCtx) (ls slot : Nat) : Tile × List Token :=
  let fmt := hFmt (T.vctl.header 5)
  if fmt.block then (T.hdrFault [0, 1, 2, 3] (c.origin slotM 0x16), [])
  else T.loadSlot c slot (transposeImg fmt.w (colDepth (hFmt (T.vctl.header 4)) fmt) (T.feedImage c ls).1)

/-! ## Feeding -/

/-- A column into one vat without fault: FIRST over a poisoned accumulator is a sink (R135). -/
def Tile.feedOne (T : Tile) (c : FabCtx) (fed : Fed) (acc : Nat) (first : Bool) (slot : Nat) : Tile × List Token :=
  match (if first then T.firstPois acc else none) with
  | some org => (T, [c.sinkTok slotM org skVat])
  | none => (T.accumulate fed acc first slot, [])

def Tile.stepFcc (T : Tile) : Tile := { T with vctl := T.vctl.stepFcc }

/-- MXFEED of a vat on its own column (R125): a fault of its own marks its accumulator. -/
def Tile.feedOwn (T : Tile) (c : FabCtx) (fed : Fed) (acc : Nat) (first : Bool) (slot : Nat) : Tile × List Token :=
  if T.feedFault fed acc first slot then (T.hdrFault (T.faultAccs acc) (c.origin slotM 0x16), [])
  else T.feedOne c fed acc first slot

/-- MXFEED of a vat that is not paired (R125). -/
def Tile.feedSolo (T : Tile) (c : FabCtx) (acc ls : Nat) (first : Bool) (slot : Nat) : Tile × List Token :=
  let fed := T.takeFeed c ls
  let r := T.feedOwn c fed acc first slot
  (r.1.stepFcc, r.2)

/-- An HDR fault of a paired feed marks the accumulators of both partners (R133; log entry 104). -/
def pairFault (ts : Tab Tile) (west acc : Nat) (org : Word) : Tab Tile :=
  let W := tget Tile.zero ts west
  let E := tget Tile.zero ts (west + 1)
  tset Tile.zero (tset Tile.zero ts west (W.hdrFault (W.faultAccs acc) org)) (west + 1) (E.hdrFault (E.faultAccs acc) org)

/-- A fault of a paired feed that the west vat has not seen by itself: its column is taken back, and the accumulators are
marked (R133). -/
def undoFeed (ts : Tab Tile) (west acc : Nat) (accs : List Nat) (org : Word) (before after : VatCore) : Tab Tile :=
  let W := tget Tile.zero ts west
  let E := tget Tile.zero ts (west + 1)
  let W1 := { W with vat := W.vat.undo before after accs }
  tset Tile.zero (tset Tile.zero ts west (W1.hdrFault accs org)) (west + 1) (E.hdrFault (E.faultAccs acc) org)

/-- The west partner's MXFEED: its column enters, and the east partner executes the word a cycle later (R130). -/
def feedWest (c : FabCtx) (ts : Tab Tile) (acc ls : Nat) (first : Bool) (slot : Nat) : FabOut :=
  onTile c ts fun T =>
    let fed := T.takeFeed c ls
    let r := T.feedOwn c fed acc first slot
    let op := PairOp.feed acc first slot (T.faultAccs acc) fed (T.feedFault fed acc first slot) (c.origin slotM 0x16) T.vat
      r.1.vat
    let T1 := r.1.stepFcc
    ({ T1 with vctl := { T1.vctl with pend := T1.vctl.pend ++ [(c.cyc, op)] } }, r.2)

/-- The feed of the west partner that the east partner's word of a cycle matches: accumulator, the accumulators it acts on,
column, fault, origin, the vat before and after it. -/
def VatCtl.westFeed (v : VatCtl) (cyc : Nat) : Option (Nat × List Nat × Fed × Bool × Word × VatCore × VatCore) :=
  v.pend.findSome? fun e => match e.2 with
    | .feed acc _ _ accs fed bad org before after =>
      if e.1 + 1 = cyc then some (acc, accs, fed, bad, org, before, after) else none
    | _ => none

/-- Take the west partner's feed of the previous cycle out of the queue. -/
def VatCtl.takeWest (v : VatCtl) (cyc : Nat) : VatCtl :=
  { v with pend := v.pend.filter fun e => match e.2 with
      | .feed .. => decide (e.1 + 1 ≠ cyc)
      | _ => true }

/-- Both partners of a pair, changed. -/
def bothTiles (ts : Tab Tile) (west : Nat) (f : Tile → Tile) : Tab Tile :=
  tset Tile.zero (tset Tile.zero ts west (f (tget Tile.zero ts west))) (west + 1) (f (tget Tile.zero ts (west + 1)))

/-- The east partner's MXFEED: its column, with PLINK the one that the west partner decoded, enters, or both accumulators are
marked; one without a west word sets PMIS in both (R115, R130, R133). -/
def feedEast (c : FabCtx) (ts : Tab Tile) (acc ls : Nat) (first : Bool) (slot : Nat) : FabOut :=
  let west := c.t - 1
  let W := tget Tile.zero ts west
  let E := tget Tile.zero ts c.t
  let org := c.origin slotM 0x16
  match W.vctl.westFeed c.cyc with
  | none => FabOut.pure (bothTiles (pairFault (tset Tile.zero ts c.t E.stepFcc) west acc org) west Tile.setPmis)
  | some (accW, accs, fedW, badW, orgW, before, after) =>
    let fed := if E.vctl.plink then fedW else E.takeFeed c ls
    let linkBad := E.vctl.plink && (decide (fedW.kc ≠ colDepth E.feedFmt E.statFmt) ||
      decide (fedW.cyc ≠ colCycles E.feedFmt E.statFmt))
    let ts1 := tset Tile.zero ts west { W with vctl := W.vctl.takeWest c.cyc }
    if badW then
      FabOut.pure (tset Tile.zero ts1 c.t (E.hdrFault (E.faultAccs accW) orgW).stepFcc)
    else if linkBad || E.feedFault fed acc first slot then
      FabOut.pure (undoFeed (tset Tile.zero ts1 c.t E.stepFcc) west accW accs org before after)
    else onTile c ts1 fun E =>
      let r := E.feedOne c fed acc first slot
      (r.1.stepFcc, r.2)

def feedAny (c : FabCtx) (ts : Tab Tile) (acc ls : Nat) (first : Bool) (slot : Nat) : FabOut :=
  let T := tget Tile.zero ts c.t
  if T.vctl.paired then
    (if T.vctl.peast then feedEast c ts acc ls first slot else feedWest c ts acc ls first slot)
  else onTile c ts fun T => T.feedSolo c acc ls first slot

/-! ## Draining and status -/

/-- MXDRN and MXDRNC (R127): AOUT two cycles later, a lane at VAT three cycles later, the row cleared for MXDRNC. -/
def drainRow (clear : Bool) (c : FabCtx) (ts : Tab Tile) (acc lane row part : Nat) : FabOut :=
  let T := tget Tile.zero ts c.t
  let P := tget Tile.zero ts (partnerOf c.t)
  let partner := if T.vctl.paired then P.vat.rowPois acc row else none
  let r := T.drainLine c acc row part partner
  onTile c ts fun T =>
    let T1 := { T with vat := T.vat.raise (T.vat.home acc) r.2 }
    let T2 := T1.send (c.cyc + 2) .aout r.1
    let T3 := if lane ≤ 7 then T2.send (c.cyc + 3) (.lane lane posVat) r.1 else T2
    if clear then
      match T3.vat.rowPois acc row with
      | some org => (T3, [c.sinkTok slotM org skVat])
      | none => ({ T3 with vat := T3.vat.clearRow acc row }, [])
    else (T3, [])

/-- Rows of an accumulator (of both halves of a pair) with a residue mismatch. -/
def VatCore.residRows (v : VatCore) (acc : Nat) : Nat :=
  bitsFrom (fun r => (v.halves acc).any fun a => v.resid.any fun k =>
    decide (cellKey a r 0 ≤ k) && decide (k < cellKey a r 0 + 32)) 32

/-- MXSTAT (R129). -/
def Tile.report (T : Tile) (c : FabCtx) (acc form dst st : Nat) : Tile :=
  let a := T.vat.accstRead acc
  match form with
  | 0 => T.emitK c slotM dst 2 (stFlags a) none
  | 1 => T.emitK c slotM dst 2 (stBub a) none
  | 2 => T.emitK c slotM dst 2 (T.vat.residRows acc) none
  | _ => T.send (c.cyc + 2) (.vreg st dst)
      ⟨BitVec.ofNat 512 (pack [(32, stFlags a), (32, stBub a), (32, T.vat.residRows acc), (32, stLive a)]), 0, 0⟩

/-- The pair words of the west partner, with the one that a word of the east partner matches marked as met; none where
none matches. -/
def matchPair (cyc : Nat) (on : Bool) : List (Nat × PairOp) → Option (List (Nat × PairOp))
  | [] => none
  | (u, op) :: r =>
    if u + 1 = cyc ∧ op = (if on then PairOp.bind else PairOp.unbind) then some ((u, .met on) :: r)
    else (matchPair cyc on r).map fun l => (u, op) :: l

/-- MXPAIR and MXSOLO (R130): the binding changes when both partners have executed the word; if exactly one does, PMIS
is set in both. -/
def pairUp (on : Bool) (c : FabCtx) (ts : Tab Tile) : FabOut :=
  let west := c.t / 2 * 2
  let put := fun (l : List (Nat × PairOp)) =>
    let W := tget Tile.zero ts west
    FabOut.pure (tset Tile.zero ts west { W with vctl := { W.vctl with pend := l } })
  let l := (tget Tile.zero ts west).vctl.pend
  if c.t % 2 = 0 then put (l ++ [(c.cyc, if on then PairOp.bind else PairOp.unbind)])
  else put ((matchPair c.cyc on l).getD (l ++ [(c.cyc - 1, .missed)]))

/-- A pair instruction under way at the start of a cycle: a binding is usable two cycles after the west partner's word,
in the east partner a cycle later (R131; log entry 104); a word that one partner alone has executed is found out, and sets
PMIS in both (R115, R130). -/
def pairStep (cyc west : Nat) (ts : Tab Tile) (e : Nat × PairOp) : Tab Tile :=
  match e.2 with
  | .met on =>
    if e.1 + 2 = cyc then tset Tile.zero ts west ((tget Tile.zero ts west).bindVat false on)
    else if e.1 + 3 ≤ cyc then tset Tile.zero ts (west + 1) ((tget Tile.zero ts (west + 1)).bindVat true on)
    else ts
  | .bind | .unbind | .missed => if e.1 + 2 ≤ cyc then bothTiles ts west Tile.setPmis else ts
  | .feed acc _ _ accs _ bad org before after =>
    if e.1 + 2 ≤ cyc then
      bothTiles (if bad then pairFault ts west acc org else undoFeed ts west acc accs org before after) west Tile.setPmis
    else ts

/-- Whether a pair instruction is still under way after the start of a cycle. -/
def pairLives (cyc : Nat) (e : Nat × PairOp) : Bool :=
  match e.2 with
  | .met _ => decide (cyc < e.1 + 3)
  | _ => decide (cyc < e.1 + 2)

/-- The accumulators that a feed under way acts on. -/
def PairOp.accs : PairOp → List Nat
  | .feed _ _ _ accs _ _ _ _ _ => accs
  | _ => []

/-- A later feed of the west partner enters again, over accumulators that an earlier one has been taken out of and marked;
with FIRST it is a sink there (R135). -/
def Tile.refeed (T : Tile) (cyc : Nat) (gone : List Nat) (e : Nat × PairOp) : Tile × (Nat × PairOp) :=
  match e.2 with
  | .feed acc first slot accs fed bad org _ _ =>
    if bad || !(accs.any fun a => gone.any (· == a)) then (T, e)
    else
      let b := T.vat
      let T1 := match (if first then T.firstPois acc else none) with
        | some o => T.send (cyc + 1) (.sink ⟨ocause o, o, BitVec.ofNat 64 (setBits org.toNat 24 8 (ocause o)), skVat, 0⟩) Line.zero
        | none => T.accumulate fed acc first slot
      (T1, e.1, .feed acc first slot accs fed bad org b T1.vat)
  | _ => (T, e)

/-- The pair instructions of a west partner at the start of a cycle: those that have run out take effect, and a feed that
came after one taken back stands again upon what is left (log entry 104). -/
def pairExpire (cyc : Nat) (ts : Tab Tile) (t : Nat) : Tab Tile :=
  let W := tget Tile.zero ts t
  if W.vctl.pend = [] then ts
  else
    let out := W.vctl.pend.filter fun e => !pairLives cyc e
    let ts1 := W.vctl.pend.foldl (pairStep cyc t) ts
    let gone := out.flatMap fun e => e.2.accs
    let x := (W.vctl.pend.filter (pairLives cyc)).foldl (fun (a : Tile × List (Nat × PairOp)) e =>
      let r := a.1.refeed cyc gone e
      (r.1, a.2 ++ [r.2])) (tget Tile.zero ts1 t, [])
    tset Tile.zero ts1 t { x.1 with vctl := { x.1.vctl with pend := x.2 } }

/-! ## Meanings -/

def execMxhdr (stat opnd : Bool) (src : BitVec 4) (st : Bool) (hd : BitVec 2) (s : State) :=
  tileOp s fun c T => T.latchHeader c stat opnd src.toNat st.toNat hd.toNat
def execMxldb (sc side : Bool) (ls : BitVec 4) (n : BitVec 5) (s : State) :=
  tileOp s fun c T => T.loadB c sc side ls.toNat n.toNat
def execMxldbt (ls : BitVec 4) (slot : BitVec 5) (s : State) :=
  tileOp s fun c T => T.loadBT c ls.toNat slot.toNat
def execMxfeed (acc : BitVec 2) (ls : BitVec 4) (first : Bool) (slot : BitVec 5) (s : State) :=
  onFabric s fun c ts => feedAny c ts acc.toNat ls.toNat first slot.toNat
/-- MXBUB (R126): an explicit bubble column. -/
def execMxbub (acc : BitVec 2) (s : State) :=
  tileOp1 s fun _ T => { T with vat := T.vat.bubble acc.toNat }.stepFcc
/-- MXCLR (R126, R135). -/
def execMxclr (acc : BitVec 2) (s : State) :=
  tileOp s fun c T =>
    match T.vat.clearPois acc.toNat with
    | some org => (T, [c.sinkTok slotM org skVat])
    | none => ({ T with vat := T.vat.clear acc.toNat }, [])
def execMxdrn (acc : BitVec 2) (lane : BitVec 4) (row : BitVec 5) (part : BitVec 2) (s : State) :=
  onFabric s fun c ts => drainRow false c ts acc.toNat lane.toNat row.toNat part.toNat
def execMxdrnc (acc : BitVec 2) (lane : BitVec 4) (row : BitVec 5) (part : BitVec 2) (s : State) :=
  onFabric s fun c ts => drainRow true c ts acc.toNat lane.toNat row.toNat part.toNat
def execMxpair (s : State) := onFabric s (pairUp true)
def execMxsolo (s : State) := onFabric s (pairUp false)
/-- MXACCF (R128). -/
def execMxaccf (acc : BitVec 2) (rm : BitVec 4) (sat if32 : Bool) (drain : BitVec 4) (s : State) :=
  tileOp1 s fun _ T =>
    let n := setBits (T.vat.st acc.toNat) 23 9 (pack [(3, rm.toNat), (1, sat.toNat), (1, if32.toNat), (4, drain.toNat)])
    { T with vat := T.vat.setSt acc.toNat n }
def execMxstat (acc form : BitVec 2) (dst : BitVec 4) (st : Bool) (s : State) :=
  tileOp1 s fun c T => T.report c acc.toNat form.toNat dst.toNat st.toNat
/-- MXSWAPB (R130): the other buffer becomes active, with SH as its header. -/
def execMxswapb (s : State) :=
  tileOp1 s fun _ T =>
    let a := 1 - T.vctl.abuf
    { T with vctl := (T.vctl.setSt 0 1 a).setHeader (6 + a) (BitVec.ofNat 64 ((T.vctl.header 5).toNat % 2 ^ 23)) }

end Sys2Proof.Machine
end

