-- ==== Sys2Proof/Machine/Vector.lean ====
section
/-! DEFINITION. The meanings of the V slot (R143 to R158). -/

namespace Sys2Proof.Machine

/-- R144: a + b. -/
def execVadd (o : VArgs) (s : State) := tileOp1 s fun c T => vFlt2 (fun m a b => .exact (FVal.add m a b)) latFlt c o T
/-- R144: a − b. -/
def execVsub (o : VArgs) (s : State) := tileOp1 s fun c T => vFlt2 (fun m a b => .exact (FVal.add m a b.neg)) latFlt c o T
/-- R144: a × b. -/
def execVmul (o : VArgs) (s : State) := tileOp1 s fun c T => vFlt2 (fun _ a b => .exact (FVal.mul a b)) latFlt c o T
/-- R144: minimumNumber. -/
def execVmin (o : VArgs) (s : State) := tileOp1 s fun c T => vFlt2 (fun _ a b => .exact (FVal.minNum a b)) latFlt c o T
/-- R144: maximumNumber. -/
def execVmax (o : VArgs) (s : State) := tileOp1 s fun c T => vFlt2 (fun _ a b => .exact (FVal.maxNum a b)) latFlt c o T
/-- R144: a ÷ b. -/
def execVdiv (o : VArgs) (s : State) := tileOp1 s fun c T => vFlt2 (fun _ a b => FVal.div a b) (fun _ => 12) c o T
/-- R144: a × b + c, one rounding. -/
def execVfma (o : VArgs) (s : State) := tileOp1 s fun c T => vFlt3 (fun m a b d => FVal.add m (FVal.mul a b) d) c o T
/-- R144: a × b − c. -/
def execVfms (o : VArgs) (s : State) := tileOp1 s fun c T => vFlt3 (fun m a b d => FVal.add m (FVal.mul a b) d.neg) c o T
/-- R144: −(a × b) + c. -/
def execVfnma (o : VArgs) (s : State) := tileOp1 s fun c T => vFlt3 (fun m a b d => FVal.add m (FVal.mul a b).neg d) c o T
/-- R144: |a|. -/
def execVabs (o : VArgs) (s : State) := tileOp1 s fun c T => vFlt1 (fun a => .exact a.abs) latFlt c o T
/-- R144: −a. -/
def execVneg (o : VArgs) (s : State) := tileOp1 s fun c T => vFlt1 (fun a => .exact a.neg) latFlt c o T
/-- R144: 1 ÷ a. -/
def execVrcp (o : VArgs) (s : State) := tileOp1 s fun c T => vFlt1 (fun a => FVal.div (.fin false 1 0) a) (fun _ => 8) c o T
/-- R144: 1 ÷ √a. -/
def execVrsq (o : VArgs) (s : State) := tileOp1 s fun c T => vFlt1 (FVal.rsqrt) (fun _ => 8) c o T
/-- R144: √a. -/
def execVsqrt (o : VArgs) (s : State) := tileOp1 s fun c T => vFlt1 (FVal.sqrt) (fun _ => 12) c o T
/-- R144: 2^a. -/
def execVexp2 (o : VArgs) (s : State) := tileOp1 s fun c T => vFlt1 (FVal.exp2) (fun _ => 8) c o T
/-- R144: log2 a. -/
def execVlog2 (o : VArgs) (s : State) := tileOp1 s fun c T => vFlt1 (FVal.log2) (fun _ => 8) c o T
/-- R145: a + b. -/
def execViadd (o : VArgs) (s : State) := tileOp1 s fun c T => vInt2 (fun a b => a + b) c o T
/-- R145: a − b. -/
def execVisub (o : VArgs) (s : State) := tileOp1 s fun c T => vInt2 (fun a b => a - b) c o T
/-- R145: a × b. -/
def execVimul (o : VArgs) (s : State) := tileOp1 s fun c T => vInt2 (fun a b => a * b) c o T
/-- R145: the lesser. -/
def execVimin (o : VArgs) (s : State) := tileOp1 s fun c T => vInt2 (fun a b => min a b) c o T
/-- R145: the greater. -/
def execVimax (o : VArgs) (s : State) := tileOp1 s fun c T => vInt2 (fun a b => max a b) c o T
/-- R145: a × b + c, one clamp or wrap. -/
def execVimad (o : VArgs) (s : State) := tileOp1 s fun c T => vInt3 (fun a b d => a * b + d) c o T
/-- R145: bitwise and. -/
def execVand (o : VArgs) (s : State) := tileOp1 s fun c T => vBits2 accAny (fun _ a b => Nat.land a b) c o T
/-- R145: bitwise or. -/
def execVor (o : VArgs) (s : State) := tileOp1 s fun c T => vBits2 accAny (fun _ a b => Nat.lor a b) c o T
/-- R145: bitwise exclusive or. -/
def execVxor (o : VArgs) (s : State) := tileOp1 s fun c T => vBits2 accAny (fun _ a b => Nat.xor a b) c o T
/-- R145: bitwise not. -/
def execVnot (o : VArgs) (s : State) := tileOp1 s fun c T => vBits1 accAny (fun t a => 2 ^ t.w - 1 - a) c o T
/-- R145: shift left; a count of w or more gives 0. -/
def execVshl (o : VArgs) (s : State) := tileOp1 s fun c T => vBits2 accInt (fun t a b => if t.w ≤ b then 0 else a * 2 ^ b % 2 ^ t.w) c o T
/-- R145: logical shift right. -/
def execVshr (o : VArgs) (s : State) := tileOp1 s fun c T => vBits2 accInt (fun t a b => if t.w ≤ b then 0 else a / 2 ^ b) c o T
/-- R145: arithmetic shift right. -/
def execVsar (o : VArgs) (s : State) := tileOp1 s fun c T => vBits2 accInt (fun t a b => sarBits t.w a b) c o T
/-- R145: leading zeros. -/
def execVclz (o : VArgs) (s : State) := tileOp1 s fun c T => vBits1 accInt (fun t a => clzBits t.w a) c o T
/-- R145: set bits. -/
def execVpopc (o : VArgs) (s : State) := tileOp1 s fun c T => vBits1 accInt (fun t a => popCount t.w a) c o T
/-- R146: a = b. -/
def execVcmpeq (o : VArgs) (s : State) := tileOp1 s fun c T => vCmp (fun r => r == some .eq) c o T
/-- R146: a ≠ b, true with a NaN. -/
def execVcmpne (o : VArgs) (s : State) := tileOp1 s fun c T => vCmp (fun r => r != some .eq) c o T
/-- R146: a < b. -/
def execVcmplt (o : VArgs) (s : State) := tileOp1 s fun c T => vCmp (fun r => r == some .lt) c o T
/-- R146: a ≤ b. -/
def execVcmple (o : VArgs) (s : State) := tileOp1 s fun c T => vCmp (fun r => r == some .lt || r == some .eq) c o T
/-- R147. -/
def execVsel (o : VArgs) (s : State) := tileOp1 s fun c T => vSelect c o T
/-- R148. -/
def execVkand (o : VArgs) (s : State) := tileOp1 s fun c T => vMask (fun a b => Nat.land a b) c o T
/-- R148. -/
def execVkor (o : VArgs) (s : State) := tileOp1 s fun c T => vMask (fun a b => Nat.lor a b) c o T
/-- R148. -/
def execVknot (o : VArgs) (s : State) := tileOp1 s fun c T => vMask (fun a _ => 2 ^ 64 - 1 - a) c o T
/-- R148. -/
def execVkmov (o : VArgs) (s : State) := tileOp1 s fun c T => vMaskMov c o T
/-- R149. -/
def execVcvt (o : VArgs) (s : State) := tileOp1 s fun c T => vConv false c o T
/-- R149, R99. -/
def execVcvtc (o : VArgs) (s : State) := tileOp1 s fun c T => vConv true c o T
/-- R150. -/
def execVqnt (o : VArgs) (s : State) := tileOp1 s fun c T => vQuant c o T
/-- R151. -/
def execVdqnt (o : VArgs) (s : State) := tileOp1 s fun c T => vDequant c o T
/-- R152. -/
def execVpack (o : VArgs) (s : State) := tileOp1 s fun c T => vPacked c o T
/-- R152. -/
def execVunpk (o : VArgs) (s : State) := tileOp1 s fun c T => vUnpacked c o T
/-- R153. -/
def execVrsum (o : VArgs) (s : State) := tileOp1 s fun c T => vReduceTo .sum c o T
/-- R153. -/
def execVrmax (o : VArgs) (s : State) := tileOp1 s fun c T => vReduceTo .max c o T
/-- R153. -/
def execVrmin (o : VArgs) (s : State) := tileOp1 s fun c T => vReduceTo .min c o T
/-- R154. -/
def execVrsumm (o : VArgs) (s : State) := tileOp1 s fun c T => vMaskedSum c o T
/-- R155. -/
def execVrscl (o : VArgs) (s : State) := tileOp1 s fun c T => vRescale c o T
/-- R156. -/
def execVperm (o : VArgs) (s : State) := tileOp1 s fun c T => vPermute c o T
/-- R156. -/
def execVbcst (o : VArgs) (s : State) := tileOp1 s fun c T => vBroadcast c o T
/-- R156. -/
def execVrot (o : VArgs) (s : State) := tileOp1 s fun c T => vRotate c o T
/-- R156. -/
def execVmov (o : VArgs) (s : State) := tileOp1 s fun c T => vMove c o T
/-- R156. -/
def execViota (o : VArgs) (s : State) := tileOp1 s fun c T => vIndex c o T
/-- R157. -/
def execVrng (o : VArgs) (s : State) := tileOp1 s fun c T => vRandom c o T
/-- R158. -/
def execVdrop (o : VArgs) (s : State) := tileOp1 s fun c T => vDropout c o T

end Sys2Proof.Machine
end

