-- ==== Sys2Proof/Machine/Dispatch.lean ====
section
/-! DEFINITION. One arm for every instruction, operation and event of the opcode table. -/

namespace Sys2Proof.Machine

def exec (i : Instr) (s : State) : Host.Outcome State Fault Refusal :=
  match i with
  | .nop => Sys2Proof.Machine.execNop s
  | .guard => Sys2Proof.Machine.execGuard s
  | .mxhdr stat opnd src st hd => Sys2Proof.Machine.execMxhdr stat opnd src st hd s
  | .mxldb sc side ls n => Sys2Proof.Machine.execMxldb sc side ls n s
  | .mxldbt ls slot => Sys2Proof.Machine.execMxldbt ls slot s
  | .mxfeed acc ls first slot => Sys2Proof.Machine.execMxfeed acc ls first slot s
  | .mxbub acc => Sys2Proof.Machine.execMxbub acc s
  | .mxclr acc => Sys2Proof.Machine.execMxclr acc s
  | .mxdrn acc lane row part => Sys2Proof.Machine.execMxdrn acc lane row part s
  | .mxdrnc acc lane row part => Sys2Proof.Machine.execMxdrnc acc lane row part s
  | .mxpair => Sys2Proof.Machine.execMxpair s
  | .mxsolo => Sys2Proof.Machine.execMxsolo s
  | .mxaccf acc rm sat if32 drain => Sys2Proof.Machine.execMxaccf acc rm sat if32 drain s
  | .mxstat acc form dst st => Sys2Proof.Machine.execMxstat acc form dst st s
  | .mxswapb => Sys2Proof.Machine.execMxswapb s
  | .vadd o => Sys2Proof.Machine.execVadd o s
  | .vsub o => Sys2Proof.Machine.execVsub o s
  | .vmul o => Sys2Proof.Machine.execVmul o s
  | .vfma o => Sys2Proof.Machine.execVfma o s
  | .vfms o => Sys2Proof.Machine.execVfms o s
  | .vfnma o => Sys2Proof.Machine.execVfnma o s
  | .vmin o => Sys2Proof.Machine.execVmin o s
  | .vmax o => Sys2Proof.Machine.execVmax o s
  | .vabs o => Sys2Proof.Machine.execVabs o s
  | .vneg o => Sys2Proof.Machine.execVneg o s
  | .vrcp o => Sys2Proof.Machine.execVrcp o s
  | .vrsq o => Sys2Proof.Machine.execVrsq o s
  | .vsqrt o => Sys2Proof.Machine.execVsqrt o s
  | .vexp2 o => Sys2Proof.Machine.execVexp2 o s
  | .vlog2 o => Sys2Proof.Machine.execVlog2 o s
  | .vdiv o => Sys2Proof.Machine.execVdiv o s
  | .viadd o => Sys2Proof.Machine.execViadd o s
  | .visub o => Sys2Proof.Machine.execVisub o s
  | .vimul o => Sys2Proof.Machine.execVimul o s
  | .vimad o => Sys2Proof.Machine.execVimad o s
  | .vimin o => Sys2Proof.Machine.execVimin o s
  | .vimax o => Sys2Proof.Machine.execVimax o s
  | .vand o => Sys2Proof.Machine.execVand o s
  | .vor o => Sys2Proof.Machine.execVor o s
  | .vxor o => Sys2Proof.Machine.execVxor o s
  | .vnot o => Sys2Proof.Machine.execVnot o s
  | .vshl o => Sys2Proof.Machine.execVshl o s
  | .vshr o => Sys2Proof.Machine.execVshr o s
  | .vsar o => Sys2Proof.Machine.execVsar o s
  | .vclz o => Sys2Proof.Machine.execVclz o s
  | .vpopc o => Sys2Proof.Machine.execVpopc o s
  | .vcmpeq o => Sys2Proof.Machine.execVcmpeq o s
  | .vcmpne o => Sys2Proof.Machine.execVcmpne o s
  | .vcmplt o => Sys2Proof.Machine.execVcmplt o s
  | .vcmple o => Sys2Proof.Machine.execVcmple o s
  | .vsel o => Sys2Proof.Machine.execVsel o s
  | .vkand o => Sys2Proof.Machine.execVkand o s
  | .vkor o => Sys2Proof.Machine.execVkor o s
  | .vknot o => Sys2Proof.Machine.execVknot o s
  | .vkmov o => Sys2Proof.Machine.execVkmov o s
  | .vcvt o => Sys2Proof.Machine.execVcvt o s
  | .vcvtc o => Sys2Proof.Machine.execVcvtc o s
  | .vqnt o => Sys2Proof.Machine.execVqnt o s
  | .vdqnt o => Sys2Proof.Machine.execVdqnt o s
  | .vpack o => Sys2Proof.Machine.execVpack o s
  | .vunpk o => Sys2Proof.Machine.execVunpk o s
  | .vrsum o => Sys2Proof.Machine.execVrsum o s
  | .vrmax o => Sys2Proof.Machine.execVrmax o s
  | .vrmin o => Sys2Proof.Machine.execVrmin o s
  | .vrsumm o => Sys2Proof.Machine.execVrsumm o s
  | .vrscl o => Sys2Proof.Machine.execVrscl o s
  | .vperm o => Sys2Proof.Machine.execVperm o s
  | .vbcst o => Sys2Proof.Machine.execVbcst o s
  | .vrot o => Sys2Proof.Machine.execVrot o s
  | .vmov o => Sys2Proof.Machine.execVmov o s
  | .viota o => Sys2Proof.Machine.execViota o s
  | .vrng o => Sys2Proof.Machine.execVrng o s
  | .vdrop o => Sys2Proof.Machine.execVdrop o s
  | .prd p line => Sys2Proof.Machine.execPrd p line s
  | .pwr p line => Sys2Proof.Machine.execPwr p line s
  | .prw p port line => Sys2Proof.Machine.execPrw p port line s
  | .padv p n => Sys2Proof.Machine.execPadv p n s
  | .ptagc p j => Sys2Proof.Machine.execPtagc p j s
  | .ldt g adv off => Sys2Proof.Machine.execLdt g adv off s
  | .stt g adv off => Sys2Proof.Machine.execStt g adv off s
  | .sin port lane => Sys2Proof.Machine.execSin port lane s
  | .sout port lane => Sys2Proof.Machine.execSout port lane s
  | .tap st inl outl => Sys2Proof.Machine.execTap st inl outl s
  | .aggo g res => Sys2Proof.Machine.execAggo g res s
  | .agstop g => Sys2Proof.Machine.execAgstop g s
  | .agld g lane => Sys2Proof.Machine.execAgld g lane s
  | .kedge k col => Sys2Proof.Machine.execKedge k col s
  | .slck p k => Sys2Proof.Machine.execSlck p k s
  | .slfwd p port remote => Sys2Proof.Machine.execSlfwd p port remote s
  | .twprm p twe drain n => Sys2Proof.Machine.execTwprm p twe drain n s
  | .poisk k => Sys2Proof.Machine.execPoisk k s
  | .vimm st vd value => Sys2Proof.Machine.execVimm st vd value s
  | .vimm64 value => Sys2Proof.Machine.execVimm64 value s
  | .vsetm etype rm sat w0 w1 => Sys2Proof.Machine.execVsetm etype rm sat w0 w1 s
  | .kset k mode value => Sys2Proof.Machine.execKset k mode value s
  | .rngkey part value => Sys2Proof.Machine.execRngkey part value s
  | .sclset value => Sys2Proof.Machine.execSclset value s
  | .agcfg g base str cnt => Sys2Proof.Machine.execAgcfg g base str cnt s
  | .agcfg2 g str cnt bank lane mode pond => Sys2Proof.Machine.execAgcfg2 g str cnt bank lane mode pond s
  | .hdrset hd fmt swz vlim sbase => Sys2Proof.Machine.execHdrset hd fmt swz vlim sbase s
  | .dropcfg thr scale => Sys2Proof.Machine.execDropcfg thr scale s
  | .mxcfg efmt eswz een plink => Sys2Proof.Machine.execMxcfg efmt eswz een plink s
  | .add d a b => Sys2Proof.Machine.execAdd d a b s
  | .sub d a b => Sys2Proof.Machine.execSub d a b s
  | .mul d a b => Sys2Proof.Machine.execMul d a b s
  | .mulh d a b => Sys2Proof.Machine.execMulh d a b s
  | .mulhu d a b => Sys2Proof.Machine.execMulhu d a b s
  | .div d a b => Sys2Proof.Machine.execDiv d a b s
  | .divu d a b => Sys2Proof.Machine.execDivu d a b s
  | .rem d a b => Sys2Proof.Machine.execRem d a b s
  | .remu d a b => Sys2Proof.Machine.execRemu d a b s
  | .and d a b => Sys2Proof.Machine.execAnd d a b s
  | .or d a b => Sys2Proof.Machine.execOr d a b s
  | .xor d a b => Sys2Proof.Machine.execXor d a b s
  | .andn d a b => Sys2Proof.Machine.execAndn d a b s
  | .shl d a b => Sys2Proof.Machine.execShl d a b s
  | .shr d a b => Sys2Proof.Machine.execShr d a b s
  | .sar d a b => Sys2Proof.Machine.execSar d a b s
  | .rotl d a b => Sys2Proof.Machine.execRotl d a b s
  | .min d a b => Sys2Proof.Machine.execMin d a b s
  | .max d a b => Sys2Proof.Machine.execMax d a b s
  | .minu d a b => Sys2Proof.Machine.execMinu d a b s
  | .maxu d a b => Sys2Proof.Machine.execMaxu d a b s
  | .clz d a => Sys2Proof.Machine.execClz d a s
  | .ctz d a => Sys2Proof.Machine.execCtz d a s
  | .popc d a => Sys2Proof.Machine.execPopc d a s
  | .bswap d a => Sys2Proof.Machine.execBswap d a s
  | .sext d a b => Sys2Proof.Machine.execSext d a b s
  | .zext d a b => Sys2Proof.Machine.execZext d a b s
  | .cmpeq d a b => Sys2Proof.Machine.execCmpeq d a b s
  | .cmpne d a b => Sys2Proof.Machine.execCmpne d a b s
  | .cmplt d a b => Sys2Proof.Machine.execCmplt d a b s
  | .cmpltu d a b => Sys2Proof.Machine.execCmpltu d a b s
  | .sel d a b => Sys2Proof.Machine.execSel d a b s
  | .mov d a => Sys2Proof.Machine.execMov d a s
  | .addi d a imm => Sys2Proof.Machine.execAddi d a imm s
  | .muli d a imm => Sys2Proof.Machine.execMuli d a imm s
  | .andi d a imm => Sys2Proof.Machine.execAndi d a imm s
  | .ori d a imm => Sys2Proof.Machine.execOri d a imm s
  | .xori d a imm => Sys2Proof.Machine.execXori d a imm s
  | .shli d a imm => Sys2Proof.Machine.execShli d a imm s
  | .shri d a imm => Sys2Proof.Machine.execShri d a imm s
  | .sari d a imm => Sys2Proof.Machine.execSari d a imm s
  | .rotli d a imm => Sys2Proof.Machine.execRotli d a imm s
  | .cmpeqi d a imm => Sys2Proof.Machine.execCmpeqi d a imm s
  | .cmpnei d a imm => Sys2Proof.Machine.execCmpnei d a imm s
  | .cmplti d a imm => Sys2Proof.Machine.execCmplti d a imm s
  | .cmpltui d a imm => Sys2Proof.Machine.execCmpltui d a imm s
  | .mini d a imm => Sys2Proof.Machine.execMini d a imm s
  | .maxi d a imm => Sys2Proof.Machine.execMaxi d a imm s
  | .limm d imm => Sys2Proof.Machine.execLimm d imm s
  | .limmz d imm => Sys2Proof.Machine.execLimmz d imm s
  | .limmh d imm => Sys2Proof.Machine.execLimmh d imm s
  | .beq a b off => Sys2Proof.Machine.execBeq a b off s
  | .bne a b off => Sys2Proof.Machine.execBne a b off s
  | .blt a b off => Sys2Proof.Machine.execBlt a b off s
  | .bge a b off => Sys2Proof.Machine.execBge a b off s
  | .bltu a b off => Sys2Proof.Machine.execBltu a b off s
  | .bgeu a b off => Sys2Proof.Machine.execBgeu a b off s
  | .bz a off => Sys2Proof.Machine.execBz a off s
  | .bnz a off => Sys2Proof.Machine.execBnz a off s
  | .jmp off => Sys2Proof.Machine.execJmp off s
  | .jal d off => Sys2Proof.Machine.execJal d off s
  | .jalr d a off => Sys2Proof.Machine.execJalr d a off s
  | .ld m => Sys2Proof.Machine.execLd m s
  | .lds m => Sys2Proof.Machine.execLds m s
  | .st m => Sys2Proof.Machine.execSt m s
  | .amo m => Sys2Proof.Machine.execAmo m s
  | .cas m => Sys2Proof.Machine.execCas m s
  | .fence m => Sys2Proof.Machine.execFence m s
  | .enq m => Sys2Proof.Machine.execEnq m s
  | .seqw m => Sys2Proof.Machine.execSeqw m s
  | .memoryReply t n ext => Sys2Proof.Machine.execMemoryReply t n ext s
  | .homeWritePerform id => Sys2Proof.Machine.execHomeWritePerform id s
  | .writeAck id denied ext => Sys2Proof.Machine.execWriteAck id denied ext s
  | .fenceComplete t => Sys2Proof.Machine.execFenceComplete t s
  | .seqwRelease t => Sys2Proof.Machine.execSeqwRelease t s
  | .seqwTimeout t => Sys2Proof.Machine.execSeqwTimeout t s
  | .trap code => Sys2Proof.Machine.execTrap code s
  | .svc code => Sys2Proof.Machine.execSvc code s
  | .hend => Sys2Proof.Machine.execHend s
  | .getcr d cr => Sys2Proof.Machine.execGetcr d cr s
  | .setcr a cr => Sys2Proof.Machine.execSetcr a cr s
  | .rdcyc d => Sys2Proof.Machine.execRdcyc d s
  | .waitev d a mask => Sys2Proof.Machine.execWaitev d a mask s
  | .waitevRelease t => Sys2Proof.Machine.execWaitevRelease t s
  | .tlsig a b add => Sys2Proof.Machine.execTlsig a b add s
  | .tlwt d a b timeout => Sys2Proof.Machine.execTlwt d a b timeout s
  | .tlwtRelease t => Sys2Proof.Machine.execTlwtRelease t s
  | .tlwtTimeout t => Sys2Proof.Machine.execTlwtTimeout t s
  | .tlset a b => Sys2Proof.Machine.execTlset a b s
  | .depdec d a => Sys2Proof.Machine.execDepdec d a s
  | .depset a b => Sys2Proof.Machine.execDepset a b s
  | .launch d a => Sys2Proof.Machine.execLaunch d a s
  | .publ d a => Sys2Proof.Machine.execPubl d a s
  | .snap d a => Sys2Proof.Machine.execSnap d a s
  | .unsnap d a => Sys2Proof.Machine.execUnsnap d a s
  | .foldComplete p n => Sys2Proof.Machine.execFoldComplete p n s
  | .finsp d a b => Sys2Proof.Machine.execFinsp d a b s
  | .fpatch d a b => Sys2Proof.Machine.execFpatch d a b s
  | .fres a => Sys2Proof.Machine.execFres a s
  | .fkill a relocate => Sys2Proof.Machine.execFkill a relocate s
  | .fstep d a => Sys2Proof.Machine.execFstep d a s
  | .fclrp a b => Sys2Proof.Machine.execFclrp a b s
  | .hcapq d a => Sys2Proof.Machine.execHcapq d a s
  | .hcapdrop a => Sys2Proof.Machine.execHcapdrop a s
  | .condset a => Sys2Proof.Machine.execCondset a s
  | .condsetRelease t => Sys2Proof.Machine.execCondsetRelease t s
  | .iterwt d a => Sys2Proof.Machine.execIterwt d a s
  | .iterwtRelease t => Sys2Proof.Machine.execIterwtRelease t s
  | .kickscan d a => Sys2Proof.Machine.execKickscan d a s
  | .kickscanClear d a => Sys2Proof.Machine.execKickscanClear d a s
  | .jrnl d a b tag => Sys2Proof.Machine.execJrnl d a b tag s
  | .wdog a => Sys2Proof.Machine.execWdog a s
  | .halt => Sys2Proof.Machine.execHalt s
  | .sluice d a b => Sys2Proof.Machine.execSluice d a b s
  | .rngc d a b => Sys2Proof.Machine.execRngc d a b s
  | .shpfence a all => Sys2Proof.Machine.execShpfence a all s
  | .pagepl d a b => Sys2Proof.Machine.execPagepl d a b s
  | .popCondition r => Sys2Proof.Machine.execPopCondition r s
  | .firingDone r => Sys2Proof.Machine.execFiringDone r s
  | .weirFire p => Sys2Proof.Machine.execWeirFire p s
  | .commSuperstepStart p => Sys2Proof.Machine.execCommSuperstepStart p s
  | .retirement p => Sys2Proof.Machine.execRetirement p s
  | .frameStart p => Sys2Proof.Machine.execFrameStart p s
  | .arcWaitTimeout p => Sys2Proof.Machine.execArcWaitTimeout p s
  | .act c bank row => Sys2Proof.Machine.execAct c bank row s
  | .pre c bank => Sys2Proof.Machine.execPre c bank s
  | .prea c => Sys2Proof.Machine.execPrea c s
  | .rd c bank col step => Sys2Proof.Machine.execRd c bank col step s
  | .wr c bank col step => Sys2Proof.Machine.execWr c bank col step s
  | .wrc c bank col => Sys2Proof.Machine.execWrc c bank col s
  | .ref c => Sys2Proof.Machine.execRef c s
  | .repair c => Sys2Proof.Machine.execRepair c s
  | .openRec c len => Sys2Proof.Machine.execOpenRec c len s
  | .twstep c step => Sys2Proof.Machine.execTwstep c step s
  | .timelineEnd c => Sys2Proof.Machine.execTimelineEnd c s
  | .kick q => Sys2Proof.Machine.execKick q s
  | .recgo len => Sys2Proof.Machine.execRecgo len s
  | .endrWrite v => Sys2Proof.Machine.execEndrWrite v s
  | .pctlEval p newtok => Sys2Proof.Machine.execPctlEval p newtok s
  | .pctlKill p => Sys2Proof.Machine.execPctlKill p s
  | .pctlCheckpoint p => Sys2Proof.Machine.execPctlCheckpoint p s
  | .restore p => Sys2Proof.Machine.execRestore p s
  | .restorePerformed p => Sys2Proof.Machine.execRestorePerformed p s
  | .drainlimExpiry p => Sys2Proof.Machine.execDrainlimExpiry p s
  | .preemptKill p => Sys2Proof.Machine.execPreemptKill p s
  | .checkpoint p => Sys2Proof.Machine.execCheckpoint p s
  | .thermalFreeze p => Sys2Proof.Machine.execThermalFreeze p s
  | .killall p => Sys2Proof.Machine.execKillall p s
  | .endgraph p => Sys2Proof.Machine.execEndgraph p s
  | .redispatch p => Sys2Proof.Machine.execRedispatch p s
  | .arm p n => Sys2Proof.Machine.execArm p n s
  | .close p n => Sys2Proof.Machine.execClose p n s
  | .windowDeadline p n => Sys2Proof.Machine.execWindowDeadline p n s
  | .resume p e => Sys2Proof.Machine.execResume p e s
  | .skip p e => Sys2Proof.Machine.execSkip p e s
  | .cool => Sys2Proof.Machine.execCool s
  | .warm => Sys2Proof.Machine.execWarm s
  | .off => Sys2Proof.Machine.execOff s
  | .trainingReadTest c => Sys2Proof.Machine.execTrainingReadTest c s
  | .trainingWriteTest c => Sys2Proof.Machine.execTrainingWriteTest c s
  | .trainingTestDone c => Sys2Proof.Machine.execTrainingTestDone c s
  | .lrepWrite c v => Sys2Proof.Machine.execLrepWrite c v s
  | .degrClear c => Sys2Proof.Machine.execDegrClear c s
  | .rangeEntryWrite p n w v => Sys2Proof.Machine.execRangeEntryWrite p n w v s
  | .imageTableEdit imm ver pa => Sys2Proof.Machine.execImageTableEdit imm ver pa s
  | .routeEntryWrite d v => Sys2Proof.Machine.execRouteEntryWrite d v s
  | .ridxWrite q v => Sys2Proof.Machine.execRidxWrite q v s
  | .migctlWrite p v => Sys2Proof.Machine.execMigctlWrite p v s
  | .queueLimitWrite pa v => Sys2Proof.Machine.execQueueLimitWrite pa v s
  | .registerWrite pa v => Sys2Proof.Machine.execRegisterWrite pa v s
  | .quote nonce => Sys2Proof.Machine.execQuote nonce s
  | .keyload slot wrapped => Sys2Proof.Machine.execKeyload slot wrapped s
  | .keyclr slot => Sys2Proof.Machine.execKeyclr slot s
  | .hostMailboxWrite p => Sys2Proof.Machine.execHostMailboxWrite p s
  | .powerOnReset => Sys2Proof.Machine.execPowerOnReset s
  | .thermalSample temps => Sys2Proof.Machine.execThermalSample temps s
  | .settleComplete => Sys2Proof.Machine.execSettleComplete s
  | .cdrateWindow => Sys2Proof.Machine.execCdrateWindow s
  | .watchdogExpiry core => Sys2Proof.Machine.execWatchdogExpiry core s
  | .takeoverSpawn => Sys2Proof.Machine.execTakeoverSpawn s
  | .handlerSpawn die => Sys2Proof.Machine.execHandlerSpawn die s
  | .faultRecordGrant serial => Sys2Proof.Machine.execFaultRecordGrant serial s
  | .poolFull serial => Sys2Proof.Machine.execPoolFull serial s
  | .reportDeadline serial => Sys2Proof.Machine.execReportDeadline serial s
  | .copyEntryStart p e => Sys2Proof.Machine.execCopyEntryStart p e s
  | .copyEntryComplete p e => Sys2Proof.Machine.execCopyEntryComplete p e s
  | .requestRecordResend id => Sys2Proof.Machine.execRequestRecordResend id s
  | .orderedLineArrival l => Sys2Proof.Machine.execOrderedLineArrival l s
  | .lineGiveUp id why => Sys2Proof.Machine.execLineGiveUp id why s
  | .runoffBlockArrival src part owner addr way lines => Sys2Proof.Machine.execRunoffBlockArrival src part owner addr way lines s
  | .arcCommit l => Sys2Proof.Machine.execArcCommit l s
  | .arcAbort l => Sys2Proof.Machine.execArcAbort l s
  | .arcDenial id gateway => Sys2Proof.Machine.execArcDenial id gateway s
  | .creditRecord arc l => Sys2Proof.Machine.execCreditRecord arc l s
  | .requestRecordArrival src part owner addr l => Sys2Proof.Machine.execRequestRecordArrival src part owner addr l s
  | .remoteAtomicArrival src part owner queue addr sz op way l => Sys2Proof.Machine.execRemoteAtomicArrival src part owner queue addr sz op way l s
  | .laneRepairStart port lane => Sys2Proof.Machine.execLaneRepairStart port lane s
  | .laneRetrainDone port => Sys2Proof.Machine.execLaneRetrainDone port s
  | .gatewayRefill => Sys2Proof.Machine.execGatewayRefill s
  | .scrubPass marks => Sys2Proof.Machine.execScrubPass marks s
  | .powerStateEnter => Sys2Proof.Machine.execPowerStateEnter s
  | .powerStateWake => Sys2Proof.Machine.execPowerStateWake s
  | .imageLoad index pa part img => Sys2Proof.Machine.execImageLoad index pa part img s
  | .pageRemoval r => Sys2Proof.Machine.execPageRemoval r s
  | .serviceThreadSpawn task => Sys2Proof.Machine.execServiceThreadSpawn task s
  | .portUp port => Sys2Proof.Machine.execPortUp port s
  | .powerLoss => Sys2Proof.Machine.execPowerLoss s
  | .flashWrite bytes => Sys2Proof.Machine.execFlashWrite bytes s
  | .versionFuseBlow => Sys2Proof.Machine.execVersionFuseBlow s
  | .remapTableReload stack => Sys2Proof.Machine.execRemapTableReload stack s
  | .repairRecordWrite c v => Sys2Proof.Machine.execRepairRecordWrite c v s
  | .dynamicModeRefresh c => Sys2Proof.Machine.execDynamicModeRefresh c s

end Sys2Proof.Machine
end

