-- ==== Sys2Proof/Machine/AgendaOps.lean ====
section
/-! DEFINITION. What happens in a cycle, and in which order: the fetch of a thread's or a tile's word, the start of a cycle
in a region, the agenda of a cycle, and the turns that run no instruction (R25, R34, R45, R46, R183, R184, R187, R228,
R238, R279, R295, R379; log entries 4, 5, 6, 15). -/

namespace Sys2Proof.Machine

/-! ## Control threads (R34, R45, R183, R184, R187, R379) -/

/-- The word at a thread's PC: GUARD outside the code store. -/
def Thread.fetch (T : Thread) : W80 :=
  if T.pc.toNat < T.codeLen then tget guardWord T.code T.pc.toNat else guardWord

def isLoad : Instr → Bool
  | .ld _ | .lds _ => true
  | _ => false

def isDiv : Instr → Bool
  | .div _ _ _ | .divu _ _ _ | .rem _ _ _ | .remu _ _ _ => true
  | _ => false

/-- Registers that an outstanding load will write. -/
def PLoad.dests (l : PLoad) : List Nat := if l.sz = 4 then [l.d, l.d + 1] else [l.d]

/-- Instructions that may take effect while earlier loads, taken by their homes without fault, still wait for their values:
register arithmetic, branches, and accesses that release nothing (R183, R235; log entry 98). -/
def overtakes (i : Instr) : Bool :=
  match i, form i with
  | .st m, _ | .amo m, _ | .cas m, _ => decide (relScope m = 0)
  | _, .ctl cls _ _ _ => decide (cls = 8) || decide (cls = 9) || decide (cls = 11) || decide (cls = 13)
  | _, _ => false

/-- Whether an instruction may start now: its operands hold their values, the divider is free, and what is outstanding
allows it. -/
def Thread.canStart (T : Thread) (now : Nat) (i : Instr) : Bool :=
  let rs := readsOf i
  rs.all (fun r => decide (tget 0 T.ready r ≤ now)) && (!isDiv i || decide (T.divAt ≤ now)) &&
    match T.loads with
    | [] => true
    | ls =>
      let names := fun (l : PLoad) (rs : List Nat) => rs.any fun r => decide (r ≠ 0) && l.dests.any (· == r)
      !(ls.any fun l => l.acq || names l rs) &&
        (isLoad i || (overtakes i && ls.all fun l => (l.clean || l.got.isSome) && !names l (writesOf i)))

/-- What a control thread's fetch comes to. -/
inductive Fetch where
  | run (i : Instr)
  | wait
  | freeze (cause : Nat)
  deriving DecidableEq, Repr

/-- Cause of a word that is no instruction, for a control thread (R45). A word to which two rows of the table apply takes the
cause of its class, WRONG_DOMAIN: the model's choice (log entry 128). -/
def badControl (w : Nat) : Nat := if 1 ≤ classOf w ∧ classOf w ≤ 7 then 0x02 else 0x01

/-- Whether an outstanding load keeps a word from taking effect: it may still fault, and a fault of the word comes after
it. -/
def Thread.orderly (T : Thread) (f : Fetch) : Fetch := if T.loads = [] then f else .wait

/-- The next instruction of a thread. -/
def Thread.nextInstr (T : Thread) (now : Nat) : Fetch :=
  let w := T.fetch.toNat
  if now < T.nextAt then .wait
  else if T.codeUe.any (· == T.pc.toNat) then T.orderly (.freeze 0x22)
  else match decode w with
    | .error _ => T.orderly (.freeze (badControl w))
    | .ok (.ft ..) | .ok (.fl ..) => T.orderly (.freeze 0x02)
    | .ok .guard => T.orderly (.run .guard)
    | .ok .nul => T.orderly (.run .nop)
    | .ok (.ctl i) =>
      if usesH w && !T.hasH then T.orderly (.freeze 0x01)
      else if (readsOf i).any fun r => T.regUe.any (· == r) then T.orderly (.freeze 0x23)
      else if T.canStart now i then .run i
      else .wait

/-- The arithmetic clock stands still and HBM refreshes itself (R371). -/
def State.retention (s : State) : Bool := decide (s.tstate = tsCOOLING) || decide (s.tstate = tsCOLD_SETTLE)

/-- A thread may issue: it runs, and where the arithmetic clock stands still it is the cellar's (R371). -/
def State.mayIssue (s : State) (T : Thread) : Bool :=
  decide (T.status = .running) && (decide (T.kind = .cellar) || T.takeover || !s.retention)

/-- A precise freeze at a fetch; a parity error is counted (R380). -/
def State.freezeFetch (s : State) (t cause : Nat) : State :=
  (if cause = 0x23 then s.bumpW (trbAt 0x108) 0 32 1 else s).freezeThread t cause

/-- A register that an instruction has written holds no parity error any more. -/
def State.healReg (s : State) (t : Nat) (i : Instr) : State :=
  let T := s.thread t
  if T.regUe = [] ∨ T.status = .frozen then s
  else s.setThread t { T with regUe := T.regUe.filter (· ≠ destOf i) }

/-! ### One instruction under FSTEP (R228) -/

/-- Refreeze a stepped thread and give its handler the result. One that has halted in place stays frozen, to be idle when it
is resumed; of one that has ended and left its context, the freeze is over (log entry 123). -/
def State.refreeze (s : State) (t h : Nat) (v : Word) : State :=
  let T := s.thread t
  let s1 := match T.status with
    | .none => (s.freezes.filter fun (f : Freeze) => (decide (f.unit = FUnit.service t) || decide (f.unit = FUnit.handler t)) && !f.spent).foldl State.spend s
    | .idle => s.setThread t { T with status := .frozen, saved := .idle, stepBy := none }
    | _ => s.setThread t { T with status := .frozen, saved := .running, stepBy := none }
  s1.stepResult h (s1.thread h).stepD v

/-- After the turn of a thread that a handler steps: completed, its thread ended with it, a wait whose condition does not
hold, or still under way. -/
def State.stepFinish (s : State) (t : Nat) (by_ : Option Nat) : State :=
  let T := s.thread t
  match by_ with
  | none => s
  | some h =>
    match T.status with
    | .frozen => s
    | .none | .idle => s.refreeze t h 0
    | .waiting (.fence _ _ _) => s
    | .waiting (.fstep _ _) => s
    | .waiting _ => s.refreeze t h 0x100
    | .running =>
      if T.held then s.setThread t { T with saved := .none }
      else if T.loads = [] then s.refreeze t h 0 else s

/-- A stepped thread that has run its instruction waits for its loads only. -/
def Thread.stepped (T : Thread) : Bool := T.stepBy.isSome && decide (T.saved = .running)

/-- A thread starts its instruction: it is held no longer, the instruction of a step counts as issued, and a word that its
fetch has corrected counts in SRAMCE (R379, R380). -/
def State.markStep (s0 : State) (t : Nat) : State :=
  let T := s0.thread t
  let s := if !T.held && T.codeCe.any (· == T.pc.toNat) then s0.bumpW (trbAt 0x100) 0 32 1 else s0
  if T.stepBy.isSome then s.setThread t { T with saved := .running, held := false }
  else if T.held then s.setThread t { T with held := false }
  else s

/-- What follows an instruction of a thread, stepped by a handler or not. -/
def State.afterInstr (s : State) (t : Nat) (i : Instr) (by_ : Option Nat) : State := (s.healReg t i).stepFinish t by_

/-- Whether an instruction that ran while loads were outstanding froze its thread: a fault of one of them comes first, so it
has not started yet (R183). -/
def State.tooEarly (s : State) (T : Thread) (t : Nat) : Bool :=
  decide (T.loads ≠ []) && decide ((s.thread t).status = .frozen)

/-- Whether a thread's instruction would be held, were it tried now, with nothing done (R184): a SNAP that begins to hold
writes has begun (R248). -/
def State.wouldHold (s : State) (t : Nat) (i : Instr) : Bool :=
  match exec i ({ s with cur := .thread t }.markStep t) with
  | .next u => ((u.thread t).held && decide (u.snaps.length = s.snaps.length)) || u.tooEarly (s.thread t) t
  | _ => false

/-- Replies that have come are taken by a thread that has no turn. -/
def State.takeReplies (s : State) (t : Nat) : State := s.drainLoads t (s.thread t).loads.length

/-- A control thread's turn: replies that have come are taken, and at most one instruction runs. -/
def State.threadTurn (s : State) (t : Nat) : Host.Outcome State Fault Refusal :=
  let s1 := s.drainLoads t (s.thread t).loads.length
  let T := s1.thread t
  if !s1.mayIssue T then .next s1
  else if T.stepped then
    match T.stepBy with
    | some h => .next (if T.loads = [] then s1.refreeze t h 0 else s1)
    | none => .next s1
  else match T.nextInstr s1.now with
    | .wait => .next s1
    | .freeze c => .next ({ s1 with cur := .thread t }.freezeFetch t c)
    | .run i =>
      match exec i ({ s1 with cur := .thread t }.markStep t) with
      | .next s2 => .next (if s2.tooEarly T t then s1 else s2.afterInstr t i T.stepBy)
      | .fault r => .fault r
      | .refused r => .refused r

/-! ## Tiles (R25, R44 to R46, R48, R351) -/

/-- What a tile's fetch comes to. -/
inductive SlotFetch where
  | run (i : Instr)
  /-- the guard is false, or the slot is empty -/
  | skip
  | bad (cause : Nat)
  /-- a mask register that the word or the instruction of an origin slot reads has a parity error (R379) -/
  | parity (slot : Nat)
  deriving DecidableEq, Repr

/-- The mask registers that an instruction reads, beside its guard (R138, R148, R174). -/
def masksOf : Instr → List Nat
  | .vkand o | .vkor o => [o.va.toNat % 8, o.vb.toNat % 8]
  | .vknot o => [o.va.toNat % 8]
  | .vkmov o => if o.x then [] else [o.va.toNat % 8]
  | .vrsumm o => [o.k.toNat]
  | .kedge k _ => [k.toNat]
  | i => match sVec i with
    | some u => [u.o.k.toNat]
    | none => []

/-- An instruction whose guard is true, unless a mask register it reads has a parity error. -/
def Tile.fetchOp (T : Tile) (slot : Nat) (i : Instr) : SlotFetch :=
  if (masksOf i).any fun k => T.kUe.any (· == k) then .parity slot else .run i

/-- Cause of a word that is no instruction, for a row store (R45). -/
def badFabric (e : BadWord) : Nat :=
  match e with
  | .reservedControl | .control => 0x02
  | _ => 0x01

/-- The row-store word of a tile for a row number: index 32 × tile row + row. -/
def rowKey (r t row : Nat) : Nat := 32 * ((t - regionTile r) / 64) + row

/-- Slot `which` of the word that a tile executes. -/
def State.slotFetch (s : State) (r t row which : Nat) : SlotFetch :=
  let R := s.region r
  let k := rowKey r t row
  if R.rowUe.any (· == k) then .bad 0x22
  else match decode (tget 0 R.rows k).toNat with
    | .error e => .bad (badFabric e)
    | .ok .guard => .run .guard
    | .ok .nul => .run .nop
    | .ok (.ctl _) => .bad 0x02
    | .ok (.fl ginv gk i) =>
      let T := s.tile t
      if T.kUe.any (· == gk.toNat) then .parity slotWord
      else if T.guard gk.toNat ginv then .run i else .skip
    | .ok (.ft ginv gk m v x) =>
      let T := s.tile t
      let first := if m.isSome then 0 else if v.isSome then 1 else 2
      if T.kUe.any (· == gk.toNat) then (if which = first then .parity slotWord else .skip)
      else if T.guard gk.toNat ginv then
        match (if which = 0 then m else if which = 1 then v else x) with
        | some i => T.fetchOp (which + 1) i
        | none => .skip
      else .skip

/-- A word that is no instruction sends its token directly to the region, with origin slot WORD. -/
def State.badWord (s : State) (r t row iter cause : Nat) : State :=
  s.sendTokens r [(s.fabCtx r t row iter).direct slotWord cause]

/-- A parity error of a mask register stops the region at the word that reads it: a mask register holds no poison (R141), so
the word takes no effect (R379; log entry 135). -/
def State.badMask (s : State) (r t row iter slot : Nat) : State :=
  (s.bumpW (trbAt 0x108) 0 32 1).sendTokens r [(s.fabCtx r t row iter).direct slot 0x23]

/-- A slot's turn in a tile. -/
def State.slotTurn (s : State) (r t row iter which : Nat) : Host.Outcome State Fault Refusal :=
  if (s.region r).frozen then .next s
  else match s.slotFetch r t row which with
    | .skip => .next s
    | .bad c => .next (s.badWord r t row iter c)
    | .parity slot => .next (s.badMask r t row iter slot)
    | .run i => exec i { s with cur := .tile r t row iter }

/-- The slots that a word gives turns to: those it fills, or one for a word that is no FT word; NOP executes none. -/
def slotsOfWord (ue : Bool) (w : W80) : List Nat :=
  if ue then [0]
  else match decode w.toNat with
    | .ok .nul => []
    | .ok (.ft _ _ m v x) =>
      (if m.isSome then [0] else []) ++ (if v.isSome then [1] else []) ++ (if x.isSome then [2] else [])
    | _ => [0]

/-- The turns of the words that the tiles of a region execute in this cycle: the word selected k cycles ago at column
offset k. -/
def State.slotTurns (s : State) (r : Nat) : List Turn :=
  let R := s.region r
  (List.range (2 * R.w)).reverse.flatMap fun k =>
    match (R.sels[k]?).getD none with
    | none => []
    | some (row, iter) =>
      (List.range (2 * R.h)).flatMap fun y =>
        let t := regionTile r + 64 * y + k
        let key := rowKey r t row
        (slotsOfWord (R.rowUe.any (· == key)) (tget 0 R.rows key)).map fun j => Turn.slot r t row iter j

/-- The immediate latch clears at the start of every iteration (R55, R142): in a tile whose word is of a later one. -/
def State.clearLatches (s : State) (r : Nat) : State :=
  let R := s.region r
  let stale := (R.tilesOf r).filter fun t =>
    match (s.tile t).imm, (R.sels[(t - regionTile r) % 64]?).getD none with
    | some (i, _), some (_, iter) => decide (i ≠ iter)
    | _, _ => false
  s.mapTiles stale fun T => { T with imm := none }

/-- Row-store words that the fetches of this cycle correct (R379, R380). -/
def State.rowFixes (s : State) (r : Nat) : Nat :=
  let R := s.region r
  ((R.tilesOf r).filter fun t => match (R.sels[(t - regionTile r) % 64]?).getD none with
    | some (row, _) => R.rowCe.any (· == rowKey r t row)
    | none => false).length

/-- The row counter moves on, in the compute superstep of a region that is not frozen. -/
def State.regionSelect (s : State) (r : Nat) : State :=
  let R := s.region r
  if R.frozen || decide ((s.part R.part).stage ≠ .compute) then s
  else
    let s1 := (s.setRegion r R.select).clearLatches r
    let s2 := if R.rowCe = [] then s1 else s1.bumpW (trbAt 0x100) 0 32 (s1.rowFixes r)
    { s2 with agenda := s2.slotTurns r ++ s2.agenda }

/-- The generators of a tile run one step. -/
def State.genSteps (s : State) (r t : Nat) : State :=
  let c := s.fabCtx r t 0 (s.region r).iter
  (List.range 8).foldl (fun s g =>
    let x := (s.tile t).genStep c g
    (s.setTile t x.1).sendTokens r x.2) s

/-- Corrections that reads of banks made are counted in SRAMCE (R275, R380). -/
def State.countCorrected (s : State) (ts : List Nat) : State :=
  ts.foldl (fun s t =>
    let n := (s.tile t).ceReads
    if n = 0 then s else (s.setTile t { s.tile t with ceReads := 0 }).bumpW (trbAt 0x100) 0 32 n) s

/-- The start of a cycle in a region that is not frozen: deliveries land, sinks report, generators step. -/
def State.regionTick (s : State) (r : Nat) : State :=
  let R := s.region r
  if R.frozen || !R.placed then s
  else
    let cyc := R.rcyc + 1
    let ts := R.tilesOf r
    let toks := ts.flatMap fun t => dueSinks cyc (s.tile t).dels
    let s1 := (s.setRegion r { R with rcyc := cyc }).sendTokens r toks
    let s2 := (s1.countCorrected ts).mapTiles ts fun T => T.tick cyc
    let west := ts.filter fun t => decide (t % 2 = 0)
    let s3 := { s2 with tiles := west.foldl (pairExpire cyc) s2.tiles }
    ts.foldl (fun s t => s.genSteps r t) s3

/-! ## The host and soft errors (R245, R284, R285, R375, R379) -/

/-- What an access of a host link in a partition's window meets: an address that no such access reaches, or a right of kind
6 that the access table does not give (R284, R285). -/
def State.hostRight (s : State) (p pa right : Nat) : Bool :=
  match otherPkg pa, targetOf pa, matTarget pa with
  | none, .hbm _, some t => s.matRight t p 6 right
  | none, .host, _ => true
  | _, _, _ => false

/-- A write by a host link: host memory is written at once; a write of HBM goes to its home, where the channel serves it in
turn (R245, R289). -/
def State.hostWrite (s : State) (link p pa : Nat) (data : List Byte) : State :=
  if !s.hostRight p pa 1 then s.hostAbort link p pa
  else match targetOf pa with
    | .hbm _ => s.issue { engineWrite 0 p pa pa data .store data.length with by_ := .host link }
    | _ => s.storeBytes (.host link) (memKey pa) data

/-- A read by a host link: one that its channel does not serve now waits; a line that fails its checks is answered without
data. -/
def State.hostRead (s : State) (link p pa n : Nat) : State :=
  if !s.hostRight p pa 0 then s.hostAbort link p pa
  else if !s.homeServes pa then s.defer (.hostRead link p pa n)
  else
    let v := s.serveLine pa
    if v.2 then v.1.out [19, link, p, pa, bytesNat (v.1.bytes (memKey pa) n)] else v.1.out [20, link, p, pa]

/-- The host writes into the recovery buffer while the boot ROM waits for an image. -/
def State.recWrite (s : State) (off : Nat) (data : List Byte) : State :=
  if s.recoveryWait ∧ off + data.length ≤ 0x400000 then
    let old := s.recovery ++ List.replicate (off - s.recovery.length) 0
    { s with recovery := old.take off ++ data ++ old.drop (off + data.length) }
  else s

/-- Where BAR 0 of host link 0 maps the recovery buffer. -/
def State.inRecovery (s : State) (link off : Nat) : Bool :=
  s.recoveryWait && decide (link = 0) && decide (0x400000 ≤ off) && decide (off < 0x800000)

/-- Whether a posted write of a host link has not been performed at its home (R245). -/
def State.postedBy (s : State) (link : Nat) : Bool := s.writes.any fun w => decide (w.by_ = .host link) && !w.performed

/-- A host write of 8 bytes through BAR 0: a kick, which comes after the earlier writes of its link (R245), RECGO, the recovery
buffer; at any other offset it has no effect (R308). -/
def State.barWrite (s : State) (link off : Nat) (v : Word) : State :=
  if off < 0x800 ∧ off % 8 = 0 then
    (if s.postedBy link then s.defer (.barWrite link off v) else (s.hostKick (off / 8)).wake)
  else if link = 0 ∧ off = 0x3FF000 then s.recgo v.toNat
  else if s.inRecovery link off then s.recWrite (off - 0x400000) (natBytes v.toNat 8)
  else s

/-- A host read of 8 bytes through BAR 0: CONS and STAT of a queue, the recovery buffer; other offsets read as zero. -/
def State.barRead (s : State) (link off : Nat) : State :=
  let v := if 0x1000 ≤ off ∧ off < 0x3000 ∧ (off % 0x20 = 0x10 ∨ off % 0x20 = 0x18) then (s.w (crbAt (off + 0x1000))).toNat
    else if s.inRecovery link off then bytesNat ((s.recovery.drop (off - 0x400000)).take 8)
    else 0
  s.out [21, link, off, v]

/-- The origin of the poison that a parity error in a tile gives. -/
def State.parityOrg (s : State) (t : Nat) : Word :=
  originWord t 0 slotV 0x23 (match s.regionOfTile t with
    | some r => (s.part (s.region r).part).fcyc
    | none => 0)

/-- A latch: PIN, POUT, AOUT, a feed row. -/
def Dest.isLatch : Dest → Bool
  | .pin | .pout | .aout | .feed _ => true
  | _ => false

/-- A byte of a line with a parity error is poisoned. -/
def Line.spoil (l : Line) (k : Nat) (org : Word) : Line := ⟨l.bits, l.pois ||| (1 <<< k), if l.pois = 0 then org else l.org⟩

/-- A byte of the i-th value on its way in a tile, where that goes to a latch. -/
def State.upsetLatch (s : State) (t i k : Nat) : State :=
  let T := s.tile t
  match T.dels[i]? with
  | some d => if d.dst.isLatch then s.setTile t { T with dels := T.dels.set i { d with line := d.line.spoil k (s.parityOrg t) } } else s
  | none => s

/-- An error comes about: 0 a tile's bank line, 1 a thread's code word, 2 a region's row-store word,
3 a thread's register, 4 an HBM line (unit 1 corrected by its check line, 2 not), 5 an accumulator cell's residue, 6 a byte
of a tile's vector register (64 × register + byte), 7 a copy of a remap table; 8 one bit of a tile's bank line, which a
read corrects; 9 one bit of a slot of the journal ring; 10 and 11 a line of a shadow store as 0 and 8, 12 and 13 one bit of a
code word and of a row-store word; 14 a mask register, or the immediate latch as 8; 15 a byte of a latch (64 × value on its way
+ byte) (R379). -/
def State.upset (s : State) (kind unit key : Nat) : State :=
  match kind with
  | 0 => s.markBank unit key
  | 1 => let T := s.thread unit; s.setThread unit { T with codeUe := addNew key T.codeUe }
  | 2 => let R := s.region unit; s.setRegion unit { R with rowUe := addNew key R.rowUe }
  | 3 => let T := s.thread unit; s.setThread unit { T with regUe := addNew key T.regUe }
  | 4 => { s with hbmErr := tset 0 s.hbmErr key unit }
  | 5 =>
    let T := s.tile unit
    (s.setTile unit { T with vat := { T.vat with resid := addNew key T.vat.resid } }).bumpW (trbAt 0x108) 32 32 1
  | 6 =>
    let T := s.tile unit
    let l := (tget Line.zero T.v (key / 64)).spoil (key % 64) (s.parityOrg unit)
    (s.setTile unit { T with v := tset Line.zero T.v (key / 64) l }).bumpW (trbAt 0x108) 0 32 1
  | 7 => { s with remap := tset 0 s.remap unit (BitVec.ofNat 64 key) }
  | 8 => let T := s.tile unit; s.setTile unit { T with bankCe := addNew key T.bankCe }
  | 9 =>
    let pa := crbAt (0x100000 + 32 * (unit % 16384) + 8 * (key / 64 % 4))
    (s.setW pa (s.w pa ^^^ (1#64 <<< (key % 64)))).journalEnd
  | 10 => s.markShadow unit key
  | 11 => let T := s.tile unit; s.setTile unit { T with shCe := addNew key T.shCe }
  | 12 => let T := s.thread unit; s.setThread unit { T with codeCe := addNew key T.codeCe }
  | 13 => let R := s.region unit; s.setRegion unit { R with rowCe := addNew key R.rowCe }
  | 14 =>
    let T := s.tile unit
    if 1 ≤ key ∧ key ≤ 8 then s.setTile unit { T with kUe := addNew key T.kUe } else s
  | 15 => (s.upsetLatch unit (key / 64) (key % 64)).bumpW (trbAt 0x108) 0 32 1
  | _ => s

/-! ## The agenda of a cycle -/

/-- Take each candidate or leave it, by a free choice (R238: no bound on when; log entry 6). -/
def State.pick (s : State) : List Turn → State × List Turn
  | [] => (s, [])
  | x :: xs =>
    let (k, s1) := s.choose 2
    let (s2, ys) := s1.pick xs
    (s2, if k = 1 then x :: ys else ys)

/-- What may come about in the memory system: replies, performing, acknowledgements, folds. -/
def State.memoryCandidates (s : State) : List Turn :=
  let homes := (s.writes.filter fun w => s.mayPerform w).map fun w => Turn.home w.id
  let replies := s.threads.flatMap fun e => (e.2.loads.filter fun l => l.got.isNone && (l.val.isSome || !l.atomic)).map fun l =>
    Turn.reply e.1 l.id 0
  let takes := s.threads.flatMap fun e =>
    (e.2.loads.filter fun l => l.got.isNone && l.val.isNone && !l.clean).map fun l => Turn.clear e.1 l.id
  let acks := (s.writes.filter fun w => w.performed).map fun w => Turn.ack w.id
  let folds := s.folds.map fun x => Turn.fold x.1 x.2
  takes ++ homes ++ replies ++ acks ++ folds

/-- Held instructions that may go on, and what is sent again or given up. -/
def State.waitTurns (s : State) : List Turn :=
  let held := s.threads.flatMap fun e => match e.2.status with
    | .waiting (.fence _ _ _) => [Turn.fence e.1]
    | .waiting (.seqw _ _ _ _) => [Turn.seqw e.1, Turn.seqwOut e.1]
    | .waiting (.tlwt _ _ _ _) => [Turn.tlwt e.1, Turn.tlwtOut e.1]
    | .waiting (.waitev _ _ _) => [Turn.waitev e.1]
    | .waiting (.condset _) => [Turn.condset e.1]
    | _ => []
  let again := (s.writes.filter fun w => w.retryAt.isSome && !w.performed).map fun w => Turn.resend w.id
  let late := (s.writes.filter fun w => (otherPkg w.pa).isSome && !w.performed && decide (w.issued + Config.tenMs ≤ s.now)).map
    fun w => Turn.giveUp w.id
  held ++ again ++ late

/-- The turns of a partition: its frame engine before its regions. -/
def frameTurns (p : Nat) : List Turn :=
  [.partTick p, .drainlim p, .killYield p, .ckptYield p, .heatYield p, .restore p, .frame p, .arcOut p]

/-- The run-ahead thread of a region: its instruction, or the wait it stands in. -/
def State.rauTurns (s : State) (r : Nat) : List Turn :=
  let t := rauThread r
  match (s.thread t).status with
  | .running => [.thread t]
  | .waiting (.iterwt _ _) => [.iterwt t]
  | _ => []

/-- The turns of a partition's regions, channels and transfers. A fault of a region or of its run-ahead thread comes before
the weir and before a retirement in its cycle (R19, R334, R352). -/
def State.fabricTurns (s : State) (p : Nat) : List Turn :=
  let rs := s.graphRegions p
  (rs.flatMap fun r => [Turn.popCond r, .regionTick r, .regionSelect r]) ++ (s.channelsOf p).map Turn.channel ++ [.comm p] ++
    rs.map Turn.regionEnd ++ rs.map Turn.firingDone ++ rs.flatMap s.rauTurns ++ [.weir p, .retire p]

/-- Partitions with a graph, running or swapped out. -/
def State.liveParts (s : State) : List Nat :=
  (s.parts.filter fun e => e.2.graph.isSome || e.2.swapGraph.isSome).map (·.1)

/-- The next place after `last` in a ring of n places that satisfies a test. -/
def nextAfter (n last : Nat) (ok : Nat → Bool) : Option Nat :=
  ((List.range n).map fun k => (last + 1 + k) % n).find? ok

/-- A thread that can issue its next instruction in this cycle: one that is held, or that waits out a latency, is passed
over (R184). -/
def State.isReady (s : State) (t : Nat) : Bool :=
  let T := s.thread t
  s.mayIssue T && match T.nextInstr s.now with
    | .wait => false
    | .freeze _ => true
    | .run i => !s.wouldHold t i

/-- The eight contexts of handler core k take turns (R34). -/
def State.coreTurn (s : State) (k : Nat) : State × List Turn :=
  match nextAfter 8 (tget 7 s.rr k) fun c =>
      (s.thread (ctxThread (k / 4) (8 * (k % 4) + c))).stepBy.isNone && s.isReady (ctxThread (k / 4) (8 * (k % 4) + c)) with
  | some c => ({ s with rr := tset 7 s.rr k c }, [.thread (ctxThread (k / 4) (8 * (k % 4) + c))])
  | none => (s, [])

/-- Every listed context has its core looked at. -/
def State.busyCores (s : State) : List Nat :=
  (s.threads.filter fun e => isCtx e.1).foldl (fun l e => addNew (threadDie e.1 * 4 + (e.1 - Config.ctxBase) % 32 / 8) l) []

/-- The control threads of the cycle beside the run-ahead threads: each cellar core its own, contexts by core; also those
that have only replies to take. -/
def State.threadTurns (s : State) : State × List Turn :=
  let own := (s.threads.filter fun e => decide (e.1 < Config.ctxBase) && decide (e.2.status = .running)).map fun e => Turn.thread e.1
  let steps := (s.threads.filter fun e => isCtx e.1 && decide (e.2.status = .running) && e.2.stepBy.isSome).map fun e =>
    Turn.thread e.1
  let takes := (s.threads.filter fun e => isCtx e.1 && decide (e.2.status = .running) && e.2.stepBy.isNone &&
    e.2.loads.any fun l => l.got.isSome).map fun e => Turn.take e.1
  let cores := s.busyCores.foldl (fun (a : State × List Turn) k =>
    let r := a.1.coreTurn k
    (r.1, a.2 ++ r.2)) (s, [])
  (cores.1, own ++ steps ++ takes ++ cores.2)

/-- A copy engine serves its chains round-robin by entry (R304); its counter in `rr` stands at 64 + engine. -/
def State.engineTurn (s : State) (e : Nat) : State × List Turn :=
  let ready := fun (p : Nat) =>
    let C := s.chain (16 * p + e)
    decide (C.entries ≠ []) && !C.halted && !C.frozen
  if s.engineBusy e then (s, [])
  else match nextAfter 16 (tget 15 s.rr (64 + e)) ready with
    | some p => ({ s with rr := tset 15 s.rr (64 + e) p }, [.copyStart p e])
    | none => (s, [])

def State.copyTurns (s : State) : State × List Turn :=
  if s.retention then (s, []) else
  let done := (s.chains.filter fun e => e.2.busy).map fun e => Turn.copyDone (e.1 / 16) (e.1 % 16)
  let es := s.chains.foldl (fun l e => if e.2.entries = [] then l else addNew (e.1 % 16) l) []
  let starts := es.foldl (fun (a : State × List Turn) e =>
    let r := a.1.engineTurn e
    (r.1, a.2 ++ r.2)) (s, [])
  (starts.1, done ++ starts.2)

/-- The fault queue: latched records in serial order, those of whole partitions first; dispatchers; the deadline. -/
def State.faultTurns (s : State) : List Turn :=
  let latched := s.freezes.filter fun (f : Freeze) => f.latched
  let order := (latched.filter fun f => f.unit.isPartition) ++ latched.filter fun f => !f.unit.isPartition
  let grants := order.map fun f => Turn.grant f.serial
  let full := (latched.filter fun f => s.refusedFull f).map fun f => Turn.poolFull f.serial
  let spawns := if s.freezes = [] ∨ s.retention then [] else (List.range 4).map Turn.spawn
  let late := (s.freezes.filter fun (f : Freeze) => !f.spent && !f.reported && decide (f.at_ + Config.tenMs ≤ s.now)).map
    fun f => Turn.report f.serial
  grants ++ full ++ spawns ++ late

/-- Timers and services of the hub. -/
def State.hubTurns (s : State) : List Turn :=
  let dogs := (s.watchdog.filter fun e => decide (e.2 ≤ s.now)).map fun e => Turn.watchdog e.1
  let wins := (s.windows.filter fun e => match e.2.deadline with
    | some d => decide (d ≤ s.now)
    | none => false).map fun e => Turn.windowOut (e.1 / 8) (e.1 % 8)
  let tests := (s.chans.filter fun e => decide (e.2.test ≠ 0)).map fun e => Turn.testDone e.1
  let bad := s.ports.flatMap fun e => (e.2.errs.filter fun x => s.laneBad e.1 x.1).map fun x => Turn.repair e.1 x.1
  let back := (s.ports.filter fun e => match e.2.repair with
    | some (_, at_) => decide (at_ + 4400 ≤ s.now)
    | none => false).map fun e => Turn.retrained e.1
  dogs ++ [.takeover] ++ s.serviceOrder.map (fun t => Turn.service t.id) ++ wins ++ tests ++ bad ++ back ++
    (if s.now % 1024 = 0 then [.refill] else [])

/-- The active core's thread stands in WAITEV, and event 7 is not what it waits out. -/
def State.cellarIdle (s : State) : Bool :=
  match (s.thread (s.wf (crbAt 0) 0 1)).status with
  | .waiting (.waitev _ mask u) => !(mask.testBit 7 && decide (u.toNat ≤ s.now))
  | _ => false

/-- The cellar enters and leaves power states; a deeper one is entered as soon as its condition holds (R328). -/
def State.powerTurns (s : State) : List Turn :=
  if s.cellarIdle then (if s.powerState < s.enterPower.powerState then [.event .powerStateEnter] else [])
  else if s.powerState = 0 then [] else [.event .powerStateWake]

/-- Inputs that are due, in order. -/
def State.dueInputs (s : State) : List Turn := (s.inbox.filter fun e => decide (e.1 ≤ s.now)).map (·.2)

/-- Whether an instant before a change may still be read: 1,024 cycles back from now, or from the issue of a load that
still waits (R238). -/
def State.stillRead (s : State) (h : HistEntry) : Bool :=
  decide (s.now + 1 ≤ h.at_ + 1024) || s.threads.any fun e => e.2.loads.any fun l => l.got.isNone && decide (l.lo < h.at_)

/-- Edge events of the partitions that came in the last cycle are pending (R207). -/
def ripen (ps : Tab Part) : Tab Part :=
  ps.foldl (fun m e =>
    if e.2.fresh = 0 then m else tset Part.zero m e.1 { e.2 with events := Nat.lor e.2.events e.2.fresh, fresh := 0 }) ps

/-- A new cycle begins: inputs, then memory, partitions, threads, engines, faults, timers. Without power only a power-on
reset is heard. -/
def State.newCycle (s0 : State) : State :=
  let s := { s0 with
    now := s0.now + 1
    inbox := s0.inbox.filter fun e => decide (s0.now + 1 < e.1)
    hist := s0.hist.filter s0.stillRead
    events := Nat.lor s0.events s0.fresh
    fresh := 0
    kicked := []
    parts := ripen s0.parts }
  let ins := { s0 with now := s0.now + 1 }.dueInputs
  if !s.powered then { s with agenda := ins.filter fun x => decide (x = .event .powerOnReset) }
  else
    let m := s.pick s.memoryCandidates
    let ps := s.liveParts
    let th := m.1.threadTurns
    let cp := th.1.copyTurns
    let turns := ins ++ m.2 ++ s.waitTurns ++ ps.flatMap frameTurns ++ ps.flatMap s.fabricTurns ++ th.2 ++ cp.2 ++
      s.faultTurns ++ s.hubTurns ++ s.powerTurns
    { cp.1 with agenda := turns }

/-! ## Turns that run no instruction -/

/-- What a turn of the hub does. -/
def State.hubTurn (s : State) : Turn → State
  | .regionTick r => s.regionTick r
  | .regionSelect r => s.regionSelect r
  | .regionEnd r => s.regionTokens r
  | .partTick p => s.partTick p
  | .channel c => s.issueRecord c
  | .reply t n ext => s.memoryReply t n (BitVec.ofNat 128 ext)
  | .clear t n => s.clearLoad t n
  | .take t => s.takeReplies t
  | .home id => s.homePerform id
  | .ack id => s.writeAck id false 0
  | .fence t => s.fenceComplete t
  | .seqw t => s.seqwRelease t
  | .seqwOut t => s.seqwTimeout t
  | .waitev t => s.waitevRelease t
  | .tlwt t => s.tlwtRelease t
  | .tlwtOut t => s.tlwtTimeout t
  | .condset t => s.condsetRelease t
  | .iterwt t => s.iterwtRelease t
  | .fold p n => s.foldComplete p n
  | .popCond r => s.popCondition r
  | .firingDone r => s.firingDone r
  | .weir p => s.weirFire p
  | .comm p => s.commStep p
  | .retire p => s.retirement p
  | .frame p => s.frameStart p
  | .arcOut p => s.arcTimeout p
  | .drainlim p => s.drainlim p
  | .killYield p => s.preemptKill p
  | .ckptYield p => s.checkpoint p
  | .heatYield p => s.thermalFreeze p
  | .restore p => s.restoreNow p
  | .windowOut p n => s.windowDeadline p n
  | .testDone c => s.testDone c
  | .refresh c => s.refreshDynamic c
  | .watchdog c => s.watchdogExpire c
  | .takeover => s.takeover
  | .spawn d => s.spawnHandler d
  | .grant n => s.grantRecord n
  | .poolFull n => s.poolIsFull n
  | .report n => s.deadlineReport n
  | .copyStart p e => s.copyStart p e
  | .copyDone p e => s.copyDone p e
  | .resend id => s.sendAgain id
  | .giveUp id => s.giveUp id .late
  | .service id => s.spawnService id
  | .repair i l => s.repairStart i l
  | .retrained i => s.repairDone i
  | .refill => (List.range 16).foldl State.gatewayRefill s
  | .hostWrite l p pa d => s.hostWrite l p pa d
  | .hostRead l p pa n => s.hostRead l p pa n
  | .recWrite off d => s.recWrite off d
  | .barWrite l off v => s.barWrite l off v
  | .barRead l off => s.barRead l off
  | .upset k u x => s.upset k u x
  | .line l => s.wake.lineArrive l
  | .arcRec l b => s.wake.arcRecord l b
  | .credit l => s.wake.creditArrive l
  | .request l => s.wake.recordArrive l
  | .atomic l q sz op => s.wake.atomicArrive l q sz op
  | .block b => s.wake.runoffArrive b
  | .event _ | .thread _ | .slot _ _ _ _ _ => s

/-! ## Placing one word (log entry 22) -/

/-- The thread that a control word is placed in: a run-ahead unit, a handler context, or cellar-A, by the kinds that may
run it (R185). -/
def homeThread : Instr → Nat × Kind
  | .condset _ | .iterwt _ _ | .svc _ => (Config.rauBase, .runAhead)
  | .hend | .finsp _ _ _ | .fpatch _ _ _ | .fres _ | .fkill _ _ | .fstep _ _ | .fclrp _ _ | .hcapq _ _ | .hcapdrop _ =>
    (Config.ctxBase, .handler)
  | _ => (0, .cellar)

/-- A word stands at a thread's PC, the thread runs, and its turn is next. -/
def State.placeCode (s : State) (t : Nat) (k : Kind) (w : Nat) : State :=
  let T := s.thread t
  let s1 := s.setThread t { T with
    kind := k
    takeover := false
    status := .running
    priv := if k = .cellar then 3 else if k = .handler then 2 else T.priv
    code := tset guardWord T.code T.pc.toNat (BitVec.ofNat 80 w)
    codeLen := max T.codeLen (T.pc.toNat + 1)
    codeUe := []
    codeCe := []
    regUe := []
    loads := []
    ready := []
    nextAt := 0
    divAt := 0
    held := false
    stepBy := none }
  let s2 := if k = .cellar then s1 else s1.setWf (trbAt 0) 2 4 coldRun
  { s2 with agenda := .thread t :: s2.agenda }

/-- A word stands in the row store of region 0 at row 0, and the turn of one of its slots in tile 0 is next. -/
def State.placeRow (s : State) (w which : Nat) : State :=
  let R := s.region 0
  let s1 := s.setRegion 0 { R with
    placed := true
    frozen := false
    rows := tset 0 R.rows 0 (BitVec.ofNat 80 w)
    rowUe := [] }
  { s1 with agenda := .slot 0 0 0 0 which :: s1.agenda }

/-- The first slot that a word fills. -/
def firstSlot (w : Nat) : Nat := ((slotsOfWord false (BitVec.ofNat 80 w)).head?).getD 0

/-- A word where the next step fetches. -/
def State.placeWord (s : State) (w : Nat) : State :=
  let v := w % 2 ^ 80
  match decode v with
  | .ok (.ctl i) => s.placeCode (homeThread i).1 (homeThread i).2 v
  | .ok (.ft ..) | .ok (.fl ..) => s.placeRow v (firstSlot v)
  | _ => if 1 ≤ classOf v ∧ classOf v ≤ 7 then s.placeRow v 0 else s.placeCode 0 .cellar v

end Sys2Proof.Machine
end

