-- ==== Sys2Proof/Machine/Step.lean ====
section
/-! DEFINITION. One step of the package: the turn at the head of the agenda, or, where the agenda is empty, a new cycle
(log entry 4). -/

namespace Sys2Proof.Machine

/-- One step. -/
def step (s : State) : Host.Outcome State Fault Refusal :=
  match s.agenda with
  | [] => .next s.newCycle
  | .event i :: xs => exec i { s with agenda := xs, cur := .hub }
  | .thread t :: xs => { s with agenda := xs }.threadTurn t
  | .slot r t row iter which :: xs => { s with agenda := xs }.slotTurn r t row iter which
  | x :: xs => .next ({ s with agenda := xs, cur := .hub }.hubTurn x)

/-- `s` with a word where the next step fetches its instruction. -/
def State.withFetchWord (s : State) (_nbits w : Nat) : State := s.placeWord w

end Sys2Proof.Machine
end

