-- ==== Sys2Proof/Safety.lean ====
section
/-! DEFINITION. What the claims ask of a state and of a step, and the tables that give the results of instructions in
the spec's words. -/

namespace Sys2Proof.Machine

/-- Memory keeps its canonical form. -/
def State.memOk (s : State) : Prop := Memory.wf s.mem = true

/-- The step answers a next state: no fault and no refusal. -/
def State.goesOn (s : State) : Prop := ∃ t, step s = .next t

/-! ## Control threads -/

/-- `T'` is `T` after an instruction that completed in cycle `now` and may be followed one cycle later, with its other
state as it was but for registers, their tags and the cycles they are usable from. -/
structure Went (T T' : Thread) (now : Nat) : Prop where
  pc : T'.pc = T.pc + 1
  start : T'.nextAt = now + 1
  rest : { T' with pc := T.pc, nextAt := T.nextAt, regs := T.regs, h := T.h, htag := T.htag, ready := T.ready } = T

/-- Register D holds a value, usable from cycle `at_`; s0 stays zero; no other register changes, and a write of an h
register clears its tag (R33, R41, R184, R186). -/
structure Holds (T T' : Thread) (d : Nat) (v : Word) (at_ : Nat) : Prop where
  dest : d ≠ 0 → T'.getR d = v
  zero : T'.getR 0 = 0
  others : ∀ r, r ≠ d → T'.getR r = T.getR r
  tags : ∀ r, 32 ≤ r → T'.tag r = if r = d then false else T.tag r
  usable : tget 0 T'.ready d = at_

/-- An instruction that writes D and goes on. -/
def Wrote (T T' : Thread) (now d lat : Nat) (v : Word) : Prop := Went T T' now ∧ Holds T T' d v (now + lat)

/-- The results of the C-ALU, C-IMM and C-WIDE instructions that only write D (R188, R190, R191): D, the latency of
R184 and the value, from the registers `g` that the instruction reads. -/
def aluResult (g : BitVec 6 → Word) : Instr → Option (BitVec 6 × Nat × Word)
  | .add d a b => some (d, 1, g a + g b)
  | .sub d a b => some (d, 1, g a - g b)
  | .mul d a b => some (d, 3, g a * g b)
  | .mulh d a b => some (d, 3, BitVec.ofInt 64 ((g a).toInt * (g b).toInt / 2 ^ 64))
  | .mulhu d a b => some (d, 3, BitVec.ofNat 64 ((g a).toNat * (g b).toNat / 2 ^ 64))
  | .and d a b => some (d, 1, g a &&& g b)
  | .or d a b => some (d, 1, g a ||| g b)
  | .xor d a b => some (d, 1, g a ^^^ g b)
  | .andn d a b => some (d, 1, g a &&& ~~~ g b)
  | .shl d a b => some (d, 1, g a <<< ((g b).toNat % 64))
  | .shr d a b => some (d, 1, g a >>> ((g b).toNat % 64))
  | .sar d a b => some (d, 1, (g a).sshiftRight ((g b).toNat % 64))
  | .rotl d a b => some (d, 1, (g a).rotateLeft ((g b).toNat % 64))
  | .min d a b => some (d, 1, if (g a).toInt ≤ (g b).toInt then g a else g b)
  | .max d a b => some (d, 1, if (g b).toInt ≤ (g a).toInt then g a else g b)
  | .minu d a b => some (d, 1, if (g a).toNat ≤ (g b).toNat then g a else g b)
  | .maxu d a b => some (d, 1, if (g b).toNat ≤ (g a).toNat then g a else g b)
  | .clz d a => some (d, 1, clz64 (g a))
  | .ctz d a => some (d, 1, ctz64 (g a))
  | .popc d a => some (d, 1, popc64 (g a))
  | .bswap d a => some (d, 1, BitVec.ofNat 64 (bytesNat (natBytes (g a).toNat 8).reverse))
  | .sext d a b => some (d, 1, BitVec.ofInt 64 (intOf true ((g b).toNat % 64 + 1) (g a).toNat))
  | .zext d a b => some (d, 1, BitVec.ofNat 64 ((g a).toNat % 2 ^ ((g b).toNat % 64 + 1)))
  | .cmpeq d a b => some (d, 1, if g a = g b then 1 else 0)
  | .cmpne d a b => some (d, 1, if g a ≠ g b then 1 else 0)
  | .cmplt d a b => some (d, 1, if (g a).toInt < (g b).toInt then 1 else 0)
  | .cmpltu d a b => some (d, 1, if (g a).toNat < (g b).toNat then 1 else 0)
  | .sel d a b => some (d, 1, if g d ≠ 0 then g a else g b)
  | .addi d a i => some (d, 1, g a + i.signExtend 64)
  | .muli d a i => some (d, 3, g a * i.signExtend 64)
  | .andi d a i => some (d, 1, g a &&& i.signExtend 64)
  | .ori d a i => some (d, 1, g a ||| i.signExtend 64)
  | .xori d a i => some (d, 1, g a ^^^ i.signExtend 64)
  | .shli d a i => some (d, 1, g a <<< i.toNat)
  | .shri d a i => some (d, 1, g a >>> i.toNat)
  | .sari d a i => some (d, 1, (g a).sshiftRight i.toNat)
  | .rotli d a i => some (d, 1, rotl64 (g a) i.toNat)
  | .cmpeqi d a i => some (d, 1, if g a = i.signExtend 64 then 1 else 0)
  | .cmpnei d a i => some (d, 1, if g a ≠ i.signExtend 64 then 1 else 0)
  | .cmplti d a i => some (d, 1, if (g a).toInt < (i.signExtend 64).toInt then 1 else 0)
  | .cmpltui d a i => some (d, 1, if (g a).toNat < (i.signExtend 64).toNat then 1 else 0)
  | .mini d a i => some (d, 1, if (g a).toInt ≤ (i.signExtend 64).toInt then g a else i.signExtend 64)
  | .maxi d a i => some (d, 1, if (i.signExtend 64).toInt ≤ (g a).toInt then g a else i.signExtend 64)
  | .limm d i => some (d, 1, i.signExtend 64)
  | .limmz d i => some (d, 1, i.setWidth 64)
  | .limmh d i => some (d, 1, BitVec.ofNat 64 ((g d).toNat % 2 ^ 48 + 2 ^ 48 * (i.toNat % 2 ^ 16)))
  | _ => none

/-- The results of the divisions with a divisor that is not zero (R189). -/
def divResult (g : BitVec 6 → Word) : Instr → Option (BitVec 6 × BitVec 6 × Word)
  | .div d a b => some (d, b, BitVec.ofInt 64 ((g a).toInt.tdiv (g b).toInt))
  | .divu d a b => some (d, b, BitVec.ofNat 64 ((g a).toNat / (g b).toNat))
  | .rem d a b => some (d, b, BitVec.ofInt 64 ((g a).toInt.tmod (g b).toInt))
  | .remu d a b => some (d, b, BitVec.ofNat 64 ((g a).toNat % (g b).toNat))
  | _ => none

/-- Whether a branch of C-BR is taken, and its offset (R192). -/
def branchTaken (g : BitVec 6 → Word) : Instr → Option (Bool × BitVec 32)
  | .beq a b off => some (decide (g a = g b), off)
  | .bne a b off => some (decide (g a ≠ g b), off)
  | .blt a b off => some (decide ((g a).toInt < (g b).toInt), off)
  | .bge a b off => some (decide ((g b).toInt ≤ (g a).toInt), off)
  | .bltu a b off => some (decide ((g a).toNat < (g b).toNat), off)
  | .bgeu a b off => some (decide ((g b).toNat ≤ (g a).toNat), off)
  | .bz a off => some (decide (g a = 0), off)
  | .bnz a off => some (decide (g a ≠ 0), off)
  | .jmp off => some (true, off)
  | _ => none

/-- The kinds of thread that may run an instruction that not every kind may run (R185). -/
def kindsOf : Instr → Option (List Kind)
  | .st _ | .amo _ | .cas _ | .enq _ | .seqw _ => some [.service, .handler, .cellar]
  | .waitev _ _ _ | .tlsig _ _ _ | .depdec _ _ | .publ _ _ | .snap _ _ | .unsnap _ _ | .shpfence _ _ =>
    some [.service, .handler, .cellar]
  | .svc _ => some [.service, .runAhead]
  | .halt => some [.service, .runAhead, .cellar]
  | .sluice _ _ _ => some [.service, .cellar]
  | .condset _ | .iterwt _ _ => some [.runAhead]
  | .hend | .finsp _ _ _ | .fpatch _ _ _ | .fres _ | .fkill _ _ | .fstep _ _ | .fclrp _ _ | .hcapq _ _ | .hcapdrop _ =>
    some [.handler]
  | .tlset _ _ | .depset _ _ | .launch _ _ | .pagepl _ _ _ | .kickscan _ _ | .kickscanClear _ _ | .jrnl _ _ _ _
  | .wdog _ => some [.cellar]
  | _ => none

/-- The registers of a thread as an instruction reads them. -/
def Thread.reads (T : Thread) (r : BitVec 6) : Word := T.getR r.toNat

/-- The scope at which an instruction releases is clear: nothing that the release waits for is on its way, and no denial
is to be heard (R195, R237, R285). -/
def State.clear (s : State) (t scope : Nat) : Prop :=
  scope = 0 ∨ ((s.thread t).hears scope = none ∧ s.quiet (.thread t) scope = true)

/-- What page-migration counting leaves before an access: it does not count for a cellar thread (R288). -/
def State.counted (s : State) (t : Nat) (ea : Word) (pa : Nat) : State :=
  if (s.thread t).asCellar then s else s.countMig (s.thread t).part ea.toNat pa

/-- The byte at every address outside a range is as before. -/
def sameOutside (s u : State) (a n : Nat) : Prop := ∀ c, (c < a ∨ a + n ≤ c) → u.byte c = s.byte c

/-- `u` is `s` but for thread `t`, which is `T`. -/
def State.onlyThread (s u : State) (t : Nat) (T : Thread) : Prop :=
  u.thread t = T ∧ (∀ k, k ≠ t → u.thread k = s.thread k) ∧ { u with threads := s.threads } = s

/-- A thread that goes on with nothing written. -/
def Thread.on (T : Thread) (now : Nat) : Thread := { T with pc := T.pc + 1, nextAt := now + 1 }

/-- A thread whose only outstanding load has had its reply: D takes the value, sign- or zero-extended, D + 1 the upper half
of 16 bytes; an acquire bounds the instants of later loads (R183, R195, R238). -/
def Thread.replied (T : Thread) (l : PLoad) (v : BitVec 128) (now : Nat) : Thread :=
  let low := if l.signed then BitVec.ofInt 64 (intOf true (8 * 2 ^ l.sz) v.toNat) else v.setWidth 64
  let T1 := if l.sz = 4 then (T.setR l.d low).setR (l.d + 1) (BitVec.ofNat 64 (v.toNat / 2 ^ 64)) else T.setR l.d low
  { T1 with loads := [], acqAt := if l.acq then now else T.acqAt }

/-- A store that a rule forbids: the storing thread freezes with PROTECT and stores nothing; a store of the host or the
hub is dropped (R277). -/
def State.storeRefused (s : State) (pa : Nat) (o : Host.Outcome State Fault Refusal) : Prop :=
  o = .next (match s.cur with
    | .thread t => s.freezeThread t 0x06 (BitVec.ofNat 64 pa)
    | _ => s)

/-! ## Tiles -/

/-- `v` is `s` but for tile `u`, which is `T`. -/
def State.onlyTile (s v : State) (u : Nat) (T : Tile) : Prop :=
  v.tile u = T ∧ (∀ k, k ≠ u → v.tile k = s.tile k) ∧ (∀ k, v.region k = s.region k) ∧
    { v with tiles := s.tiles, regions := s.regions } = s

/-- `v` is `s` but for the tiles listed, which are as listed, and the tokens that region `r` receives. -/
def State.fabric (s v : State) (r : Nat) (ch : List (Nat × Tile)) (toks : List Token) : Prop :=
  (∀ e ∈ ch, v.tile e.1 = e.2) ∧ (∀ k, (∀ e ∈ ch, e.1 ≠ k) → v.tile k = s.tile k) ∧
    v.region r = { s.region r with tokens := (s.region r).tokens ++ toks } ∧ (∀ k, k ≠ r → v.region k = s.region k) ∧
    { v with tiles := s.tiles, regions := s.regions } = s

/-- A vector result holds in element i, of width w, the pattern `f i`; none where the element is not written. -/
def VOut.holds (x : VOut) (w n : Nat) (f : Nat → Option Nat) : Prop :=
  x.w = w ∧ x.els.length = n ∧ ∀ i, i < n → x.els[i]?.map (Option.map Prod.fst) = some (f i)

/-- The poison of element i of a vector result; false where the element is not written. -/
def VOut.poisoned (x : VOut) (i : Nat) : Bool :=
  match x.els[i]? with
  | some (some e) => e.2
  | _ => false

/-- A V-slot instruction that only delivers vector results: from each station of a list, the result `out st` after
`lat st` cycles (R137, R139). -/
def State.delivers (s v : State) (u : Nat) (c : FabCtx) (o : VArgs) (sts : List Nat) (lat : Nat → Nat)
    (out : Nat → VOut) : Prop :=
  s.onlyTile v u (sts.foldl (fun T st => T.emit c st o.vd.toNat o.x (lat st) (out st)) (s.tile u))

/-- The element-wise V-slot instructions (R144, R145, R157): operands, element types accepted (floating, integer, any,
32-bit), latency, number of source operands (3: the old element of VD as well), and the pattern of element j in station st
of type t from those of its sources; an exact floating result is rounded into the type (R97). -/
def elementwise (T : Tile) (c : FabCtx) : Instr → Option (VArgs × (EType → Bool) × (EType → Nat) × Nat ×
    (Nat → EType → Nat → Nat → Nat → Nat → Nat))
  | .vadd o => some (o, accFlt, latFlt, 2, fun st t j a b _ =>
      T.rnd c st j t (.exact (FVal.add (T.rm st) (t.val a) (t.val b))))
  | .vsub o => some (o, accFlt, latFlt, 2, fun st t j a b _ =>
      T.rnd c st j t (.exact (FVal.add (T.rm st) (t.val a) (t.val b).neg)))
  | .vmul o => some (o, accFlt, latFlt, 2, fun st t j a b _ => T.rnd c st j t (.exact (FVal.mul (t.val a) (t.val b))))
  | .vmin o => some (o, accFlt, latFlt, 2, fun st t j a b _ =>
      T.rnd c st j t (.exact (FVal.minNum (t.val a) (t.val b))))
  | .vmax o => some (o, accFlt, latFlt, 2, fun st t j a b _ =>
      T.rnd c st j t (.exact (FVal.maxNum (t.val a) (t.val b))))
  | .vdiv o => some (o, accFlt, fun _ => 12, 2, fun st t j a b _ => T.rnd c st j t (FVal.div (t.val a) (t.val b)))
  | .vfma o => some (o, accFlt, latFlt, 3, fun st t j a b d =>
      T.rnd c st j t (.exact (FVal.add (T.rm st) (FVal.mul (t.val a) (t.val b)) (t.val d))))
  | .vfms o => some (o, accFlt, latFlt, 3, fun st t j a b d =>
      T.rnd c st j t (.exact (FVal.add (T.rm st) (FVal.mul (t.val a) (t.val b)) (t.val d).neg)))
  | .vfnma o => some (o, accFlt, latFlt, 3, fun st t j a b d =>
      T.rnd c st j t (.exact (FVal.add (T.rm st) (FVal.mul (t.val a) (t.val b)).neg (t.val d))))
  | .vabs o => some (o, accFlt, latFlt, 1, fun st t j a _ _ => T.rnd c st j t (.exact (t.val a).abs))
  | .vneg o => some (o, accFlt, latFlt, 1, fun st t j a _ _ => T.rnd c st j t (.exact (t.val a).neg))
  | .vrcp o => some (o, accFlt, fun _ => 8, 1, fun st t j a _ _ =>
      T.rnd c st j t (FVal.div (.fin false 1 0) (t.val a)))
  | .vrsq o => some (o, accFlt, fun _ => 8, 1, fun st t j a _ _ => T.rnd c st j t (FVal.rsqrt (t.val a)))
  | .vsqrt o => some (o, accFlt, fun _ => 12, 1, fun st t j a _ _ => T.rnd c st j t (FVal.sqrt (t.val a)))
  | .vexp2 o => some (o, accFlt, fun _ => 8, 1, fun st t j a _ _ => T.rnd c st j t (FVal.exp2 (t.val a)))
  | .vlog2 o => some (o, accFlt, fun _ => 8, 1, fun st t j a _ _ => T.rnd c st j t (FVal.log2 (t.val a)))
  | .viadd o => some (o, accInt, fun _ => 2, 2, fun st t _ a b _ =>
      fitInt t.signed (T.sat st) t.w (t.int a + t.int b))
  | .visub o => some (o, accInt, fun _ => 2, 2, fun st t _ a b _ =>
      fitInt t.signed (T.sat st) t.w (t.int a - t.int b))
  | .vimul o => some (o, accInt, fun _ => 2, 2, fun st t _ a b _ =>
      fitInt t.signed (T.sat st) t.w (t.int a * t.int b))
  | .vimin o => some (o, accInt, fun _ => 2, 2, fun st t _ a b _ =>
      fitInt t.signed (T.sat st) t.w (min (t.int a) (t.int b)))
  | .vimax o => some (o, accInt, fun _ => 2, 2, fun st t _ a b _ =>
      fitInt t.signed (T.sat st) t.w (max (t.int a) (t.int b)))
  | .vimad o => some (o, accInt, fun _ => 2, 3, fun st t _ a b d =>
      fitInt t.signed (T.sat st) t.w (t.int a * t.int b + t.int d))
  | .vand o => some (o, accAny, fun _ => 2, 2, fun _ t _ a b _ => t.clean (Nat.land (t.clean a) (t.clean b)))
  | .vor o => some (o, accAny, fun _ => 2, 2, fun _ t _ a b _ => t.clean (Nat.lor (t.clean a) (t.clean b)))
  | .vxor o => some (o, accAny, fun _ => 2, 2, fun _ t _ a b _ => t.clean (Nat.xor (t.clean a) (t.clean b)))
  | .vnot o => some (o, accAny, fun _ => 2, 1, fun _ t _ a _ _ => t.clean (2 ^ t.w - 1 - t.clean a))
  | .vshl o => some (o, accInt, fun _ => 2, 2, fun _ t _ a b _ =>
      t.clean (if t.w ≤ t.clean b then 0 else t.clean a * 2 ^ t.clean b % 2 ^ t.w))
  | .vshr o => some (o, accInt, fun _ => 2, 2, fun _ t _ a b _ =>
      t.clean (if t.w ≤ t.clean b then 0 else t.clean a / 2 ^ t.clean b))
  | .vsar o => some (o, accInt, fun _ => 2, 2, fun _ t _ a b _ =>
      t.clean (patOf t.w (intOf true t.w (t.clean a) / 2 ^ min (t.clean b) t.w)))
  | .vclz o => some (o, accInt, fun _ => 2, 1, fun _ t _ a _ _ => t.clean (t.w - bitLen (t.clean a % 2 ^ t.w)))
  | .vpopc o => some (o, accInt, fun _ => 2, 1, fun _ t _ a _ _ => t.clean (popCount t.w (t.clean a)))
  | .vrng o => some (o, accW32, fun _ => 6, 2, fun _ _ _ a b _ => plohan a b T.key0 T.key1)
  | _ => none

/-- The operands that an element-wise instruction with n sources reads poison from. -/
def sourcePoison (a b d : Line) (w n i : Nat) : Bool :=
  a.epois w i || (decide (2 ≤ n) && b.epois w i) || (decide (3 ≤ n) && d.epois w i)

/-- The comparisons and mask operations (R146, R148): operands, and the value written to mask register VD from the masks
`k`, element mask `m` and the order of elements `cmp`. -/
def maskResult (n : Nat) (k : Nat → Nat) (m : Nat → Bool) (cmp : Nat → Option Ordering) : Instr → Option (VArgs × Nat)
  | .vcmpeq o => some (o, bitsFrom (fun i => m i && cmp i == some .eq) n)
  | .vcmpne o => some (o, bitsFrom (fun i => m i && cmp i != some .eq) n)
  | .vcmplt o => some (o, bitsFrom (fun i => m i && cmp i == some .lt) n)
  | .vcmple o => some (o, bitsFrom (fun i => m i && (cmp i == some .lt || cmp i == some .eq)) n)
  | .vkand o => some (o, Nat.land (k o.va.toNat) (k (o.vb.toNat % 8)) % 2 ^ n)
  | .vkor o => some (o, Nat.lor (k o.va.toNat) (k (o.vb.toNat % 8)) % 2 ^ n)
  | .vknot o => some (o, (2 ^ 64 - 1 - k o.va.toNat) % 2 ^ n)
  | .vkmov o => if o.x then none else some (o, k o.va.toNat % 2 ^ n)
  | _ => none

/-- The instructions that move elements (R147, R152, R156): operands, element width and count of the result, and the
pattern of element i from the patterns `a` and `b` of the operands; `m` is the element mask, `s` saturation. -/
def moved (t : EType) (s : Bool) (m : Nat → Bool) (a b : Nat → Nat) : Instr → Option (VArgs × Nat × Nat × Nat × (Nat → Option Nat))
  | .vpack o => if accPack t then some (o, 4, t.w / 2, 2 * t.n, fun i => if m i then
      some (fitInt t.signed s (t.w / 2) (t.int (if i < t.n then a i else b (i - t.n)))) else none) else none
  | .vunpk o => if accUnpk t then some (o, 4, 2 * t.w, t.n / 2, fun i => if m i then
      some (patOf (2 * t.w) (t.int (a (i + o.x.toNat * (t.n / 2))))) else none) else none
  | .vperm o => some (o, 3, t.w, t.n, fun i => if m i then
      some (if o.x then (if b i < t.n then t.clean (a (b i)) else 0) else t.clean (a (b i % t.n))) else none)
  | .vbcst o => some (o, 2, t.w, t.n, fun i => if m i then
      some (t.clean (a ((o.vb.toNat + 16 * o.x.toNat) % t.n))) else none)
  | .vrot o => some (o, 2, t.w, t.n, fun i => if m i then
      some (if o.x then (if i + b 0 < t.n then t.clean (a (i + b 0)) else 0) else t.clean (a ((i + b 0) % t.n))) else none)
  | .vmov o => some (o, 2, t.w, t.n, fun i => if m i then some (t.clean (a i)) else none)
  | _ => none

/-- A vat takes in a column without fault (R125, R133, R135): FCC steps; a FIRST over poison is a vat sink; a bubble column
is counted; else every cell holds its old value (none with FIRST) plus the exact sum of the column's products. -/
def Tile.TakesColumn (T X : Tile) (c : FabCtx) (fed : Fed) (n : Nat) (first : Bool) (slot : Nat) (tk : List Token) : Prop :=
  let kc := fed.kc
  X.vctl.fcc = (T.vctl.fcc + 1) % 512 ∧ X.vat.bbuf = T.vat.bbuf ∧
    (first = true → ∀ org, T.firstPois n = some org → tk = [c.sinkTok slotM org skVat] ∧ X.vat = T.vat) ∧
    ((first = true → T.firstPois n = none) → tk = [] ∧
      (fed.isBubble = true → ∀ V, V = (if first then (T.faultAccs n).foldl VatCore.clear T.vat else T.vat) →
        X.vat.acc = V.acc ∧ stBub (X.vat.st (V.home n)) = min (stBub (V.st (V.home n)) + 1) 0xFFFF) ∧
      (fed.isBubble = false → ∀ af, accFormat (hFmt (T.vctl.header 4)) (hFmt T.statHdr) n (stIf32 (T.vat.st n)) = some af →
        stAfmt (X.vat.st n) = af ∧ stLive (X.vat.st n) = 2 ^ 32 - 1 ∧
        ∀ i j a b, i < 32 → j < 32 →
          a = (List.range kc).map (fun t => colElem (hFmt fed.hdr) kc (hVlim fed.hdr) fed.img fed.rows.toNat
            fed.scales fed.spois i t) →
          b = (List.range kc).map (fun t => colElem (hFmt T.statHdr) kc (hVlim T.statHdr)
            (tget Col.zero T.vat.bbuf (32 * T.vctl.abuf + slot)) 15 (T.statScales kc slot).1
            (T.statScales kc slot).2 j t) →
          (if af = 3 then X.vat.cell64 n i j else X.vat.cell n i j) =
            (cellStep af (stSat (T.vat.st n)) first (if af = 3 then T.vat.cell64 n i j else T.vat.cell n i j)
              (columnSum a b) (anyNan a b)).1 % (if af = 3 then 2 ^ 64 else 2 ^ 32)))

/-! ## Words and fetches -/

/-- The slot of an FT word that an instruction stands in: 0 M, 1 V, 2 S (R47). -/
def slotOfInstr (i : Instr) : Option Nat :=
  match form i with
  | .m .. => some 0
  | .v .. => some 1
  | .s .. => some 2
  | _ => none

/-- A well-formed instruction of a slot. -/
def InSlot (n : Nat) (i : Instr) : Prop := slotOfInstr i = some n ∧ wellFormed i = true

/-- Every instruction of a decoded word is well formed and stands where its class may. -/
def Legal : Fetched → Prop
  | .nul | .guard => True
  | .ft _ _ m v x => (∀ i, m = some i → InSlot 0 i) ∧ (∀ i, v = some i → InSlot 1 i) ∧ ∀ i, x = some i → InSlot 2 i
  | .fl _ _ i => (∃ l p, form i = .long l p) ∧ wellFormed i = true
  | .ctl i => (∃ c o d r, form i = .ctl c o d r) ∧ wellFormed i = true

/-- The word of a decoded word (R44, R46, R55, R56). -/
def wordOf : Fetched → Nat
  | .nul => 0
  | .guard => 2 ^ 80 - 1
  | .ft g k m v x => encodeFt g k m v x
  | .fl g k i => encodeFl g k i
  | .ctl i => encodeForm (form i)

/-- The instruction that a control thread runs from a word, if it is one (R44, R45, R56). -/
def controlInstr (w : Nat) : Option Instr :=
  match decode w with
  | .ok (.ctl i) => some i
  | .ok .nul => some .nop
  | .ok .guard => some .guard
  | _ => none

/-- The instruction that a slot of a row word runs in a tile whose guard is `g`, if any (R44 to R47, R55). -/
def slotInstr (f : Fetched) (g : BitVec 3 → Bool → Bool) (which : Nat) : Option Instr :=
  match f with
  | .nul => some .nop
  | .guard => some .guard
  | .fl ginv gk i => if g gk ginv then some i else none
  | .ft ginv gk m v x => if g gk ginv then (if which = 0 then m else if which = 1 then v else x) else none
  | .ctl _ => none

end Sys2Proof.Machine
end

