-- ==== Sys2Proof/Certificates/Slice0/Obligations.lean ====
section
/-! DEFINITION. The statements for the provers: what the rules of the spec say the machine does. -/

open Sys2Proof Sys2Proof.Machine

/-- In a thread of any kind, ADD, SUB, MUL, MULH, MULHU, AND, OR, XOR, ANDN, SHL, SHR, SAR, ROTL, MIN, MAX, MINU,
MAXU, CLZ, CTZ, POPC, BSWAP, SEXT, ZEXT, CMPEQ, CMPNE, CMPLT, CMPLTU, SEL, ADDI, MULI, ANDI, ORI, XORI, SHLI, SHRI,
SARI, ROTLI, CMPEQI, CMPNEI, CMPLTI, CMPLTUI, MINI, MAXI, LIMM, LIMMZ and LIMMH answer the next state in which only
the executing thread changed: D holds the result of the table aluResult, usable after the latency (1, MUL forms 3), s0
stays zero, every other register and tag is as before but for the cleared tag of an h destination, PC is one higher,
and the next instruction may start one cycle later. (R184, R186, R188, R190, R191) -/
def Obligations.ControlArithmeticWritesItsResult : Prop :=
  ∀ (i : Instr) (s : State) (t lat : Nat) (d : BitVec 6) (v : Word), s.cur = .thread t →
    aluResult (s.thread t).reads i = some (d, lat, v) →
    ∃ T, exec i s = .next (s.setThread t T) ∧ Wrote (s.thread t) T s.now d.toNat lat v

/-- BEQ, BNE, BLT, BGE, BLTU, BGEU, BZ, BNZ and JMP in a thread of any kind answer the state in which only the
executing thread's PC and its next start changed: taken, PC is PC + sext(OFF32) and the next instruction starts two
cycles later; not taken, PC + 1 and one cycle later. JAL in a thread of any kind writes PC + 1 to D and sets PC to PC
+ sext(OFF32); JALR writes PC + 1 to D and sets PC to s[A] + sext(OFF32), A being read before D is written; the next
instruction starts two cycles later and nothing else changes. (R184, R192) -/
def Obligations.BranchesAndJumpsMoveThePc : Prop :=
  (∀ (i : Instr) (s : State) (t : Nat) (taken : Bool) (off : BitVec 32), s.cur = .thread t →
      branchTaken (s.thread t).reads i = some (taken, off) →
      exec i s = .next (s.setThread t { s.thread t with
        pc := if taken then (s.thread t).pc + off.signExtend 64 else (s.thread t).pc + 1
        nextAt := if taken then s.now + 2 else s.now + 1 })) ∧
  (∀ (s : State) (t : Nat) (d a : BitVec 6) (off : BitVec 32), s.cur = .thread t →
      ∃ T, Wrote (s.thread t) T s.now d.toNat 1 ((s.thread t).pc + 1) ∧
        exec (.jal d off) s = .next (s.setThread t
          { T with pc := (s.thread t).pc + off.signExtend 64, nextAt := s.now + 2 }) ∧
        exec (.jalr d a off) s = .next (s.setThread t
          { T with pc := (s.thread t).reads a + off.signExtend 64, nextAt := s.now + 2 }))

/-- MOV in a thread of any kind writes s[A] to D one cycle later. Where D and A are h registers and A carries a tag, D
carries it too; otherwise an h destination loses its tag. No other register or tag changes. (R186, R188) -/
def Obligations.MovCopiesTheTag : Prop :=
  ∀ (s : State) (t : Nat) (d a : BitVec 6), s.cur = .thread t →
    ∃ T, exec (.mov d a) s = .next (s.setThread t T) ∧ Went (s.thread t) T s.now ∧
      (d ≠ 0 → T.reads d = (s.thread t).reads a) ∧ (∀ r, r ≠ d.toNat → T.getR r = (s.thread t).getR r) ∧
      ∀ r, 32 ≤ r → T.tag r =
        if r = d.toNat then decide (32 ≤ a.toNat) && (s.thread t).tag a.toNat else (s.thread t).tag r

/-- NOP in a control thread moves PC to the next word; in a row store it changes nothing. GUARD freezes the control
thread that executes it with cause 0xF0; in a row store it puts exactly one fault token, of cause 0xF0 and origin slot
WORD, into its region's list of tokens and changes nothing else. (R44, R45) -/
def Obligations.NopAndGuardDoWhatR44Says : Prop :=
  ∀ (s : State) (t r u word iter : Nat),
    (s.cur = .thread t → exec .nop s = .next (s.setThread t
      { s.thread t with pc := (s.thread t).pc + 1, nextAt := s.now + 1 }) ∧ exec .guard s = .next (s.freezeThread t 0xF0)) ∧
    (s.cur = .tile r u word iter → exec .nop s = .next s ∧ exec .guard s = .next (s.setRegion r
      { s.region r with tokens := (s.region r).tokens ++ [(s.fabCtx r u word iter).direct slotWord 0xF0] }))

/-- For every instruction that R185 and R202 do not open to all kinds (kindsOf lists them with the kinds that may run
them), a thread of no such kind that executes it leaves exactly the state of its freeze with cause PRIV (0x03). (R185,
R202) -/
def Obligations.OtherKindsFreezeWithPriv : Prop :=
  ∀ (i : Instr) (s : State) (t : Nat) (ks : List Kind), kindsOf i = some ks → s.cur = .thread t →
    (s.thread t).kindIn ks = false → exec i s = .next (s.freezeThread t 0x03)

/-- A control thread that no handler steps and that a cause c freezes is frozen with PC, registers and every other
field as before its instruction, its outstanding loads too, and the status kept for its resumption. One freeze is appended to the list, with the next serial; its record's words hold cause, FADDR, PC and
CYCLE. Memory, the other threads and the counters are unchanged; a run-ahead thread takes its region with it. (R34,
R334, R338, R342) -/
def Obligations.AFreezeLatchesARecordAndKeepsRegisters : Prop :=
  ∀ (s : State) (t : Nat) (i : FreezeInfo), (s.thread t).stepBy = none →
    ∃ f, (s.freezeThreadT t (s.thread t) i).freezes = s.freezes ++ [f] ∧
      f.serial = nextSerial s.freezeSerial ∧ f.cause = i.cause ∧ f.unit = threadUnit (s.thread t) t ∧
      f.rec_.length = 8 ∧ (f.rec_.getD 1 0).toNat % 2 ^ 8 = i.cause % 2 ^ 8 ∧ f.rec_.getD 3 0 = i.faddr ∧
      f.rec_.getD 4 0 = (s.thread t).pc ∧ f.rec_.getD 6 0 = BitVec.ofNat 64 s.now ∧
      (s.freezeThreadT t (s.thread t) i).thread t =
        { s.thread t with status := .frozen, saved := .running } ∧
      (∀ u, u ≠ t → (s.freezeThreadT t (s.thread t) i).thread u = s.thread u) ∧
      (s.freezeThreadT t (s.thread t) i).mem = s.mem ∧ (s.freezeThreadT t (s.thread t) i).counters = s.counters ∧
      ∀ r, (s.freezeThreadT t (s.thread t) i).region r =
        if isRau t ∧ r = rauRegion t then { s.region r with frozen := true } else s.region r

/-- LD and LDS in a thread of any kind whose address s[A] + sext(OFF32) passes the checks of R193 append one
outstanding load to the thread, with D, the size, the sign, the address, the home that the translation gives and no
reply yet, and go on: PC + 1, one cycle later. Nothing else changes but what page-migration counting counts and the
next identifier. (R183, R193, R195) -/
def Obligations.LoadsAreIssuedToTheirHome : Prop :=
  ∀ (s : State) (t : Nat) (m : MemArgs) (x : Xlat) (signed : Bool), s.cur = .thread t →
    s.checkAccess (s.thread t) ((s.thread t).reads m.a + m.off.signExtend 64).toNat (2 ^ m.sz.toNat) (2 ^ m.sz.toNat) .load
      = .ok x →
    ∃ l s1, s1 = s.counted t ((s.thread t).reads m.a + m.off.signExtend 64) x.pa ∧
      exec (if signed then .lds m else .ld m) s = .next ({ s1 with nextId := s1.nextId + 1 }.setThread t
        { (s.thread t).on s.now with loads := (s.thread t).loads ++ [l] }) ∧
      l.id = s1.nextId ∧ l.d = m.d.toNat ∧ l.sz = m.sz.toNat ∧ l.signed = signed ∧ l.atomic = false ∧ l.got = none ∧
      l.ea = (s.thread t).reads m.a + m.off.signExtend 64 ∧ l.pc = (s.thread t).pc ∧
      l.pa = if (s.thread t).asCellar then x.pa else s1.placeRead (s.thread t).part l.ea.toNat x

/-- LD and LDS in any thread, and ST, AMO and CAS in a thread that may run them, whose address fails a check of R193
leave exactly the state of the thread's freeze with the cause of the first failed check and FADDR the effective
address. (R193) -/
def Obligations.FailedAccessChecksFreezeBeforeAnyAccess : Prop :=
  ∀ (s : State) (t c : Nat) (m : MemArgs) (k : AccKind) (i : Instr), s.cur = .thread t →
    ((i = .ld m ∨ i = .lds m) ∧ k = .load ∨ (s.thread t).kindIn [.service, .handler, .cellar] = true ∧
      (i = .st m ∧ k = .store ∨ (i = .amo m ∨ i = .cas m) ∧ k = .atomic)) →
    s.checkAccess (s.thread t) ((s.thread t).reads m.a + m.off.signExtend 64).toNat (2 ^ m.sz.toNat) (2 ^ m.sz.toNat) k
      = .error c →
    exec i s = .next (s.freezeAccess t c ((s.thread t).reads m.a + m.off.signExtend 64) (2 ^ m.sz.toNat))

/-- The event memory reply always answers a next state. For the only outstanding load of a thread, of HBM or host memory
of this package whose home serves it, whose line needs no repair and which no own atomic stands before, the load is gone
and D (and D + 1 for 16 bytes) holds the bytes of its address as they stood at an instant no later than now and no
earlier than the load's bound or the thread's own latest write of them; for an acquire the instant is now; the value is
sign- or zero-extended to 64 bits as the load says. A read of the register window, and an atomic that its home has
performed, deliver the register's value (that of an own store held for a take-over, where one stands before it) or the
old value. No other thread and no byte of memory changes. (R183, R195,
R238) -/
def Obligations.AReplyDeliversTheBytesOfAnInstant : Prop :=
  (∀ (s : State) (t n : Nat) (ext : BitVec 128), ∃ u, exec (.memoryReply t n ext) s = .next u) ∧
  ∀ (s : State) (t n : Nat) (ext : BitVec 128) (l : PLoad), (s.thread t).loads = [l] → l.id = n → l.got = none →
    (l.atomic = false → targetOf l.pa ≠ .window → s.homeServes l.pa = true → s.atomicAhead t l = false →
      s.serveLine l.pa = (s, true) →
      ∃ u k v, exec (.memoryReply t n ext) s = .next u ∧ k ≤ s.now ∧ (l.acq = true → k = s.now) ∧
        min s.now (max l.lo (ownLatest s.hist (.thread t) (memKey l.pa) (2 ^ l.sz))) ≤ k ∧
        v = BitVec.ofNat 128 (bytesNat (s.readAt (.thread t) l.id (memKey l.pa) k (2 ^ l.sz))) ∧
        u.thread t = (s.thread t).replied l v s.now ∧ (∀ w, w ≠ t → u.thread w = s.thread w) ∧ u.mem = s.mem ∧
        u.writes = s.writes) ∧
    ∀ v, ((l.atomic = true ∧ (l.val = some v ∨ (l.val = none ∧ (otherPkg l.pa).isSome = true ∧ v = ext))) ∨
        (l.atomic = false ∧ targetOf l.pa = .window ∧ v = (s.windowValue t l).setWidth 128)) →
      ∃ u, exec (.memoryReply t n ext) s = .next u ∧ s.onlyThread u t ((s.thread t).replied l v s.now)

/-- ST in a thread of kind S, H or C whose address passes the checks of R193, leads to memory of this package and
whose release, if it makes one, is clear, appends one write to the writes on their way: the low bytes of D (or of D
and D + 1), little-endian, for the bytes of the address's home at the effective address; PC + 1, one cycle later. No
register and no byte of memory that the write does not name changes, but for what counting migrations and copying a
pinned chunk do before. While a SNAP holds the writes to its range entry, or the pinned chunk cannot be copied yet, the
thread stays at its word. (R193, R195, R237, R248) -/
def Obligations.StoresAreIssuedToTheirHome : Prop :=
  ∀ (s : State) (t : Nat) (m : MemArgs) (x : Xlat), s.cur = .thread t →
    (s.thread t).kindIn [.service, .handler, .cellar] = true →
    s.checkAccess (s.thread t) ((s.thread t).reads m.a + m.off.signExtend 64).toNat (2 ^ m.sz.toNat) (2 ^ m.sz.toNat) .store
      = .ok x →
    targetOf x.pa ≠ .window → s.clear t (relScope m) → 
    ¬(s.holdsOf (s.thread t) = true ∧ (relScope m = 5 ∨ s.heldOver x.pa (2 ^ m.sz.toNat) = true)) →
    (s.snapHolds (s.thread t) ((s.thread t).ea m).toNat = true → exec (.st m) s = .next (s.setThread t
      { s.thread t with nextAt := s.now + 1, held := true })) ∧
    (s.snapHolds (s.thread t) ((s.thread t).ea m).toNat = false → ∀ s2 pa, (s2, pa) = (if (s.thread t).asCellar then (s, x.pa)
        else (s.counted t ((s.thread t).ea m) x.pa).placeWrite (s.thread t).part ((s.thread t).ea m).toNat x) →
      s2.localDenial pa = false → otherPkg pa = none →
      ∃ w, exec (.st m) s = .next ({ s2 with nextId := s2.nextId + 1, writes := s2.writes ++ [w] }.setThread t
          ((s2.thread t).on s2.now)) ∧
        w.id = s2.nextId ∧ w.by_ = .thread t ∧ w.part = (s.thread t).part ∧ w.pa = pa ∧ w.len = 2 ^ m.sz.toNat ∧
        w.kind = .store ∧ w.performed = false ∧ w.deny = 0 ∧
        bytesNat w.data = ((s.thread t).reads m.d).toNat % 2 ^ (8 * 2 ^ m.sz.toNat) +
          (if m.sz = 4 then 2 ^ 64 * ((s.thread t).getR (m.d.toNat + 1)).toNat else 0))

/-- The event home write perform, for a store that stands in the writes on their way and may be performed, at a home
whose remap vote agrees, answers the state in which the bytes at its home are the store's data and every other byte of
memory reads as before; the write is marked performed, and no register of a thread changes. At a home whose stack is
degraded no byte changes and the write is marked denied with PROTECT. The event write
acknowledgement, for a write to memory of this package that its home has performed without a denial, answers the state
without that write and with nothing else changed; with a denial of an engine or thread it is heard instead. (R195,
R237, R285, R297) -/
def Obligations.StoresArePerformedAndAcknowledged : Prop :=
  (∀ (s : State) (id : Nat) (w : PWrite), s.writes.find? (fun v => decide (v.id = id)) = some w → w.kind = .store →
      s.mayPerform w = true →
      (s.voteLine w.pa = (s, true) →
        ∃ u, exec (.homeWritePerform id) s = .next u ∧ u.bytes (memKey w.pa) w.data.length = w.data ∧
        sameOutside s u (memKey w.pa) w.data.length ∧ u.threads = s.threads ∧
        u.writes = s.writes.map fun v => if v.id = w.id then { v with performed := true, deny := 0 } else v) ∧
      ((s.voteLine w.pa).2 = false → ∃ u, exec (.homeWritePerform id) s = .next u ∧ u.mem = s.mem ∧
        u.threads = s.threads ∧
        u.writes = s.writes.map fun v => if v.id = w.id then { v with performed := true, deny := 0x06 } else v)) ∧
  (∀ (s : State) (id : Nat) (denied : Bool) (ext : BitVec 128) (w : PWrite),
      s.writes.find? (fun v => decide (v.id = id)) = some w → w.performed = true → w.deny = 0 →
      exec (.writeAck id denied ext) s = .next { s with writes := s.writes.filter fun v => decide (v.id ≠ w.id) })

/-- AMO and CAS in a thread of kind S, H or C whose address passes the checks of R193 at memory of this package, with
a clear release if they make one, append one write with the operand B (for a CAS also the expected value from D) and
the operation, and one outstanding load that its old value will answer in D; PC + 1, one cycle later. While a SNAP
holds the writes to its range entry, or the pinned chunk cannot be copied yet, the thread stays at its word. (R193, R196, R197, R248) -/
def Obligations.AtomicsAreIssuedWithTheirOperands : Prop :=
  ∀ (s : State) (t : Nat) (m : MemArgs) (x : Xlat) (cas : Bool), s.cur = .thread t →
    (s.thread t).kindIn [.service, .handler, .cellar] = true →
    s.checkAccess (s.thread t) ((s.thread t).reads m.a + m.off.signExtend 64).toNat (2 ^ m.sz.toNat) (2 ^ m.sz.toNat) .atomic
      = .ok x →
    s.clear t (relScope m) →
    (s.snapHolds (s.thread t) ((s.thread t).ea m).toNat = true → exec (if cas then .cas m else .amo m) s =
      .next (s.setThread t { s.thread t with nextAt := s.now + 1, held := true })) ∧
    (s.snapHolds (s.thread t) ((s.thread t).ea m).toNat = false → ∀ s2 pa, (s2, pa) = (if (s.thread t).asCellar then (s, x.pa)
        else (s.counted t ((s.thread t).ea m) x.pa).placeWrite (s.thread t).part ((s.thread t).ea m).toNat x) →
      s2.localDenial pa = false → otherPkg pa = none →
      ∃ w l, exec (if cas then .cas m else .amo m) s = .next
          ({ s2 with nextId := s2.nextId + 2, writes := s2.writes ++ [w] }.setThread t
            { (s2.thread t).on s2.now with loads := (s2.thread t).loads ++ [l] }) ∧
        w.by_ = .thread t ∧ w.pa = pa ∧ w.len = 2 ^ m.sz.toNat ∧ w.performed = false ∧
        bytesNat w.data = (s.thread t).operand m.b.toNat m.sz % 2 ^ (8 * 2 ^ m.sz.toNat) ∧
        w.kind = (if cas then .cas (BitVec.ofNat 128 ((s.thread t).operand m.d.toNat m.sz)) l.id
            (decide (m.ford = 1) && decide (m.scope.toNat ≠ 0)) else .amo m.aop.toNat l.id) ∧
        l.id = s2.nextId ∧ l.d = m.d.toNat ∧ l.sz = m.sz.toNat ∧ l.atomic = true ∧ l.got = none ∧ l.pa = pa)

/-- The event home write perform, for an AMO or CAS of a thread that may be performed and whose line needs no repair,
answers the state in which the bytes at its home are the operation of R196 on the old value and the operand (for a
CAS, the new value where the old one equals the expected one; else nothing is written), every other byte reads as
before, the load entry of the thread holds the old value, and no other thread changes. (R196, R197, R241) -/
def Obligations.AnAtomicReadsAndWritesInOneStep : Prop :=
  ∀ (s : State) (id t n : Nat) (w : PWrite), s.writes.find? (fun v => decide (v.id = id)) = some w → w.by_ = .thread t →
    s.mayPerform w = true → s.serveLine w.pa = (s, true) →
    (∀ op, w.kind = .amo op n → ∃ u, exec (.homeWritePerform id) s = .next u ∧
      u.mget (memKey w.pa) w.len =
        amoNew op (8 * w.len) (s.mget (memKey w.pa) w.len) (bytesNat w.data) % 256 ^ w.len ∧
      sameOutside s u (memKey w.pa) w.len ∧ (∀ k, k ≠ t → u.thread k = s.thread k) ∧
      (u.thread t).loads = (s.thread t).loads.map fun l =>
        if l.id = n then { l with val := some (BitVec.ofNat 128 (s.mget (memKey w.pa) w.len)) } else l) ∧
    ∀ e f, w.kind = .cas e n f → ∃ u, exec (.homeWritePerform id) s = .next u ∧
      u.mget (memKey w.pa) w.len = (if s.mget (memKey w.pa) w.len = e.toNat then bytesNat w.data % 256 ^ w.len
        else s.mget (memKey w.pa) w.len) ∧
      sameOutside s u (memKey w.pa) w.len ∧ (∀ k, k ≠ t → u.thread k = s.thread k) ∧
      (u.thread t).loads.map PLoad.val = (s.thread t).loads.map fun l =>
        if l.id = n then some (BitVec.ofNat 128 (s.mget (memKey w.pa) w.len)) else l.val

/-- ST and AMO with a release at a scope other than THREAD, whose checks pass and whose thread has heard no denial,
stay at their word, held, and change nothing but the cycle of the next try while a write that the release waits for is not
acknowledged. (R195, R235, R237) -/
def Obligations.ReleasesWaitForEarlierWrites : Prop :=
  ∀ (s : State) (t : Nat) (m : MemArgs) (x : Xlat) (k : AccKind) (i : Instr), s.cur = .thread t →
    (s.thread t).kindIn [.service, .handler, .cellar] = true →
    (i = .st m ∧ k = .store ∧
        ¬(s.holdsOf (s.thread t) = true ∧ (relScope m = 5 ∨ s.heldOver x.pa (2 ^ m.sz.toNat) = true)) ∨
      i = .amo m ∧ k = .atomic) →
    s.checkAccess (s.thread t) ((s.thread t).reads m.a + m.off.signExtend 64).toNat (2 ^ m.sz.toNat) (2 ^ m.sz.toNat) k
      = .ok x →
    relScope m ≠ 0 → (s.thread t).hears (relScope m) = none → s.quiet (.thread t) (relScope m) = false →
    exec i s = .next (s.setThread t { s.thread t with nextAt := s.now + 1, held := true })

/-- FENCE in a thread of any kind at SCOPE THREAD goes on; at another scope the thread waits. The event fence
complete, for such a thread that has heard no denial and whose release (if it orders one) is clear, lets it go on, its
later loads reading no earlier than now where the fence acquires; while a write is on its way that the release waits
for, it changes nothing. (R198, R237) -/
def Obligations.FencesHoldUntilTheirWritesAreAcknowledged : Prop :=
  ∀ (s : State) (t : Nat) (m : MemArgs),
    (s.cur = .thread t → exec (.fence m) s = .next (s.setThread t (if m.scope = 0 then (s.thread t).on s.now
      else { s.thread t with status := .waiting (.fence (decide (m.ord.toNat % 2 = 1)) (decide (m.ord.toNat / 2 = 1))
        m.scope.toNat) }))) ∧
    ∀ acq rel scope, (s.thread t).status = .waiting (.fence acq rel scope) → (s.thread t).hears scope = none →
      ((rel = false ∨ s.quiet (.thread t) scope = true) → ∃ u, exec (.fenceComplete t) s = .next u ∧ s.onlyThread u t
        { (s.thread t).on s.now with status := .running, acqAt := if acq then s.now else (s.thread t).acqAt }) ∧
      (rel = true → s.quiet (.thread t) scope = false → exec (.fenceComplete t) s = .next s)

/-- ENQ in a thread of kind S, H or C that names a chain it may, whose entry address passes the checks of R193 and
whose release at DEVICE is clear appends the entry to the chain with the number LAST + 1, makes it the tail and LAST
its number, and writes that number to D; no other chain changes. While the entry or the tail cannot be written (a home
that serves nobody now, a range entry that a SNAP holds), the thread stays at its word. (R193, R199) -/
def Obligations.EnqLinksAnEntryAtTheTail : Prop :=
  ∀ (s : State) (t c : Nat) (m : MemArgs) (x : Xlat), s.cur = .thread t →
    (s.thread t).kindIn [.service, .handler, .cellar] = true →
    (s.thread t).chainOf ((s.thread t).reads m.b) = some c →
    s.checkAccess (s.thread t) ((s.thread t).reads m.a + m.off.signExtend 64).toNat 64 64 .enq = .ok x → s.clear t 4 →
    (s.linkReady c t ((s.thread t).reads m.a + m.off.signExtend 64) = false → exec (.enq m) s = .next (s.setThread t
      { s.thread t with nextAt := s.now + 1, held := true })) ∧
    (s.linkReady c t ((s.thread t).reads m.a + m.off.signExtend 64) = true →
    ∃ u T, exec (.enq m) s = .next u ∧ u.thread t = T ∧ Wrote (s.thread t) T s.now m.d.toNat 1 ((s.chain c).last + 1) ∧
      (u.chain c).last = (s.chain c).last + 1 ∧ (u.chain c).tail = (s.thread t).reads m.a + m.off.signExtend 64 ∧
      (u.chain c).entries = (s.chain c).entries ++ [⟨(s.thread t).reads m.a + m.off.signExtend 64, (s.chain c).last + 1, t⟩] ∧
      (u.chain c).seq = (s.chain c).seq ∧ ∀ e, e ≠ c → u.chain e = s.chain e)

/-- SEQW of a chain whose sequence number has reached s[A] writes the sequence number to D; TLWT of a counter of this
package that has reached s[B], with no own update on its way, writes 1; both acquire. WAITEV with a selected event
pending writes the selected pending events and clears the edge events among them. Each lets the thread go on in the
next cycle with no other register changed. (R200, R207, R210) -/
def Obligations.WaitsThatAreMetReleaseAtOnce : Prop :=
  ∀ (s : State) (t c : Nat) (d a b : BitVec 6) (m : MemArgs) (n : BitVec 32) (mask : BitVec 9), s.cur = .thread t →
    ((s.thread t).kindIn [.service, .handler, .cellar] = true → (s.thread t).chainOf ((s.thread t).reads m.b) = some c →
      reached (s.chain c).seq ((s.thread t).reads m.a) = true →
      ∃ u, exec (.seqw m) s = .next u ∧ s.onlyThread u t
        { ({ s.thread t with acqAt := s.now }.setR m.d.toNat (s.chain c).seq).on s.now with status := .running }) ∧
    (handleOf (s.thread t) ((s.thread t).reads a) = true → handleLocal ((s.thread t).reads a) = true →
      s.tlwtMet t (handleIdx ((s.thread t).reads a)) ((s.thread t).reads b) = true →
      ∃ u, exec (.tlwt d a b n) s = .next u ∧ s.onlyThread u t
        { ({ s.thread t with acqAt := s.now }.setR d.toNat 1).on s.now with status := .running }) ∧
    ((s.thread t).kindIn [.service, .handler, .cellar] = true →
      (cellarEvents mask.toNat = true → (s.thread t).isKind .cellar = true) →
      ∀ e, e = Nat.land (s.pendingEvents (s.thread t) ((s.thread t).reads a)) mask.toNat → e ≠ 0 →
      ∃ u, exec (.waitev d a mask) s = .next u ∧
        u.thread t = { ((s.thread t).setR d.toNat (BitVec.ofNat 64 e)).on s.now with status := .running } ∧
        u.events = clearBits s.events e ∧
        (u.part (s.thread t).part).events = clearBits (s.part (s.thread t).part).events e ∧ u.mem = s.mem)

/-- SEQW, TLWT, WAITEV and ITERWT whose condition does not hold, and CONDSET where the region takes no condition now,
leave the thread waiting at its word with what it waits for (the deadline of SEQW and TLWT n times 1,024 cycles ahead,
none for 0), and change nothing else. (R200, R207, R210, R222, R223) -/
def Obligations.WaitsThatAreNotMetHoldTheThread : Prop :=
  ∀ (s : State) (t c : Nat) (d a b : BitVec 6) (m : MemArgs) (n : BitVec 32) (mask : BitVec 9), s.cur = .thread t →
    ((s.thread t).kindIn [.service, .handler, .cellar] = true → (s.thread t).chainOf ((s.thread t).reads m.b) = some c →
      reached (s.chain c).seq ((s.thread t).reads m.a) = false →
      exec (.seqw m) s = .next (s.setThread t { s.thread t with status := .waiting (.seqw m.d.toNat c
        ((s.thread t).reads m.a) (if m.off = 0 then none else some (s.now + 1024 * m.off.toNat))) })) ∧
    (handleOf (s.thread t) ((s.thread t).reads a) = true → handleLocal ((s.thread t).reads a) = true →
      s.tlwtMet t (handleIdx ((s.thread t).reads a)) ((s.thread t).reads b) = false →
      exec (.tlwt d a b n) s = .next (s.setThread t { s.thread t with status := .waiting (.tlwt d.toNat
        (handleIdx ((s.thread t).reads a)) ((s.thread t).reads b)
        (if n = 0 then none else some (s.now + 1024 * n.toNat))) })) ∧
    ((s.thread t).kindIn [.service, .handler, .cellar] = true → mask ≠ 0 →
      (cellarEvents mask.toNat = true → (s.thread t).isKind .cellar = true) →
      Nat.land (s.pendingEvents (s.thread t) ((s.thread t).reads a)) mask.toNat = 0 →
      exec (.waitev d a mask) s = .next (s.setThread t
        { s.thread t with status := .waiting (.waitev d.toNat mask.toNat ((s.thread t).reads a)) })) ∧
    ((s.thread t).kindIn [.runAhead] = true →
      ((s.region (rauRegion t)).sealed = true ∨
        s.deliverCond (rauRegion t) false (decide (((s.thread t).reads a).toNat % 2 = 1)) = none) →
      exec (.condset a) s = .next (s.setThread t
        { s.thread t with status := .waiting (.condset (decide (((s.thread t).reads a).toNat % 2 = 1))) })) ∧
    ((s.thread t).kindIn [.runAhead] = true →
      s.iterReached t (((s.thread t).reads a).toNat % 2 ^ 32) (s.region (rauRegion t)).fired = false →
      exec (.iterwt d a) s = .next (s.setThread t
        { s.thread t with
          status := .waiting (.iterwt d.toNat (((s.thread t).reads a).toNat % 2 ^ 32))
          mark := (s.region (rauRegion t)).fired }))

/-- The events SEQW release and TLWT release, once the threshold is reached, write the sequence number or 1 to D and
acquire; SEQW timeout and TLWT timeout, at the deadline with the threshold not reached, write the sequence number or
0. WAITEV release writes the selected pending events. ITERWT release writes STATUS and acquires. CONDSET release delivers the
condition. Each lets the thread go on at the next word. (R200, R207, R210, R222, R223) -/
def Obligations.ReleasesOfWaitsWriteTheirResult : Prop :=
  ∀ (s : State) (t d c n : Nat) (v : Word) (o : Option Nat) (T : Thread), T = s.thread t →
    (T.status = .waiting (.seqw d c v o) → reached (s.chain c).seq v = true →
      ∃ u, exec (.seqwRelease t) s = .next u ∧ s.onlyThread u t
        { ({ T with acqAt := s.now }.setR d (s.chain c).seq).on s.now with status := .running }) ∧
    (T.status = .waiting (.tlwt d c v o) → s.tlwtMet t c v = true →
      ∃ u, exec (.tlwtRelease t) s = .next u ∧ s.onlyThread u t
        { ({ T with acqAt := s.now }.setR d 1).on s.now with status := .running }) ∧
    (T.status = .waiting (.seqw d c v (some n)) → n ≤ s.now → reached (s.chain c).seq v = false →
      exec (.seqwTimeout t) s = .next (s.setThread t { (T.setR d (s.chain c).seq).on s.now with status := .running })) ∧
    (T.status = .waiting (.tlwt d c v (some n)) → n ≤ s.now → s.tlwtMet t c v = false →
      exec (.tlwtTimeout t) s = .next (s.setThread t { (T.setR d 0).on s.now with status := .running })) ∧
    (T.status = .waiting (.waitev d n v) → Nat.land (s.pendingEvents T v) n ≠ 0 →
      ∃ u, exec (.waitevRelease t) s = .next u ∧ u.thread t =
        { (T.setR d (BitVec.ofNat 64 (Nat.land (s.pendingEvents T v) n))).on s.now with status := .running }) ∧
    (T.status = .waiting (.iterwt d n) → s.iterReached t n T.mark = true →
      ∃ u, exec (.iterwtRelease t) s = .next u ∧ s.onlyThread u t
        { ({ T with acqAt := s.now }.setR d (s.region (rauRegion t)).current.status).on s.now with status := .running }) ∧
    (∀ b u, T.status = .waiting (.condset b) → (s.region (rauRegion t)).sealed = false →
      s.deliverCond (rauRegion t) false b = some u →
      exec (.condsetRelease t) s = .next (u.setThread t { (u.thread t).on u.now with status := .running }))

/-- CONDSET in a run-ahead thread whose region is not sealed, has a dual header that takes conditions from the thread
and fewer than four conditions queued appends bit 0 of s[A] to the region's queue and goes on. ITERWT of an iteration
already reached writes STATUS to D, acquires and goes on. (R27, R28, R222, R223) -/
def Obligations.CondsetAndIterwtActOnTheirRegion : Prop :=
  ∀ (s : State) (t : Nat) (d a : BitVec 6) (R : Region), s.cur = .thread t → (s.thread t).kindIn [.runAhead] = true →
    R = s.region (rauRegion t) →
    (R.sealed = false → hDual R.hdr = true → hCsrc R.hdr = false → R.condq.length < 4 →
      exec (.condset a) s = .next ((s.setRegion (rauRegion t)
        { R with condq := R.condq ++ [decide (((s.thread t).reads a).toNat % 2 = 1)] }).setThread t
          ((s.thread t).on s.now))) ∧
    (s.iterReached t (((s.thread t).reads a).toNat % 2 ^ 32) R.fired = true →
      ∃ u, exec (.iterwt d a) s = .next u ∧ s.onlyThread u t
        { ({ s.thread t with acqAt := s.now }.setR d.toNat R.current.status).on s.now with status := .running })

/-- TRAP in a thread of any kind and SVC in a service or run-ahead thread move PC to the next word and then freeze the
thread: cause BREAK (0x31) for TRAP and SVC (0x32) for SVC, registers unchanged, AUX of the record the 32-bit code.
(R205, R338) -/
def Obligations.TrapAndSvcFreezeAfterTheirOwnEffect : Prop :=
  ∀ (s : State) (t : Nat) (code : BitVec 32) (svc : Bool), s.cur = .thread t → (s.thread t).stepBy = none →
    (svc = true → (s.thread t).kindIn [.service, .runAhead] = true) →
    ∃ u f, exec (if svc then .svc code else .trap code) s = .next u ∧
      u.thread t = { s.thread t with pc := (s.thread t).pc + 1, status := .frozen, saved := .running } ∧
      u.freezes = s.freezes ++ [f] ∧ f.cause = (if svc then 0x32 else 0x31) ∧
      f.rec_.getD 7 0 = BitVec.ofNat 64 code.toNat ∧ f.rec_.getD 4 0 = (s.thread t).pc + 1 ∧ u.mem = s.mem

/-- HALT in a run-ahead thread leaves it idle at its word, in a service thread gives its context back and ends its
task, and in a cellar core that runs no take-over stops the core with its loads dropped. HEND in a handler that is no
take-over thread gives its context back: the thread is as at reset, no other thread and no byte of memory changes.
(R206, R228, R313) -/
def Obligations.ThreadsEndWithHaltAndHend : Prop :=
  ∀ (s : State) (t : Nat), s.cur = .thread t → (s.thread t).takeover = false →
    ((s.thread t).kind = .runAhead → exec .halt s = .next (s.setThread t
      { s.thread t with status := .idle, nextAt := s.now + 1 })) ∧
    ((s.thread t).kind = .cellar → exec .halt s = .next (s.setThread t
      { s.thread t with status := .idle, loads := [] })) ∧
    ((s.thread t).kind = .service → ∃ u, exec .halt s = .next u ∧ u.thread t = Thread.zero ∧
      (∀ k, k ≠ t → u.thread k = s.thread k) ∧ u.mem = s.mem) ∧
    ((s.thread t).kind = .handler → ∃ u, exec .hend s = .next u ∧ u.thread t = Thread.zero ∧
      (∀ k, k ≠ t → u.thread k = s.thread k) ∧ u.mem = s.mem)

/-- GETCR of a register that R41 and R203 list writes its value to D two cycles later: THREADID, PARTID, PRIV, NEST,
PKGID, CAUSE, FADDR, FUNIT, CYCLE, TBAND, TSTATE, LATTOL, the twelve watchpoint registers and the six counters of the
partition. SETCR of LATTOL at PRIV 3 writes the low 32 bits, of a watchpoint register at PRIV 2 or 3 its width (a length
above 4,096 as 4,096), of a counter at PRIV 2 or 3 zero; below the privilege it freezes with PRIV. A number that the
table does not list, and a SETCR of a register that it does not let be written, freeze with ILLEGAL_WORD. No other
register changes. (R41, R203) -/
def Obligations.ControlRegistersReadAndWriteAsR41Says : Prop :=
  ∀ (s : State) (t : Nat) (d a : BitVec 6) (cr : BitVec 12), s.cur = .thread t →
    (∀ v, ((cr, v) ∈ [(0, BitVec.ofNat 64 (threadId t (s.thread t).kind)), (1, BitVec.ofNat 64 (s.thread t).part),
        (2, BitVec.ofNat 64 (s.thread t).priv), (3, BitVec.ofNat 64 (s.thread t).nest), (4, Config.pkgId.setWidth 64),
        (8, BitVec.ofNat 64 (s.thread t).cause), (9, (s.thread t).faddr), (0xA, (s.thread t).funit),
        (0x10, BitVec.ofNat 64 s.now), (0x11, BitVec.ofNat 64 s.tband), (0x12, BitVec.ofNat 64 s.tstate),
        (0x13, (s.thread t).lattol.setWidth 64)] ∨
        (∃ k, k < 12 ∧ cr.toNat = 0x20 + k ∧ v = s.w (prbAt (s.thread t).part (0x1100 + 8 * k))) ∨
        ∃ k, k < 6 ∧ cr.toNat = 0x30 + k ∧ v = s.w (dcAt (s.thread t).part k)) →
      ∃ T, exec (.getcr d cr) s = .next (s.setThread t T) ∧ Wrote (s.thread t) T s.now d.toNat 2 v) ∧
    (cr = 0x13 → (s.thread t).priv = 3 → ∃ u, exec (.setcr a cr) s = .next u ∧ s.onlyThread u t
      { (s.thread t).on s.now with lattol := ((s.thread t).reads a).setWidth 32 }) ∧
    (∀ k, k < 12 → cr.toNat = 0x20 + k → 2 ≤ (s.thread t).priv → ∃ u, exec (.setcr a cr) s = .next u ∧
      u.w (prbAt (s.thread t).part (0x1100 + 8 * k)) = (if k < 4 then (((s.thread t).reads a).setWidth 57).setWidth 64
        else if k < 8 then BitVec.ofNat 64 (min ((s.thread t).reads a).toNat 4096) else (s.thread t).reads a) ∧
      (∀ pa, pa ≠ prbAt (s.thread t).part (0x1100 + 8 * k) → u.w pa = s.w pa) ∧
      { u with win := s.win } = s.setThread t ((s.thread t).on s.now)) ∧
    (∀ k, k < 6 → cr.toNat = 0x30 + k → 2 ≤ (s.thread t).priv → ∃ u, exec (.setcr a cr) s = .next u ∧
      u.w (dcAt (s.thread t).part k) = 0 ∧ (∀ pa, pa ≠ dcAt (s.thread t).part k → u.w pa = s.w pa) ∧
      { u with win := s.win } = s.setThread t ((s.thread t).on s.now)) ∧
    (((cr = 0x13 ∧ (s.thread t).priv ≠ 3) ∨ (((0x20 ≤ cr.toNat ∧ cr.toNat ≤ 0x2B) ∨ (0x30 ≤ cr.toNat ∧ cr.toNat ≤ 0x35)) ∧
        (s.thread t).priv < 2)) → exec (.setcr a cr) s = .next (s.freezeThread t 0x03)) ∧
    (cr ≠ 0x13 → ¬(0x20 ≤ cr.toNat ∧ cr.toNat ≤ 0x2B) → ¬(0x30 ≤ cr.toNat ∧ cr.toNat ≤ 0x35) →
      exec (.setcr a cr) s = .next (s.freezeThread t 0x01) ∧
      (cr ∉ ([0, 1, 2, 3, 4, 8, 9, 0xA, 0x10, 0x11, 0x12] : List (BitVec 12)) →
        exec (.getcr d cr) s = .next (s.freezeThread t 0x01)))

/-- RDCYC whose earlier stores are acknowledged writes CYCLE two cycles later. HCAPQ of a tagged register in a handler
writes the status word of its capability: bit 0 set, bit 1 while the freeze stands, bit 2 once it is spent, the cause
in bits 15 to 8. (R204, R229) -/
def Obligations.CycleAndCapabilityQueriesWriteD : Prop :=
  ∀ (s : State) (t : Nat) (d a : BitVec 6), s.cur = .thread t →
    (s.clear t 5 → ∃ T, exec (.rdcyc d) s = .next (s.setThread t T) ∧
      Wrote (s.thread t) T s.now d.toNat 2 (BitVec.ofNat 64 s.now)) ∧
    ((s.thread t).kindIn [.handler] = true → (s.thread t).tag a.toNat = true →
      ∃ T v, exec (.hcapq d a) s = .next (s.setThread t T) ∧ Wrote (s.thread t) T s.now d.toNat 2 v ∧ v.toNat % 2 = 1 ∧
        ∀ f, s.freezeOf (((s.thread t).reads a).toNat % 2 ^ 32) = some f →
          v.toNat / 2 % 2 = (if f.spent then 0 else 1) ∧ v.toNat / 4 % 2 = (if f.spent then 1 else 0) ∧
          v.toNat / 2 ^ 8 % 2 ^ 8 = if f.spent then 0 else f.cause % 2 ^ 8)

/-- TLSIG in a thread of kind S, H or C with a handle it may name, of a counter of this package, with no denial heard
and nothing held for it, appends one counter update to the writes on their way and goes on. The event home write
perform, when that update may be performed, adds the value to the counter (ADD) or raises the counter to it (ADV,
never back), leaves every other counter as it was, takes the update away and releases the threads whose TLWT the sum
meets. TLSET in a cellar thread stores s[B] in the counter, or waits while an own update of it is on its way. DEPDEC in a thread of kind S, H or C with a handle of its own partition
(any, for a cellar thread) and a clear release at DEVICE takes 1 from a counter that is not zero and writes the new
value to D; a counter of zero stays zero and 0 is written. DEPSET in a cellar thread with a handle below 4,096 and a
value below 2^32 stores the value. No other dependence counter changes. (R208, R209, R210, R314, R211, R316) -/
def Obligations.CountersAreSignalledSetAndCountedDown : Prop :=
  (∀ (s : State) (t id i : Nat) (a b : BitVec 6) (add : Bool) (w : PWrite),
      (s.cur = .thread t → (s.thread t).kindIn [.service, .handler, .cellar] = true →
        handleOf (s.thread t) ((s.thread t).reads a) = true → handleLocal ((s.thread t).reads a) = true →
        (s.thread t).hears 4 = none → s.holdsOf (s.thread t) = false →
        ∃ v, exec (.tlsig a b add) s = .next ({ s with nextId := s.nextId + 1, writes := s.writes ++ [v] }.setThread t
            ((s.thread t).on s.now)) ∧
          v.kind = .tlsig (handleIdx ((s.thread t).reads a)) add ∧ v.by_ = .thread t ∧ v.id = s.nextId ∧
          bytesNat v.data = ((s.thread t).reads b).toNat ∧ v.performed = false) ∧
      (s.writes.find? (fun v => decide (v.id = id)) = some w → w.kind = .tlsig i add → s.mayPerform w = true →
        ∃ u, exec (.homeWritePerform id) s = .next u ∧
          u.counter i = (if add then s.counter i + BitVec.ofNat 64 (bytesNat w.data)
            else if reached (BitVec.ofNat 64 (bytesNat w.data)) (s.counter i) then BitVec.ofNat 64 (bytesNat w.data)
            else s.counter i) ∧
          (∀ j, j ≠ i → u.counter j = s.counter j) ∧ u.mem = s.mem ∧
          (∀ k, (∀ d v o, (s.thread k).status ≠ .waiting (.tlwt d i v o)) → u.thread k = s.thread k) ∧
          (add = true → ∀ k d v o, (s.thread k).status = .waiting (.tlwt d i v o) → reached (u.counter i) v = true →
            (s.dropWrite w.id).signalling k i = false → u.thread k =
              { ({ s.thread k with acqAt := s.now }.setR d 1).on s.now with status := .running }) ∧
          u.writes = s.writes.filter fun v => decide (v.id ≠ w.id)) ∧
      (s.cur = .thread t → (s.thread t).kindIn [.cellar] = true → handleOf (s.thread t) ((s.thread t).reads a) = true →
        handleLocal ((s.thread t).reads a) = true →
        (s.signalling t (handleIdx ((s.thread t).reads a)) = true → exec (.tlset a b) s = .next (s.setThread t
          { s.thread t with nextAt := s.now + 1, held := true })) ∧
        (s.signalling t (handleIdx ((s.thread t).reads a)) = false → (s.thread t).status = .running →
          ∃ u, exec (.tlset a b) s = .next u ∧ u.counter (handleIdx ((s.thread t).reads a)) = (s.thread t).reads b ∧
          (∀ j, j ≠ handleIdx ((s.thread t).reads a) → u.counter j = s.counter j) ∧
          u.thread t = (s.thread t).on s.now ∧ (∀ k, k ≠ t → (∀ d v o, (s.thread k).status ≠
            .waiting (.tlwt d (handleIdx ((s.thread t).reads a)) v o)) → u.thread k = s.thread k) ∧ u.mem = s.mem))) ∧
  (∀ (s : State) (t : Nat) (d a b : BitVec 6) (h : Word), s.cur = .thread t → h = (s.thread t).reads a → h.toNat < 2 ^ 12 →
      ((s.thread t).kindIn [.service, .handler, .cellar] = true →
        ((s.thread t).asCellar = true ∨ h.toNat / 256 = (s.thread t).part) → s.clear t 4 →
        ∃ u T, exec (.depdec d a) s = .next u ∧ u.thread t = T ∧
          u.dep h.toNat = (if s.dep h.toNat = 0 then 0 else s.dep h.toNat - 1) ∧
          (∀ j, j ≠ h.toNat → u.dep j = s.dep j) ∧
          Wrote (s.thread t) T s.now d.toNat 1 ((u.dep h.toNat).setWidth 64)) ∧
      ((s.thread t).kindIn [.cellar] = true → ((s.thread t).reads b).toNat < 2 ^ 32 →
        ∃ u, exec (.depset a b) s = .next u ∧ u.dep h.toNat = ((s.thread t).reads b).setWidth 32 ∧
          (∀ j, j ≠ h.toNat → u.dep j = s.dep j) ∧ u.thread t = (s.thread t).on s.now))

/-- KICKSCAN in a cellar thread writes the first set bit of the 256-bit pending-kick bitmap at or after j = s[A][7:0],
scanning upward and wrapping, or all ones where no bit is set, and changes no bit. KICKSCAN clear writes 1 where bit j
was set and 0 where not, and the bit is clear afterwards, but where the host kicked the queue in the same cycle. JRNL in a cellar thread with a clear release at DEVICE
appends the next entry of the ring in protected SRAM: serial, s[A], s[B], and the tag with the CRC-32 of the 28 bytes
before it; D takes the serial. WDOG arms the watchdog of the core to expire min(s[A], 110,000) cycles later, 0
standing for 110,000, and goes on. (R214, R310, R215, R216, R392) -/
def Obligations.KicksJournalAndWatchdogOfTheCellar : Prop :=
  (∀ (s : State) (t : Nat) (d a : BitVec 6) (j : Nat), s.cur = .thread t → (s.thread t).kindIn [.cellar] = true →
      j = ((s.thread t).reads a).toNat % 256 →
      (∀ k, k < 256 → s.kickBit ((j + k) % 256) = true → (∀ i, i < k → s.kickBit ((j + i) % 256) = false) →
        ∃ T, exec (.kickscan d a) s = .next (s.setThread t T) ∧
          Wrote (s.thread t) T s.now d.toNat 1 (BitVec.ofNat 64 ((j + k) % 256))) ∧
      ((∀ k, k < 256 → s.kickBit k = false) → ∃ T, exec (.kickscan d a) s = .next (s.setThread t T) ∧
        Wrote (s.thread t) T s.now d.toNat 1 (BitVec.allOnes 64)) ∧
      ∃ u T, exec (.kickscanClear d a) s = .next u ∧ u.thread t = T ∧
        u.kickBit j = (s.kickBit j && s.kicked.any (· == j)) ∧
        Wrote (s.thread t) T s.now d.toNat 1 (if s.kickBit j then 1 else 0)) ∧
  (∀ (s : State) (t n : Nat) (d a b : BitVec 6) (tag : BitVec 32), s.cur = .thread t →
      (s.thread t).kindIn [.cellar] = true → n = s.journalSerial + 1 →
      (s.clear t 4 → ∃ u T, exec (.jrnl d a b tag) s = .next u ∧ u.thread t = T ∧ u.journalSerial = n ∧
        Wrote (s.thread t) T s.now d.toNat 1 (BitVec.ofNat 64 n) ∧
        u.w (crbAt (0x100000 + 32 * (n % 16384))) = BitVec.ofNat 64 n ∧
        u.w (crbAt (0x100000 + 32 * (n % 16384) + 8)) = (s.thread t).reads a ∧
        u.w (crbAt (0x100000 + 32 * (n % 16384) + 16)) = (s.thread t).reads b ∧
        u.w (crbAt (0x100000 + 32 * (n % 16384) + 24)) = BitVec.ofNat 64 (tag.toNat + 2 ^ 32 * crc32
          (natBytes n 8 ++ natBytes ((s.thread t).reads a).toNat 8 ++ natBytes ((s.thread t).reads b).toNat 8 ++
            natBytes tag.toNat 4)) ∧ u.mem = s.mem) ∧
      ∃ u, exec (.wdog a) s = .next u ∧ u.thread t = (s.thread t).on s.now ∧ u.mem = s.mem ∧
        tget 0 u.watchdog t = s.now + (if (s.thread t).reads a = 0 then 110000 else min ((s.thread t).reads a).toNat 110000) ∧
        ∀ k, k ≠ t → tget 0 u.watchdog k = tget 0 s.watchdog k)

/-- PUBL, SNAP and UNSNAP complete in a thread of kind S, H or C with a clear release. PUBL of an entry with a shadow that
is no sink, not pinned and into which no linked copy entry writes exchanges PLIVE and PSHD, raises the generation by
one (skipping zero) and writes it to D; of any other, D takes 0 and nothing else changes. SNAP of an unpinned entry
with a shadow whose writes are performed clears its COWMAP, sets SHST to 2 and writes its generation, waits while one is
not, and of another entry writes 0; UNSNAP of a pinned entry that no copy engine reads sets SHST to 3 and writes 1, waits
while one does, and of another entry writes 0. The event fold complete of an entry that folds exchanges the copies and
ends the fold, else changes nothing. (R218, R219, R247, R248, R283) -/
def Obligations.PublicationAndSnapshotsActOnARangeEntry : Prop :=
  (∀ (s : State) (t p n m : Nat) (d a : BitVec 6), s.cur = .thread t →
    (s.thread t).kindIn [.service, .handler, .cellar] = true → p = (s.thread t).part → n = ((s.thread t).reads a).toNat →
    m = n % 64 →
    (s.clear t 5 → ∃ u, exec (.publ d a) s = .next u ∧ (u.thread t).pc = (s.thread t).pc + 1 ∧
      (∀ k, k ≠ t → u.thread k = s.thread k) ∧ u.mem = s.mem) ∧
    (s.clear t 5 → n < 64 → s.rShd p n = true → s.rSink p n = false → s.rShst p n < 2 → s.stagedInto p n = false →
      ∃ u T, exec (.publ d a) s = .next u ∧ u.thread t = T ∧ u.w (rangeAt p n 3) = s.w (rangeAt p n 4) ∧
        u.w (rangeAt p n 4) = s.w (rangeAt p n 3) ∧
        u.rGen p n = (if (s.rGen p n + 1) % 2 ^ 32 = 0 then 1 else s.rGen p n + 1) ∧
        Wrote (s.thread t) T s.now d.toNat 1 (BitVec.ofNat 64 (u.rGen p n)) ∧ u.mem = s.mem) ∧
    (s.clear t 5 → (64 ≤ n ∨ s.rShd p n = false ∨ s.rSink p n = true ∨ 2 ≤ s.rShst p n ∨ s.stagedInto p n = true) →
      ∃ T, exec (.publ d a) s = .next (s.setThread t T) ∧ Wrote (s.thread t) T s.now d.toNat 1 0) ∧
    (s.clear t 4 → ∃ u v, exec (.snap d a) s = .next u ∧ exec (.unsnap d a) s = .next v ∧
      (∀ k, k ≠ t → u.thread k = s.thread k ∧ v.thread k = s.thread k) ∧ v.mem = s.mem) ∧
    (s.clear t 4 → s.rShd p m = true → s.rSink p m = false → s.rShst p m = 0 →
      (s.entryWrites p m = false → ∃ u T, exec (.snap d a) s = .next u ∧ u.thread t = T ∧ u.rShst p m = 2 ∧
        T.reads d = (if d = 0 then 0 else BitVec.ofNat 64 (s.rGen p m)) ∧ T.pc = (s.thread t).pc + 1 ∧
        sameOutside s u (memKey (s.rCow p m)) (((s.rLimit p m - s.rBase p m + 8191) / 8192 + 7) / 8)) ∧
      (s.entryWrites p m = true → exec (.snap d a) s = .next ({ s with
        snaps := (s.snaps.filter fun (x : Nat × Nat × Nat) => decide (x.1 ≠ t)) ++ [(t, p, m)] }.setThread t
          { s.thread t with nextAt := s.now + 1, held := true }))) ∧
    (s.clear t 4 → (s.rShd p m = false ∨ s.rSink p m = true ∨ s.rShst p m ≠ 0) →
      ∃ u, exec (.snap d a) s = .next u ∧ (u.thread t).reads d = 0 ∧ (u.thread t).pc = (s.thread t).pc + 1 ∧
        { u with threads := s.threads, snaps := s.snaps } = s) ∧
    (s.clear t 4 → s.rShst p m = 2 →
      (s.snapReads p m = false → ∃ u T, exec (.unsnap d a) s = .next u ∧ u.thread t = T ∧ u.rShst p m = 3 ∧
        u.folds = s.folds ++ [(p, m)] ∧ T.reads d = (if d = 0 then 0 else 1) ∧ T.pc = (s.thread t).pc + 1) ∧
      (s.snapReads p m = true → exec (.unsnap d a) s = .next (s.setThread t
        { s.thread t with nextAt := s.now + 1, held := true }))) ∧
    (s.clear t 4 → s.rShst p m ≠ 2 → ∃ u, exec (.unsnap d a) s = .next u ∧ (u.thread t).reads d = 0 ∧
      (u.thread t).pc = (s.thread t).pc + 1 ∧ { u with threads := s.threads } = s)) ∧
  ∀ (s : State) (p n : Nat),
    ((p, n) ∈ s.folds → s.rShst p n = 3 → ∃ u, exec (.foldComplete p n) s = .next u ∧ (p, n) ∉ u.folds ∧
      u.rShst p n = 0 ∧ u.w (rangeAt p n 3) = s.w (rangeAt p n 4) ∧ u.w (rangeAt p n 4) = s.w (rangeAt p n 3) ∧
      u.threads = s.threads) ∧
    (((p, n) ∉ s.folds ∨ s.rShst p n ≠ 3) → exec (.foldComplete p n) s = .next s)

/-- LAUNCH in a cellar thread with a clear release at DEVICE, with a launch serial below 2^64 - 1: refused, D takes 0
and nothing else of the package changes; accepted, the launch serial rises by one, D takes it, and some partition
holds a graph with that serial at a frame boundary, at frame 0. (R212, R320) -/
def Obligations.LaunchStartsAGraphOrAnswersZero : Prop :=
  ∀ (s : State) (t : Nat) (d a : BitVec 6), s.cur = .thread t → (s.thread t).kindIn [.cellar] = true → s.clear t 4 →
    s.launchSerial < 2 ^ 64 - 1 →
    ((s.launchGraph (memKey ((s.thread t).reads a).toNat)).2 = 0 → ∃ T, exec (.launch d a) s = .next (s.setThread t T) ∧
      Wrote (s.thread t) T s.now d.toNat 1 0) ∧
    ((s.launchGraph (memKey ((s.thread t).reads a).toNat)).2 ≠ 0 →
      ∃ u p g, exec (.launch d a) s = .next u ∧ u.launchSerial = s.launchSerial + 1 ∧ (u.part p).graph = some g ∧
        g.serial = s.launchSerial + 1 ∧ (u.part p).stage = .boundary ∧ (u.part p).frame = 0 ∧
        (d ≠ 0 → (u.thread t).reads d = BitVec.ofNat 64 (s.launchSerial + 1)))

/-- SLUICE in a service or cellar thread with a clear release at DEVICE: of a serial that no running graph has it
writes 0 and changes nothing else; of a running graph of this package that it may name, with no sluice in progress, a
timeline input pond, a rate set it has and a frame at whose start every region has PHASE 0, it writes that frame, and
the partition holds the sluice. PAGEPL in a cellar thread with a bit of s[B] set that must be zero freezes with
PROTECT; in a WARM band a page with a role is answered -2; else D takes the pager's answer. (R213, R217, R269, R293)
-/
def Obligations.SluiceAndPlacementAnswerInD : Prop :=
  ∀ (s : State) (t p f : Nat) (d a b : BitVec 6) (g : Graph), s.cur = .thread t →
    ((s.thread t).kindIn [.service, .cellar] = true → s.clear t 4 →
      (s.graphOf ((s.thread t).reads a).toNat = none → ∃ T, exec (.sluice d a b) s = .next (s.setThread t T) ∧
        Wrote (s.thread t) T s.now d.toNat 1 0) ∧
      (s.graphOf ((s.thread t).reads a).toNat = some (p, g) → ((s.thread t).reads b).toNat < 8 →
        (∀ x, g.decl = some x → ((s.thread t).reads b).toNat < x.rates.length) →
        ((s.thread t).asCellar = true ∨ (s.thread t).part = p) → (s.part p).sluice = none → s.timelineIn p = true →
        s.sluiceFrame p = some f → ∃ T, exec (.sluice d a b) s = .next ((s.setPart p
          { s.part p with sluice := some ⟨((s.thread t).reads b).toNat, f, false⟩ }).setThread t T) ∧
        Wrote (s.thread t) T s.now d.toNat 1 (BitVec.ofNat 64 f))) ∧
    ((s.thread t).kindIn [.cellar] = true →
      (pageplBad ((s.thread t).reads b) = true → exec (.pagepl d a b) s = .next (s.freezeThread t 0x06)) ∧
      (pageplBad ((s.thread t).reads b) = false → s.tband = 2 →
        hRole (pageHeader s (memKey ((s.thread t).reads a).toNat)) ≠ 0 →
        ∃ T, exec (.pagepl d a b) s = .next (s.setThread t T) ∧
          Wrote (s.thread t) T s.now d.toNat 1 (BitVec.ofInt 64 (-2))) ∧
      (pageplBad ((s.thread t).reads b) = false → s.tband ≠ 2 →
        ∀ u v, (u, v) = s.pagePlace (memKey ((s.thread t).reads a).toNat) (((s.thread t).reads b).toNat % 16)
            (if bitsOf ((s.thread t).reads b).toNat 31 1 = 1 then some (bitsOf ((s.thread t).reads b).toNat 16 9)
              else none) →
          ∃ T, exec (.pagepl d a b) s = .next (u.setThread t T) ∧ Wrote (u.thread t) T u.now d.toNat 1 v))

/-- SHPFENCE in a thread of kind S, H or C with a clear release at DEVICE, with all or with an address that is a
multiple of 64, answers the next state in which the thread has gone on and the records are dropped from the tile-walk
engines of the partition (of every partition, for a cellar thread): memory, registers and every unit but those engines
are as they were, no engine holds a record it did not hold before, and no engine of a block of a placed region there
holds a record of the address, or with all any record. An address that is no multiple of 64 freezes the thread with
ALIGN and FADDR the address. (R220, R301) -/
def Obligations.ShapeRecordsAreDroppedByShpfence : Prop :=
  ∀ (s : State) (t : Nat) (a : BitVec 6) (all : Bool) (ps : List Nat) (u : State), s.cur = .thread t →
    (s.thread t).kindIn [.service, .handler, .cellar] = true →
    ps = (if (s.thread t).asCellar then List.range 16 else [(s.thread t).part]) →
    u = ps.foldl (fun v p => v.dropRecords p (if all then none else some ((s.thread t).reads a).toNat)) s →
    ((all = true ∨ ((s.thread t).reads a).toNat % 64 = 0) → s.clear t 4 →
      exec (.shpfence a all) s = .next (u.setThread t ((s.thread t).on s.now)) ∧
        { u with twes := s.twes } = s ∧ (∀ k e, e ∈ (u.twe k).recs → e ∈ (s.twe k).recs) ∧
        ∀ p r b n e, p ∈ ps → r ∈ s.regionsOf p → b ∈ blocksOf r (s.region r).w (s.region r).h → n < 4 →
          e ∈ (u.twe (4 * b + n)).recs → all = false ∧ e.1 ≠ ((s.thread t).reads a).toNat) ∧
    (all = false → ((s.thread t).reads a).toNat % 64 ≠ 0 →
      exec (.shpfence a all) s = .next (s.freezeThread t 0x04 ((s.thread t).reads a)))

/-- With a capability that carries the right, in a handler, over a frozen thread that has settled: FINSP of space 0x20
writes register i (item 32: PC) of the frozen thread to D; FPATCH of space 0x20 writes s[D] to register i (1 to 31) or
to PC of the frozen thread, drops the register's parity mark and changes nothing else but the handler's PC. Of an item that the table does not give,
each freezes the handler with CAP. (R224, R225, R226) -/
def Obligations.CapabilitiesInspectAndPatchAFrozenThread : Prop :=
  ∀ (s : State) (t u : Nat) (d a b : BitVec 6) (f : Freeze) (x : Word), s.cur = .thread t →
    (s.thread t).kindIn [.handler] = true → f.unit = .service u → u ≠ t → s.settled f = true →
    x = (s.thread t).reads b → ixSpace x = 0x20 → ixCol x = 0 → ixRow x = 0 →
    (s.capCheck (s.thread t) a.toNat 56 = .ok f →
      (ixItem x ≤ 32 → ∃ T, exec (.finsp d a b) s = .next (s.setThread t T) ∧ Wrote (s.thread t) T s.now d.toNat 1
        (if ixItem x = 32 then (s.thread u).pc else (s.thread u).getR (ixItem x))) ∧
      (36 < ixItem x → exec (.finsp d a b) s = .next (s.freezeCap t 5))) ∧
    (s.capCheck (s.thread t) a.toNat 57 = .ok f →
      (1 ≤ ixItem x → ixItem x ≤ 32 → ∃ v, exec (.fpatch d a b) s = .next v ∧
        v.thread u = (if ixItem x = 32 then { s.thread u with pc := (s.thread t).reads d }
          else { (s.thread u).setR (ixItem x) ((s.thread t).reads d) with
            regUe := (s.thread u).regUe.filter fun k => decide (k ≠ ixItem x) }) ∧
        v.thread t = (s.thread t).on s.now ∧ (∀ k, k ≠ t → k ≠ u → v.thread k = s.thread k) ∧
        { v with threads := s.threads } = s) ∧
      (32 < ixItem x → exec (.fpatch d a b) s = .next (s.freezeCap t 5)))

/-- With a capability that carries the right, in a handler of a partition with no request held behind the freeze, over
a frozen service thread: FRES gives the thread the status it had, to run from the next cycle, and spends the
capability; FKILL (without relocation) ends the thread, whose context is free, and spends it; FSTEP lets it run one
instruction with the handler held; FCLRP of all items changes nothing. The handler goes on with its registers as they
were. (R227, R228, R229, R340) -/
def Obligations.CapabilitiesResumeKillAndStepAFrozenThread : Prop :=
  ∀ (s : State) (t u : Nat) (d a b : BitVec 6) (f : Freeze), s.cur = .thread t → (s.thread t).kindIn [.handler] = true →
    f.unit = .service u → u ≠ t → (s.part f.part).preheld = none → (s.thread u).kind = .service →
    (s.capCheck (s.thread t) a.toNat 58 = .ok f → ∃ v, exec (.fres a) s = .next v ∧
      v.thread u = { s.thread u with status := (s.thread u).saved, nextAt := s.now + 1 } ∧
      v.thread t = (s.thread t).on s.now ∧ v.mem = s.mem ∧
      ∀ g, v.freezeOf f.serial = some g → g.spent = true) ∧
    (s.capCheck (s.thread t) a.toNat 59 = .ok f → ∃ v, exec (.fkill a false) s = .next v ∧ v.thread u = Thread.zero ∧
      v.thread t = (s.thread t).on s.now ∧ v.mem = s.mem ∧ ∀ g, v.freezeOf f.serial = some g → g.spent = true) ∧
    (s.capCheck (s.thread t) a.toNat 60 = .ok f → ∃ v, exec (.fstep d a) s = .next v ∧
      v.thread u = { s.thread u with status := .running, saved := .none, stepBy := some t, nextAt := s.now } ∧
      v.thread t = { s.thread t with status := .waiting (.fstep d.toNat u) } ∧ { v with threads := s.threads } = s) ∧
    (s.capCheck (s.thread t) a.toNat 57 = .ok f → (s.thread t).reads b = BitVec.allOnes 64 →
      exec (.fclrp a b) s = .next (s.setThread t ((s.thread t).on s.now)))

/-- FINSP, FPATCH, FCLRP, FRES, FKILL and FSTEP in a handler freeze it with cause CAP (0x09), with the number of the
failed check in AUX: 1 where the register carries no tag, 2 where the capability is spent, 3 where no freeze has its
serial, 4 where it lacks the right. HCAPQ and HCAPDROP check only the tag. HCAPDROP of a tagged h register in a
handler leaves the register zero with no tag, and no register that held the same capability with a tag; PC is at the
next word, no s register and no other thread changes, and an unspent freeze that this handler held waits again at the
head of its queue. (R224, R229, R340, R186) -/
def Obligations.CapabilitiesAreRefusedOrGivenUp : Prop :=
  (∀ (s : State) (t n right : Nat) (d a b : BitVec 6) (i : Instr), s.cur = .thread t → (s.thread t).kindIn [.handler] = true →
      (i, right) ∈ [(Instr.finsp d a b, 56), (.fpatch d a b, 57), (.fclrp a b, 57), (.fres a, 58), (.fkill a false, 59),
        (.fkill a true, 59), (.fstep d a, 60)] →
      (s.capCheck (s.thread t) a.toNat right = .error n → exec i s = .next (s.freezeCap t n)) ∧
      ((s.thread t).tag a.toNat = false → s.capCheck (s.thread t) a.toNat right = .error 1 ∧
        exec (.hcapq d a) s = .next (s.freezeCap t 1) ∧ exec (.hcapdrop a) s = .next (s.freezeCap t 1)) ∧
      ∀ f, (s.thread t).tag a.toNat = true → s.freezeOf (((s.thread t).reads a).toNat % 2 ^ 32) = some f →
        (f.spent = true → s.capCheck (s.thread t) a.toNat right = .error 2) ∧
        (f.spent = false → ((s.thread t).reads a).toNat.testBit right = false →
          s.capCheck (s.thread t) a.toNat right = .error 4)) ∧
  (∀ (s : State) (t : Nat) (a : BitVec 6) (n : Nat), s.cur = .thread t → (s.thread t).kindIn [.handler] = true →
      (s.thread t).tag a.toNat = true → 32 ≤ a.toNat → a.toNat < 36 → n = ((s.thread t).reads a).toNat % 2 ^ 32 →
      ∃ u, exec (.hcapdrop a) s = .next u ∧ (u.thread t).reads a = 0 ∧ (u.thread t).tag a.toNat = false ∧
        (∀ r, r < 32 → (u.thread t).getR r = (s.thread t).getR r) ∧
        (∀ r, 32 ≤ r → r < 36 → ((s.thread t).getR r).toNat % 2 ^ 32 = n → (u.thread t).tag r = false) ∧
        (u.thread t).pc = (s.thread t).pc + 1 ∧ (∀ k, k ≠ t → u.thread k = s.thread k) ∧ u.mem = s.mem ∧
        ∀ f, f ∈ s.freezes → f.serial = n → f.handler = some t → f.spent = false →
          { f with handler := none, dropped := true } ∈ u.freezes)

/-- VADD, VSUB, VMUL, VMIN, VMAX, VDIV, VFMA, VFMS, VFNMA, VABS, VNEG, VRCP, VRSQ, VSQRT, VEXP2, VLOG2, VIADD, VISUB,
VIMUL, VIMIN, VIMAX, VIMAD, VAND, VOR, VXOR, VNOT, VSHL, VSHR, VSAR, VCLZ, VPOPC and VRNG in a tile answer the state
in which only that tile changed, by one delivery from each station the word runs in (both with X, in the twin forms),
after the table's latency: each element that the mask selects holds the pattern of the table elementwise and is
poisoned where a source element is; the others are not written. Of an element type that the instruction does not
accept, every selected element is zero and poisoned. (R97, R98, R138, R139, R140, R141, R144, R145, R157) -/
def Obligations.ElementwiseVectorResults : Prop :=
  ∀ (i : Instr) (s : State) (r u word iter : Nat) (T : Tile) (c : FabCtx), s.cur = .tile r u word iter → T = s.tile u →
    c = s.fabCtx r u word iter →
    ∀ o acc lat n f, elementwise T c i = some (o, acc, lat, n, f) →
      ∃ v out, exec i s = .next v ∧
        s.delivers v u c o (if o.x then [0, 1] else [o.st.toNat]) (fun st => lat (T.etype st)) out ∧
        ∀ st t a b d, t = T.etype st → a = T.operand c st o.va.toNat t.w → b = T.operand c st o.vb.toNat t.w →
          d = T.vreg st o.vd.toNat →
          (out st).holds t.w t.n (fun j => if T.maskBit o.k.toNat j then
            some (if acc t then f st t j (a.elem t.w j) (b.elem t.w j) (d.elem t.w j) else 0) else none) ∧
          ∀ j, j < t.n → (out st).poisoned j =
            (T.maskBit o.k.toNat j && (!acc t || sourcePoison a b d t.w n j))

/-- VCMPEQ, VCMPNE, VCMPLT, VCMPLE, VKAND, VKOR, VKNOT and VKMOV of a mask register in a tile answer the state in
which only that tile changed, by one delivery to mask register VD two cycles later, of the value of the table
maskResult (bits of masked-off elements and at or above the element count are 0). A comparison that reads a poisoned
selected element delivers a sink of kind mask instead. (R141, R146, R148, R351) -/
def Obligations.VectorComparisonsAndMasksWriteAMask : Prop :=
  ∀ (i : Instr) (s : State) (r u word iter : Nat) (T : Tile) (c : FabCtx), s.cur = .tile r u word iter → T = s.tile u →
    c = s.fabCtx r u word iter →
    ∀ o m t a b, t = T.etype o.st.toNat → a = T.operand c o.st.toNat o.va.toNat t.w → b = T.operand c o.st.toNat o.vb.toNat t.w →
      maskResult t.n (fun k => (T.kreg k).toNat) (T.maskBit o.k.toNat)
        (fun j => t.cmp (a.elem t.w j) (b.elem t.w j)) i = some (o, m) →
      ∃ v d, exec i s = .next v ∧ s.onlyTile v u { T with dels := T.dels ++ [d] } ∧ d.at_ = c.cyc + 2 ∧
        ((i = .vkand o ∨ i = .vkor o ∨ i = .vknot o ∨ i = .vkmov o ∨
            ∀ j, j < t.n → T.maskBit o.k.toNat j = true → a.epois t.w j = false ∧ b.epois t.w j = false) →
          d.dst = .kreg o.vd.toNat ∧ d.line.bits = BitVec.ofNat 512 (m % 2 ^ 64)) ∧
        ((i = .vcmpeq o ∨ i = .vcmpne o ∨ i = .vcmplt o ∨ i = .vcmple o) →
          (∃ j, j < t.n ∧ T.maskBit o.k.toNat j = true ∧ (a.epois t.w j = true ∨ b.epois t.w j = true)) →
          ∃ k, d.dst = .sink k ∧ k.detail = 7)

/-- VPACK, VUNPK, VPERM, VBCST, VROT and VMOV in a tile, of a type that they accept, change only that tile, by one
delivery after the latency of the table moved, whose element i holds the pattern the table gives, where the mask
selects it; VPACK and VUNPK of another type deliver zero and poisoned elements. VSEL delivers, from each station it runs
in, two cycles later the element of A where the mask bit is set and that of B where it is not, with its poison. A copied
F19 element has bits [12:0] clear. (R81, R138, R140, R147, R152, R156) -/
def Obligations.VectorMovesSelectAndPack : Prop :=
  ∀ (i : Instr) (s : State) (r u word iter : Nat) (T : Tile) (c : FabCtx), s.cur = .tile r u word iter → T = s.tile u →
    c = s.fabCtx r u word iter →
    (∀ o lat w n f t, t = T.etype o.st.toNat →
      moved t (T.sat o.st.toNat) (T.maskBit o.k.toNat) ((T.operand c o.st.toNat o.va.toNat t.w).elem t.w)
        ((T.operand c o.st.toNat o.vb.toNat t.w).elem t.w) i = some (o, lat, w, n, f) →
      ∃ v out, exec i s = .next v ∧ s.delivers v u c o [o.st.toNat] (fun _ => lat) (fun _ => out) ∧ out.holds w n f) ∧
    (∀ o t, t = T.etype o.st.toNat → ((i = .vpack o ∧ accPack t = false) ∨ (i = .vunpk o ∧ accUnpk t = false)) →
      ∃ v out, exec i s = .next v ∧ s.delivers v u c o [o.st.toNat] (fun _ => 4) (fun _ => out) ∧
        out.holds t.w t.n (fun j => if T.maskBit o.k.toNat j then some 0 else none) ∧
        ∀ j, j < t.n → out.poisoned j = T.maskBit o.k.toNat j) ∧
    ∀ o, ∃ v out, exec (.vsel o) s = .next v ∧
      s.delivers v u c o (if o.x then [0, 1] else [o.st.toNat]) (fun _ => 2) out ∧
      ∀ st t a b, t = T.etype st → a = T.operand c st o.va.toNat t.w → b = T.operand c st o.vb.toNat t.w →
        (out st).holds t.w t.n (fun j => some (t.clean (if T.maskBit o.k.toNat j then a.elem t.w j
          else b.elem t.w j))) ∧
        ∀ j, j < t.n → (out st).poisoned j = if T.maskBit o.k.toNat j then a.epois t.w j else b.epois t.w j

/-- In a tile, four cycles later, VCVT and VCVTC deliver each selected element converted from the source type under
R97 to R99, and VCVTC poisons the elements that overflow; VIOTA delivers a[0] + i two cycles later; VDROP, on a
floating type, delivers zero where the dropout draw of the element lies below the threshold and the scaled element
where not, six cycles later. Only that tile changes. (R97, R99, R149, R156, R158) -/
def Obligations.VectorConversionsRoundEachElement : Prop :=
  ∀ (s : State) (r u word iter : Nat) (T : Tile) (c : FabCtx), s.cur = .tile r u word iter → T = s.tile u →
    c = s.fabCtx r u word iter →
    ∀ o st t m, st = o.st.toNat → t = T.etype st → m = T.maskBit o.k.toNat →
    (∀ chk src a, src = EType.ofCode o.vb.toNat → a = T.operand c st o.va.toNat src.w →
      ∃ v out, exec (if chk then .vcvtc o else .vcvt o) s = .next v ∧
        s.delivers v u c o [st] (fun _ => 4) (fun _ => out) ∧
        out.holds t.w t.n (fun j => if m j then (convIndex src.n t.n o.x.toNat j).map fun k =>
          (convElem (T.rm st) (T.sat st) (T.draw c st j) src t (a.elem src.w k)).1 else none) ∧
        ∀ j k, j < t.n → m j = true → convIndex src.n t.n o.x.toNat j = some k →
          out.poisoned j = (a.epois src.w k ||
            (chk && (convElem (T.rm st) (T.sat st) (T.draw c st j) src t (a.elem src.w k)).2))) ∧
    (∀ a, a = T.operand c st o.va.toNat t.w → ∃ v out, exec (.viota o) s = .next v ∧
      s.delivers v u c o [st] (fun _ => 2) (fun _ => out) ∧
      (t.isFlt = false → out.holds t.w t.n (fun j => if m j then
        some (fitInt t.signed (T.sat st) t.w (t.int (a.elem t.w 0) + j)) else none)) ∧
      (t.isFlt = true → out.holds t.w t.n (fun j => if m j then
        some (T.rnd c st j t (.exact (FVal.add (T.rm st) (t.val (a.elem t.w 0)) (.fin false j 0)))) else none))) ∧
    ∃ v out, exec (.vdrop o) s = .next v ∧
      s.delivers v u c o (if o.x then [0, 1] else [st]) (fun _ => 6) out ∧
      ∀ q y a b, y = T.etype q → y.isFlt = true → a = T.operand c q o.va.toNat y.w → b = T.operand c q o.vb.toNat y.w →
        (out q).holds y.w y.n (fun j => if m j then
          some (if T.dropDraw ((b.bits.toNat % 2 ^ 48 + j) % 2 ^ 48) < T.dropthr.toNat % 2 ^ 32 then 0
            else T.rnd c q j y (.exact (FVal.mul (y.val (a.elem y.w j)) (Fmt.fp32.decode (bitsOf T.dropthr.toNat 32 32)))))
          else none)

/-- In a tile, six cycles later, VRSUM of an integer type delivers the exact sum of the selected elements (with X, and
of element 0 of B), wrapped or clamped once, in element 0 and zeros elsewhere; of a floating type, and VRMAX and VRMIN
of any type, element 0 is the tree reduction of R153, rounded into the type. Only that tile changes. (R153) -/
def Obligations.VectorReductionsDeliverElementZero : Prop :=
  ∀ (s : State) (r u word iter : Nat) (T : Tile) (c : FabCtx), s.cur = .tile r u word iter → T = s.tile u →
    c = s.fabCtx r u word iter →
    ∀ o st t a b m, st = o.st.toNat → t = T.etype st → a = T.operand c st o.va.toNat t.w → b = T.operand c st o.vb.toNat t.w →
    m = T.maskBit o.k.toNat →
    (t.isFlt = false → ∃ v out, exec (.vrsum o) s = .next v ∧ s.delivers v u c o [st] (fun _ => 6) (fun _ => out) ∧
      out.holds t.w t.n (fun j => some (if j = 0 then fitInt t.signed (T.sat st) t.w
        (((List.range t.n).foldl (fun x k => if m k then x + t.int (a.elem t.w k) else x) 0) +
          (if o.x then t.int (b.elem t.w 0) else 0)) else 0))) ∧
    ∀ k i, (k, i) ∈ [(RedKind.sum, Instr.vrsum o), (.max, .vrmax o), (.min, .vrmin o)] → (k = .sum → t.isFlt = true) →
      ∃ v out, exec i s = .next v ∧ s.delivers v u c o [st] (fun _ => 6) (fun _ => out) ∧
      ∀ z, z = (match treeFold (redOp T c st k t) 6
          ((List.range t.n).map fun j => if m j then some (a.elem t.w j, j) else none) with
        | some (y, j) => if o.x then redOp T c st k t j y (b.elem t.w 0) else y
        | none => if o.x then redOp T c st k t 0 (redEmpty k t) (b.elem t.w 0) else redEmpty k t) →
        out.holds t.w t.n (fun j => some (if j = 0 then (if t.isFlt then T.rnd c st 0 t (.exact (t.val z)) else z) else 0))

/-- In a tile: VDQNT of a type it accepts delivers, four cycles later, the selected elements of a twin-exponent block
decoded under its scale word and rounded; VQNT, of 16-bit elements or of a register pair of 32-bit ones, the 64 bytes of
the block of R100 to R102, scale word on top; VRSUMM, six cycles later, the masked sums to VD and the counts to VD + 1,
from those registers or (X = 1) from nothing; VRSCL the rescaled elements to VD and, to mask register K (not k0), the
recorded bits. Of another type each delivers zero and poisoned elements. Only that tile changes, by those deliveries.
(R81, R87, R100, R101, R102, R110, R140, R150, R151, R154, R155) -/
def Obligations.BlockFormatsAndMaskedStatistics : Prop :=
  ∀ (s : State) (r u word iter : Nat) (T : Tile) (c : FabCtx), s.cur = .tile r u word iter → T = s.tile u →
    c = s.fabCtx r u word iter →
    ∀ o st t a m, st = o.st.toNat → t = T.etype st → a = T.operand c st o.va.toNat t.w → m = T.maskBit o.k.toNat →
    (∃ v out, exec (.vdqnt o) s = .next v ∧ s.delivers v u c o [st] (fun _ => 4) (fun _ => out) ∧
      (accQt t = true → (t.w = 32 ∨ o.x = false) →
        out.holds t.w t.n (fun j => if m j then some (T.rnd c st j t (.exact (((Txb.ofCode o.vb.toNat).value
          (elem a.bits.toNat 32 15) (elem a.bits.toNat (Txb.ofCode o.vb.toNat).w
            (if t.w = 32 then 16 * o.x.toNat + j else j))).getD (.fin false 0 0)))) else none)) ∧
      (¬(accQt t = true ∧ (t.w = 32 ∨ o.x = false)) → out.holds t.w t.n (fun j => if m j then some 0 else none) ∧
        ∀ j, j < t.n → out.poisoned j = m j)) ∧
    (∃ v out, exec (.vqnt o) s = .next v ∧ s.delivers v u c o [st] (fun _ => 4) (fun _ => out) ∧
      (∀ y b, accQt t = true → b = (if t.w = 32 then T.vreg st (o.va.toNat + 1) else Line.zero) →
        (t.w = 32 → o.va.toNat ≤ 11 ∧ o.va.toNat % 2 = 0) → a.pois = 0 → b.pois = 0 →
        y = txbQuantise (Txb.ofCode o.vb.toNat) (if o.x then bitsOf T.scale.toNat 24 8 else 0)
          ((List.range 32).map fun j => t.val (if t.w = 32 then (if j < 16 then a.elem 32 j else b.elem 32 (j - 16))
            else a.elem 16 j)) →
        out.holds 8 64 (fun j => some (elem (VOut.bits (Txb.ofCode o.vb.toNat).w (y.2.map fun q => some (q, false)) +
          y.1 * 2 ^ 480) 8 j))) ∧
      ((accQt t = false ∨ (t.w = 32 ∧ ¬(o.va.toNat ≤ 11 ∧ o.va.toNat % 2 = 0))) → out.holds 8 64 (fun _ => some 0) ∧
        ∀ j, j < 64 → out.poisoned j = true)) ∧
    (∃ v sum cnt, exec (.vrsumm o) s = .next v ∧
      s.onlyTile v u ((T.emit c st o.vd.toNat false 6 sum).emit c st (o.vd.toNat + 1) false 6 cnt) ∧
      (accMs t = true → o.x = false →
        cnt.holds 32 (min t.n 16) (fun j => some (if m j then min ((T.vreg st (o.vd.toNat + 1)).elem 32 j + 1) (2 ^ 32 - 1)
          else (T.vreg st (o.vd.toNat + 1)).elem 32 j)) ∧
        sum.holds t.w t.n (fun j => some (if m j then (if t.isFlt then T.rnd c st j t (.exact (FVal.add (T.rm st)
            (t.val ((T.vreg st o.vd.toNat).elem t.w j)) (t.val (a.elem t.w j))))
            else fitInt t.signed (T.sat st) t.w (t.int ((T.vreg st o.vd.toNat).elem t.w j) + t.int (a.elem t.w j)))
          else (T.vreg st o.vd.toNat).elem t.w j))) ∧
      (accMs t = true → o.x = true → cnt.holds 32 (min t.n 16) (fun j => some (if m j then 1 else 0)) ∧
        sum.holds t.w t.n (fun j => some (if m j then t.clean (a.elem t.w j) else 0))) ∧
      (accMs t = false → sum.holds t.w t.n (fun _ => some 0) ∧ cnt.holds 32 (min t.n 16) (fun _ => some 0) ∧
        (∀ j, j < t.n → sum.poisoned j = true) ∧ ∀ j, j < min t.n 16 → cnt.poisoned j = true)) ∧
    ∃ v out k org, exec (.vrscl o) s = .next v ∧
      s.onlyTile v u (if o.k = 0 then T.emit c st o.vd.toNat o.x 6 out
        else (T.emit c st o.vd.toNat o.x 6 out).emitK c slotV o.k.toNat 6 k org) ∧
      (∀ b z, accMs t = true → b = T.operand c st o.vb.toNat t.w → z = (fun j => rescale (T.sat st) t
          ((T.vreg st o.va.toNat).elem t.w j) (b.elem t.w j % 2 ^ 32) ((T.vreg st (o.va.toNat + 1)).elem 32 j)) →
        out.holds t.w t.n (fun j => some (z j).1) ∧ k = bitsFrom (fun j => (z j).2) t.n) ∧
      (accMs t = false → out.holds t.w t.n (fun _ => some 0) ∧ (∀ j, j < t.n → out.poisoned j = true) ∧
        (o.k ≠ 0 → org.isSome = true))

/-- A result that a V-slot instruction delivers to vector register VD of a station after a latency, with no other
delivery on its way in the tile, is in the register at the start of the cycle it is due in: the bytes of the elements
written are the result's, and every other byte is as before. A mask delivered to k1 to k7 is in that register two
cycles later; k0 always reads as all ones. (R39, R51, R137, R138) -/
def Obligations.VectorDeliveriesLandInRegisters : Prop :=
  ∀ (T : Tile) (c : FabCtx) (st vd lat m k : Nat) (x : Bool) (out : VOut) (b : Nat), T.dels = [] → vd ≤ 11 → b < 64 →
    (bitsOf ((((T.emit c st vd x lat out).tick (c.cyc + lat)).vreg st vd).bits.toNat) (8 * b) 8 =
      if out.mask.toNat.testBit b then bitsOf out.line.bits.toNat (8 * b) 8
      else bitsOf (T.vreg st vd).bits.toNat (8 * b) 8) ∧
    ((T.emit c st vd x lat out).tick (c.cyc + lat)).banks = T.banks ∧
    (k ≠ 0 → ((T.emitK c slotV k 2 m none).tick (c.cyc + 2)).kreg k = BitVec.ofNat 64 m) ∧
    ((T.emitK c slotV k 2 m none).tick (c.cyc + 2)).kreg 0 = BitVec.allOnes 64

/-- In a tile: MXHDR puts the low 23 bits of its source in FH (FCC becomes 0) or SH, or over poison in bytes 0 to 2
sends a vat sink. MXBUB counts one bubble, saturating, and steps FCC modulo 512. MXCLR makes every cell of its
accumulator zero and AFMT, FLAGS, BUBCNT and LIVE 0, or sends a vat sink where a cell is poisoned. MXACCF writes bits
[31:23] of ACCST alone. MXSTAT delivers flags, bubble count or residue rows to a mask register, or all and LIVE to a
vector register, two cycles later. MXSWAPB makes the other buffer active, with SH as its header. No other tile, region
or state changes. (R109, R114, R116, R123, R126, R128, R129, R130, R135) -/
def Obligations.VatHeadersStatusAndBuffers : Prop :=
  ∀ (s : State) (r u word iter : Nat) (T : Tile) (c : FabCtx), s.cur = .tile r u word iter → T = s.tile u →
    c = s.fabCtx r u word iter →
    (∀ (stat opnd st : Bool) (src : BitVec 4) (hd : BitVec 2) (x : Line) (n : Nat),
      x = T.operand c st.toNat src.toNat 64 → n = (if stat then 5 else 4) →
      ((opnd = true ∧ x.bytePois 0 3 = true) → ∃ v, exec (.mxhdr stat opnd src st hd) s = .next v ∧
        s.fabric v r [(u, T)] [c.sinkTok slotM x.org skVat]) ∧
      (¬ (opnd = true ∧ x.bytePois 0 3 = true) → ∃ v X, exec (.mxhdr stat opnd src st hd) s = .next v ∧
        s.fabric v r [(u, X)] [] ∧ { X with vctl := T.vctl } = T ∧
        (X.vctl.header n).toNat = (if opnd then x.bits.toNat else (T.vctl.header hd.toNat).toNat) % 2 ^ 23 ∧
        (∀ k, k ≠ n → X.vctl.header k = T.vctl.header k) ∧ X.vctl.fcc = if stat then T.vctl.fcc else 0)) ∧
    (∀ acc : BitVec 2, ∃ v X, exec (.mxbub acc) s = .next v ∧ s.fabric v r [(u, X)] [] ∧
      X.vctl.fcc = (T.vctl.fcc + 1) % 512 ∧ X.vat.acc = T.vat.acc ∧ X.vat.bbuf = T.vat.bbuf ∧
      stBub (X.vat.st (T.vat.home acc.toNat)) = min (stBub (T.vat.st (T.vat.home acc.toNat)) + 1) 0xFFFF ∧
      ∀ a, a ≠ T.vat.home acc.toNat → X.vat.st a = T.vat.st a) ∧
    (∀ acc : BitVec 2,
      (∀ org, T.vat.clearPois acc.toNat = some org → ∃ v, exec (.mxclr acc) s = .next v ∧
        s.fabric v r [(u, T)] [c.sinkTok slotM org skVat]) ∧
      (T.vat.clearPois acc.toNat = none → ∃ v X, exec (.mxclr acc) s = .next v ∧ s.fabric v r [(u, X)] [] ∧
        { X with vat := T.vat } = T ∧ X.vat.bbuf = T.vat.bbuf ∧
        (∀ a i j, i < 32 → j < 32 → X.vat.cell a i j = if a ∈ T.vat.halves acc.toNat then 0 else T.vat.cell a i j) ∧
        ∀ a ∈ T.vat.halves acc.toNat, stAfmt (X.vat.st a) = 0 ∧ stFlags (X.vat.st a) = 0 ∧ stBub (X.vat.st a) = 0 ∧
          stLive (X.vat.st a) = 0)) ∧
    (∀ (acc : BitVec 2) (rm : BitVec 4) (sat if32 : Bool) (dr : BitVec 4), ∃ v X,
      exec (.mxaccf acc rm sat if32 dr) s = .next v ∧ s.fabric v r [(u, X)] [] ∧
      { X with vat := { X.vat with accst := T.vat.accst } } = T ∧
      stRm (X.vat.st acc.toNat) = rm.toNat % 8 ∧ stSat (X.vat.st acc.toNat) = sat ∧ stIf32 (X.vat.st acc.toNat) = if32 ∧
      stDrain (X.vat.st acc.toNat) = dr.toNat ∧ X.vat.st acc.toNat % 2 ^ 23 = T.vat.st acc.toNat % 2 ^ 23 ∧
      stLive (X.vat.st acc.toNat) = stLive (T.vat.st acc.toNat) ∧ ∀ a, a ≠ acc.toNat → X.vat.st a = T.vat.st a) ∧
    (∀ (acc form : BitVec 2) (dst : BitVec 4) (st : Bool) (a : Nat), a = T.vat.accstRead acc.toNat →
      ∃ v d, exec (.mxstat acc form dst st) s = .next v ∧ s.fabric v r [(u, { T with dels := T.dels ++ [d] })] [] ∧
      d.at_ = c.cyc + 2 ∧ d.dst = (if form = 3 then .vreg st.toNat dst.toNat else .kreg dst.toNat) ∧ d.line.pois = 0 ∧
      d.line.elem 32 0 = (if form = 1 then stBub a else if form = 2 then T.vat.residRows acc.toNat else stFlags a) ∧
      d.line.elem 32 1 = (if form = 3 then stBub a else 0) ∧
      d.line.elem 32 2 = (if form = 3 then T.vat.residRows acc.toNat else 0) ∧
      d.line.elem 32 3 = (if form = 3 then stLive a else 0)) ∧
    ∃ v X, exec .mxswapb s = .next v ∧ s.fabric v r [(u, X)] [] ∧ { X with vctl := T.vctl } = T ∧
      X.vctl.abuf = 1 - T.vctl.abuf ∧ (X.vctl.header (6 + X.vctl.abuf)).toNat = (T.vctl.header 5).toNat % 2 ^ 23 ∧ X.vctl.fcc = T.vctl.fcc ∧
      ∀ k, k ≠ 6 + X.vctl.abuf → X.vctl.header k = T.vctl.header k

/-- In a tile: MXLDB puts the image of its lane set into a slot of the inactive buffer (over poison, a vat sink) or 64
words into a scale store; MXLDBT the transposed image, or faults on a block format. MXFEED of an unpaired vat steps
FCC and, with a fault, marks every cell of its accumulators; else counts a bubble column, or puts into every cell its
old value (none with FIRST) plus the exact sum of the column's products. MXDRN delivers the converted elements of a
row to AOUT two cycles later, to a lane three; MXDRNC also zeroes the row. MXPAIR and MXSOLO change the binding when
both partners have executed them, the east one a cycle after the west one (usable two cycles after each, log entry 104),
else set PMIS in both; in a pair each vat takes its own column or, linked, the west one's, and an east feed that finds no
partner marks both and sets PMIS in both. (R103, R104, R105, R118, R121, R124, R125, R127, R130, R133, R134, R135) -/
def Obligations.VatLoadsFeedsAndDrains : Prop :=
  ∀ (s : State) (r u word iter : Nat) (T : Tile) (c : FabCtx), s.cur = .tile r u word iter → T = s.tile u →
    c = s.fabCtx r u word iter →
    (∀ (side : Bool) (ls : BitVec 4) (n : BitVec 5) (img : Col) (key base : Nat), img = (T.feedImage c ls.toNat).1 →
      key = 32 * (1 - T.vctl.abuf) + n.toNat → base = (if side then 512 else 0) + 64 * n.toNat →
      ((tget Col.zero T.vat.bbuf key).pois = 0 → ∃ v X, exec (.mxldb false side ls n) s = .next v ∧
        s.fabric v r [(u, X)] [] ∧ { X with vat := { X.vat with bbuf := T.vat.bbuf } } = T ∧
        tget Col.zero X.vat.bbuf key = img ∧ ∀ k, k ≠ key → tget Col.zero X.vat.bbuf k = tget Col.zero T.vat.bbuf k) ∧
      ((tget Col.zero T.vat.bbuf key).pois ≠ 0 → ∃ v, exec (.mxldb false side ls n) s = .next v ∧
        s.fabric v r [(u, T)] [c.sinkTok slotM (tget Col.zero T.vat.bbuf key).org skVat]) ∧
      (T.vctl.chunkPois base = none → ∃ v X, exec (.mxldb true side ls n) s = .next v ∧ s.fabric v r [(u, X)] [] ∧
        { X with vctl := T.vctl } = T ∧ ∀ k, tget 0 X.vctl.scl k = if base ≤ k ∧ k < base + 64 then
          BitVec.ofNat 32 (elem img.bits.toNat 32 (k - base)) else tget 0 T.vctl.scl k) ∧
      (∀ org, T.vctl.chunkPois base = some org → ∃ v, exec (.mxldb true side ls n) s = .next v ∧
        s.fabric v r [(u, T)] [c.sinkTok slotM org skVat])) ∧
    (∀ (ls : BitVec 4) (n : BitVec 5) (key kc : Nat) (f : VFmt) (img : Col), img = (T.feedImage c ls.toNat).1 →
      key = 32 * (1 - T.vctl.abuf) + n.toNat → f = hFmt (T.vctl.header 5) → kc = colDepth (hFmt (T.vctl.header 4)) f →
      (f.block = true → ∃ v X, exec (.mxldbt ls n) s = .next v ∧ s.fabric v r [(u, X)] [] ∧ X.vat.acc = T.vat.acc ∧
        ∀ a i j, a < 4 → i < 32 → j < 32 → X.vat.poisoned a i j = true) ∧
      (f.block = false → (tget Col.zero T.vat.bbuf key).pois = 0 → ∃ v X, exec (.mxldbt ls n) s = .next v ∧
        s.fabric v r [(u, X)] [] ∧ { X with vat := { X.vat with bbuf := T.vat.bbuf } } = T ∧
        ∀ t j, t < kc → j < 32 → elem (tget Col.zero X.vat.bbuf key).bits.toNat f.w (kc * j + t) =
          elem img.bits.toNat f.w (32 * t + j)) ∧
      (f.block = false → (tget Col.zero T.vat.bbuf key).pois ≠ 0 → ∃ v, exec (.mxldbt ls n) s = .next v ∧
        s.fabric v r [(u, T)] [c.sinkTok slotM (tget Col.zero T.vat.bbuf key).org skVat])) ∧
    (∀ (acc : BitVec 2) (ls : BitVec 4) (first : Bool) (slot : BitVec 5) (n kc : Nat) (fed : Fed) (i : Instr),
      i = .mxfeed acc ls first slot → n = acc.toNat → kc = colDepth (hFmt (T.vctl.header 4)) (hFmt T.statHdr) →
      fed = T.takeFeed c ls.toNat →
      ((T.vctl.paired = false ∨ T.vctl.peast = false) → ∃ v X tk, exec i s = .next v ∧ s.fabric v r [(u, X)] tk ∧
        X.vctl.pend = (if T.vctl.paired then T.vctl.pend ++ [(c.cyc, .feed n first slot.toNat (T.faultAccs n) fed
          (T.feedFault fed n first slot.toNat) (c.origin slotM 0x16) T.vat X.vat)] else T.vctl.pend) ∧
        (T.feedFault fed n first slot.toNat = true → tk = [] ∧ X.vctl.fcc = (T.vctl.fcc + 1) % 512 ∧
          X.vat.acc = T.vat.acc ∧ ∀ a ∈ T.faultAccs n, ∀ i j, i < 32 → j < 32 → X.vat.poisoned a i j = true) ∧
        (T.feedFault fed n first slot.toNat = false → T.TakesColumn X c fed n first slot.toNat tk)) ∧
      (T.vctl.paired = true → T.vctl.peast = true → ∃ v, exec i s = .next v ∧ ∀ W, W = s.tile (u - 1) → u % 2 = 1 →
        (W.vctl.westFeed c.cyc = none → ∃ X Y, s.fabric v r [(u, X), (u - 1, Y)] [] ∧ X.vctl.pmis = true ∧
          Y.vctl.pmis = true ∧ ∀ i j, i < 32 → j < 32 → X.vat.poisoned n i j = true ∧ Y.vat.poisoned n i j = true) ∧
        ∀ nW aW fW oW vW xW g, W.vctl.westFeed c.cyc = some (nW, aW, fW, false, oW, vW, xW) →
          g = (if T.vctl.plink then fW else fed) →
          (T.vctl.plink = true → fW.kc = kc ∧ fW.cyc = colCycles T.feedFmt T.statFmt) →
          T.feedFault g n first slot.toNat = false → ∃ X tk,
            s.fabric v r [(u, X), (u - 1, { W with vctl := W.vctl.takeWest c.cyc })] tk ∧
            T.TakesColumn X c g n first slot.toNat tk)) ∧
    (∀ (clr : Bool) (acc : BitVec 2) (lane : BitVec 4) (row : BitVec 5) (part : BitVec 2) (t : EType) (n : Nat),
      n = acc.toNat → t = EType.ofCode (stDrain (T.vat.st (T.vat.home n))) →
      ∃ v X l tk, exec (if clr then .mxdrnc acc lane row part else .mxdrn acc lane row part) s = .next v ∧
        s.fabric v r [(u, X)] tk ∧
        X.dels = T.dels ++ [⟨c.cyc + 2, .aout, l, BitVec.allOnes 64⟩] ++
          (if lane.toNat ≤ 7 then [⟨c.cyc + 3, .lane lane.toNat posVat, l, BitVec.allOnes 64⟩] else []) ∧
        (¬ (stAfmt (T.vat.st n) = 3 ∧ n % 2 = 1) → ∀ j, part.toNat * (512 / t.w) + j < 32 → j < 512 / t.w →
          l.elem t.w j = (T.drainCell c n row.toNat (part.toNat * (512 / t.w) + j)).1 % 2 ^ t.w) ∧
        (clr = false → tk = [] ∧ X.vat.acc = T.vat.acc) ∧
        (clr = true → (∀ org, T.vat.rowPois n row.toNat = some org → tk = [c.sinkTok slotM org skVat] ∧
            X.vat.acc = T.vat.acc) ∧
          (T.vat.rowPois n row.toNat = none → tk = [] ∧ ∀ a i j, i < 32 → j < 32 → X.vat.cell a i j =
            if a ∈ T.vat.halves n ∧ i = row.toNat then 0 else T.vat.cell a i j))) ∧
    (∀ (on : Bool) (i : Instr) (op : PairOp) (W : Tile), i = (if on then .mxpair else .mxsolo) →
      op = (if on then .bind else .unbind) → W = s.tile (u - 1) →
      (u % 2 = 0 → ∃ v X, exec i s = .next v ∧ s.fabric v r [(u, X)] [] ∧ X.vctl.pend = T.vctl.pend ++ [(c.cyc, op)] ∧
        { X with vctl := { X.vctl with pend := T.vctl.pend } } = T) ∧
      (u % 2 = 1 → ∃ v Y, exec i s = .next v ∧ s.fabric v r [(u - 1, Y)] [] ∧
        { Y with vctl := { Y.vctl with pend := W.vctl.pend } } = W ∧
        (∀ l m, 0 < c.cyc → W.vctl.pend = l ++ (c.cyc - 1, op) :: m → (c.cyc - 1, op) ∉ l →
          Y.vctl.pend = l ++ (c.cyc - 1, .met on) :: m) ∧
        ((∀ e ∈ W.vctl.pend, e.1 + 1 = c.cyc → e.2 ≠ op) → Y.vctl.pend = W.vctl.pend ++ [(c.cyc - 1, .missed)]))) ∧
    ∀ (ts : Tab Tile) (west n : Nat) (op : PairOp), (tget Tile.zero ts west).vctl.pend = [(n, op)] →
      (∀ on, op = .met on →
        ((tget Tile.zero (pairExpire (n + 2) ts west) west).vctl.paired = on ∧
          (tget Tile.zero (pairExpire (n + 2) ts west) west).vctl.peast = false) ∧
        (tget Tile.zero (pairExpire (n + 3) ts west) (west + 1)).vctl.paired = on ∧
          (tget Tile.zero (pairExpire (n + 3) ts west) (west + 1)).vctl.peast = on) ∧
      ((op = .bind ∨ op = .unbind ∨ op = .missed) →
        (tget Tile.zero (pairExpire (n + 2) ts west) west).vctl.pmis = true ∧
        (tget Tile.zero (pairExpire (n + 2) ts west) (west + 1)).vctl.pmis = true)

/-- In a tile: PRD delivers to PIN three cycles later the line of the slot at the working read index; a first read
that fails a check of R163 sends its token and delivers poison, a sluice slot reads as zero, a slot marked POIS as
poison. PWR writes POUT to the slot at the working write index, one cycle later: over a slot that is FULL or STAGED by an
earlier firing FULLBIT and no write, a poisoned value a sink (kind 1) and the slot POIS, the last line closes the slot with tag and stamp, counts
one produced token and steps the index; without POUT nothing happens. PRW does so in the pond of a neighbour, after 1
+ h cycles, with the remote pointer's stamp and index. PADV steps the working read index by n with the checks of R166
and counts CONS, and no slot it passes counts as read. PTAGC checks one slot. Nothing else changes. (R161, R162, R163, R165, R166, R266) -/
def Obligations.PondInstructionsReadAndWriteSlots : Prop :=
  ∀ (s : State) (r u word iter : Nat) (T : Tile) (c : FabCtx), s.cur = .tile r u word iter → T = s.tile u →
    c = s.fabCtx r u word iter →
    (∀ (p : BitVec 5) (line : BitVec 10) (q : Pond) (x : Nat) (raw : Line), q = T.pond p.toNat → x = q.wr.toNat →
      raw = T.bankLine c (peBank q.entry) (peLine q.entry x line.toNat % 1536) →
      ∃ v X l tk, exec (.prd p line) s = .next v ∧ s.fabric v r [(u, X)] tk ∧
        X.dels = T.dels ++ [⟨c.cyc + 3, .pin, l, BitVec.allOnes 64⟩] ∧
        { X with
          dels := T.dels
          seen := T.seen
          ceReads := T.ceReads } = T ∧ X.isSeen p.toNat x = true ∧
        (∀ k, T.isSeen p.toNat x = false → T.checkSlot p.toNat x true = some k → tk = [c.direct slotS k] ∧
          l = ⟨raw.bits, BitVec.allOnes 64, c.origin slotS k⟩) ∧
        ((T.isSeen p.toNat x = true ∨ T.checkSlot p.toNat x true = none) → tk = [] ∧
          l = if smPois (T.slot p.toNat x) then ⟨if smSluice (T.slot p.toNat x) then 0 else raw.bits, BitVec.allOnes 64,
            c.origin slotS 0x10⟩ else if smSluice (T.slot p.toNat x) then Line.zero else raw)) ∧
    (∀ (p : BitVec 5) (line : BitVec 10) (i : Instr) (q : Pond) (x : Nat) (m : Word), i = .pwr p line →
      q = T.pond p.toNat → x = q.ww.toNat → m = T.slot p.toNat x →
      (latchAt T.dels .pout c.cyc = none → ∃ v, exec i s = .next v ∧ s.fabric v r [(u, T)] []) ∧
      ∀ l, latchAt T.dels .pout c.cyc = some l →
        (l.pois ≠ 0 → ∃ v X, exec i s = .next v ∧ s.fabric v r [(u, X)] [c.sinkTok slotS l.org skPond] ∧
          { X with slots := T.slots } = T ∧ smPois (X.slot p.toNat x) = true ∧ smState (X.slot p.toNat x) = smState m) ∧
        (l.pois = 0 → T.mayStage (slotKey p.toNat x q.entry) = false →
          ∃ v, exec i s = .next v ∧ s.fabric v r [(u, T)] [c.direct slotS 0x14]) ∧
        (l.pois = 0 → T.mayStage (slotKey p.toNat x q.entry) = true → ∃ v X, exec i s = .next v ∧ s.fabric v r [(u, X)] [] ∧
          X.dels = T.dels ++ [⟨c.cyc + 1, .bank (peBank q.entry) (peLine q.entry x line.toNat % 1536), l,
            BitVec.allOnes 64⟩] ∧ X.staged = addNew (slotKey p.toNat x q.entry) T.staged ∧
          { X with
            dels := T.dels
            slots := T.slots
            ponds := T.ponds
            staged := T.staged } = T ∧
          smState (X.slot p.toNat x) = 1 ∧ smPois (X.slot p.toNat x) = smPois m ∧
          (line.toNat + 1 = peLines q.entry → smClosed (X.slot p.toNat x) = true ∧
            smTag (X.slot p.toNat x) = x % 2 ^ 16 ∧ smSwz (X.slot p.toNat x) = peSwz q.entry ∧
            smFmt (X.slot p.toNat x) = peFmt q.entry ∧ (X.pond p.toNat).ww = q.ww + 1 ∧
            monProd (X.pond p.toNat).mon = min (monProd q.mon + 1) 1023) ∧
          (line.toNat + 1 ≠ peLines q.entry → X.ponds = T.ponds))) ∧
    (∀ (p : BitVec 5) (port : BitVec 2) (line : BitVec 8) (i : Instr) (q : RPtr), i = .prw p port line →
      q = tget RPtr.zero T.rptr (32 * port.toNat + p.toNat) →
      ((latchAt T.dels .pout c.cyc = none ∨ neighbour c port.toNat = none) →
        ∃ v, exec i s = .next v ∧ s.fabric v r [] []) ∧
      ∀ l n N key m, latchAt T.dels .pout c.cyc = some l → neighbour c port.toNat = some n → N = s.tile n →
        key = slotKey p.toNat q.work.toNat q.entry → m = tget 0 N.slots key → ∃ v X Y tk, exec i s = .next v ∧
        s.fabric v r [(u, X), (n, Y)] tk ∧ { X with rptr := T.rptr } = T ∧
        (l.pois ≠ 0 → tk = [c.sinkTok slotS l.org skRemote] ∧ X = T ∧ { Y with slots := N.slots } = N ∧
          smPois (tget 0 Y.slots key) = true) ∧
        (l.pois = 0 → N.mayStage key = false → tk = [c.direct slotS 0x14] ∧ X = T ∧ Y = N) ∧
        (l.pois = 0 → N.mayStage key = true → tk = [] ∧ smState (tget 0 Y.slots key) = 1 ∧
          Y.dels = N.dels ++ [⟨c.cyc + (1 + hopCycles u n), .bank (peBank q.entry)
            (peLine q.entry q.work.toNat line.toNat % 1536), l, BitVec.allOnes 64⟩] ∧
          (line.toNat + 1 = peLines q.entry → smClosed (tget 0 Y.slots key) = true ∧
            smTag (tget 0 Y.slots key) = q.work.toNat % 2 ^ 16 ∧ (Y.pond p.toNat).ww = q.work + 1 ∧
            (tget RPtr.zero X.rptr (32 * port.toNat + p.toNat)).work = q.work + 1) ∧
          (line.toNat + 1 ≠ peLines q.entry → X = T ∧ Y.ponds = N.ponds))) ∧
    (∀ (p : BitVec 5) (n : BitVec 8) (q : Pond) (x sl : Nat), q = T.pond p.toNat → x = q.wr.toNat →
      sl = T.passSluice p.toNat x n.toNat → ∃ v X tk, exec (.padv p n) s = .next v ∧ s.fabric v r [(u, X)] tk ∧
        { X with ponds := T.ponds } = T ∧ (∀ k, k ≠ p.toNat → X.pond k = T.pond k) ∧
        { X.pond p.toNat with mon := q.mon } = { q with wr := q.wr + n.setWidth 32 } ∧
        monCons (X.pond p.toNat).mon = (if sl ≠ 0 ∧ c.sluice = false then 1023
          else min (monCons q.mon + (n.toNat - sl)) 1023) ∧
        (T.passCheck p.toNat x n.toNat = none → tk = []) ∧
        ∀ k, T.passCheck p.toNat x n.toNat = some k → tk = [c.direct slotS k]) ∧
    ∀ (p : BitVec 5) (j : BitVec 8) (x : Nat), x = ((T.pond p.toNat).wr + j.setWidth 32).toNat →
      ∃ v X tk, exec (.ptagc p j) s = .next v ∧ s.fabric v r [(u, X)] tk ∧ { X with seen := T.seen } = T ∧
        X.isSeen p.toNat x = true ∧
        (∀ k, T.isSeen p.toNat x = false → T.checkSlot p.toNat x true = some k → tk = [c.direct slotS k]) ∧
        ((T.isSeen p.toNat x = true ∨ T.checkSlot p.toNat x true = none) → tk = [])

/-- In a tile: LDT delivers to PIN three cycles later the bank line of its generator's step plus OFF (poison for a
mode other than 0 or a pond window) and STT writes POUT there one cycle later (PROTECT and no write for those, a sink
for poison). AGGO starts, rewinds or resumes a generator, AGSTOP holds it, AGLD loads a legal image from a lane. SIN
takes a port's line to PIN and a lane, SOUT sends a line to the facing port of a neighbour, TAP sets lane taps. KEDGE
delivers a condition to the region's queue in the next cycle from the named column only. SLCK and POISK deliver a mask
two cycles later. SLFWD closes a sluice slot, that of a neighbour 1 + h cycles later. TWPRM adds a grant. Nothing else changes. (R74, R167, R168, R169, R170,
R172, R173, R174, R175, R176, R177, R266) -/
def Obligations.GeneratorsPortsAndRegionSignals : Prop :=
  ∀ (s : State) (r u word iter : Nat) (T : Tile) (c : FabCtx), s.cur = .tile r u word iter → T = s.tile u →
    c = s.fabCtx r u word iter →
    (∀ (g : BitVec 3) (adv : Bool) (off : BitVec 8) (x : Gen) (l : Nat) (raw : Line), x = T.gen g.toNat →
      l = wrapLine (gAddr x.img (rsI x.run) (rsJ x.run) + off.toNat) → raw = T.bankLine c (gBank x.img) l →
      (∃ v X y, exec (.ldt g adv off) s = .next v ∧ s.fabric v r [(u, X)] [] ∧
        X.dels = T.dels ++ [⟨c.cyc + 3, .pin, y, BitVec.allOnes 64⟩] ∧ { X with
          dels := T.dels
          gens := T.gens
          ceReads := T.ceReads } = T ∧
        y = (if gMode x.img ≠ 0 ∨ T.inWindow (gBank x.img) l = true then
          ⟨raw.bits, BitVec.allOnes 64, c.origin slotS 0x06⟩ else raw) ∧
        (rsI (X.gen g.toNat).run, rsJ (X.gen g.toNat).run) = (if adv then
          (if gLast x.img (rsI x.run) (rsJ x.run) then (0, 0) else gStep x.img (rsI x.run) (rsJ x.run)) else (rsI x.run, rsJ x.run))) ∧
      ∃ v X tk, exec (.stt g adv off) s = .next v ∧ s.fabric v r [(u, X)] tk ∧
        { X with dels := T.dels, gens := T.gens } = T ∧
        (rsI (X.gen g.toNat).run, rsJ (X.gen g.toNat).run) = (if adv then
          (if gLast x.img (rsI x.run) (rsJ x.run) then (0, 0) else gStep x.img (rsI x.run) (rsJ x.run)) else (rsI x.run, rsJ x.run)) ∧
        ((gMode x.img ≠ 0 ∨ T.inWindow (gBank x.img) l = true) → tk = [c.direct slotS 0x06] ∧ X.dels = T.dels) ∧
        (gMode x.img = 0 → T.inWindow (gBank x.img) l = false →
          (latchAt T.dels .pout c.cyc = none → tk = [] ∧ X.dels = T.dels) ∧
          ∀ y, latchAt T.dels .pout c.cyc = some y →
            (y.pois ≠ 0 → tk = [c.sinkTok slotS y.org skStt] ∧ X.dels = T.dels) ∧
            (y.pois = 0 → tk = [] ∧ X.dels = T.dels ++ [⟨c.cyc + 1, .bank (gBank x.img) l, y, BitVec.allOnes 64⟩]))) ∧
    (∀ (g : BitVec 3) (res : Bool) (x : Gen), x = T.gen g.toNat →
      ∃ v X tk, exec (.aggo g res) s = .next v ∧ s.fabric v r [(u, X)] tk ∧ { X with gens := T.gens } = T ∧
        (X.gen g.toNat).img = x.img ∧ (∀ k, k ≠ g.toNat → X.gen k = T.gen k) ∧
        (res = true → tk = [] ∧ (X.gen g.toNat).lat = x.lat ∧ rsI (X.gen g.toNat).run = rsI x.run ∧
          rsJ (X.gen g.toNat).run = rsJ x.run ∧ rsRun (X.gen g.toNat).run = (rsHeld x.run || rsRun x.run)) ∧
        (res = false → gMode x.img = 0 → tk = [] ∧ rsRun (X.gen g.toNat).run = false ∧
          rsI (X.gen g.toNat).run = 0 ∧ rsJ (X.gen g.toNat).run = 0) ∧
        (res = false → gMode x.img ≠ 0 → gLane x.img = 15 → tk = [c.direct slotS 0x16] ∧ X.gen g.toNat = x) ∧
        (res = false → gMode x.img ≠ 0 → gLane x.img ≠ 15 → tk = [] ∧ (X.gen g.toNat).lat = x.img ∧
          rsRun (X.gen g.toNat).run = true ∧ rsI (X.gen g.toNat).run = 0 ∧ rsJ (X.gen g.toNat).run = 0)) ∧
    (∀ (g : BitVec 3) (x : Gen), x = T.gen g.toNat → ∃ v X, exec (.agstop g) s = .next v ∧ s.fabric v r [(u, X)] [] ∧
      { X with gens := T.gens } = T ∧ rsRun (X.gen g.toNat).run = false ∧
      rsHeld (X.gen g.toNat).run = (rsRun x.run || rsHeld x.run) ∧ rsI (X.gen g.toNat).run = rsI x.run ∧
      rsJ (X.gen g.toNat).run = rsJ x.run) ∧
    (∀ (g : BitVec 3) (lane : BitVec 4) (x : Gen), x = T.gen g.toNat →
      ∃ v X tk, exec (.agld g lane) s = .next v ∧ s.fabric v r [(u, X)] tk ∧ { X with gens := T.gens } = T ∧
        (laneAt T.dels lane.toNat (posBank (gBank x.img)) c.cyc = none → tk = [] ∧ X = T) ∧
        ∀ y, laneAt T.dels lane.toNat (posBank (gBank x.img)) c.cyc = some y →
          (y.bytePois 0 16 = true → tk = [c.sinkTok slotS y.org skAgld] ∧ X = T) ∧
          (y.bytePois 0 16 = false → gLegal (y.bits.setWidth 128) = false → tk = [c.direct slotS 0x16] ∧ X = T) ∧
          (y.bytePois 0 16 = false → gLegal (y.bits.setWidth 128) = true → tk = [] ∧
            X.gen g.toNat = { x with img := y.bits.setWidth 128 })) ∧
    (∀ (port : BitVec 2) (lane : BitVec 4),
      (latchAt T.dels (.port port.toNat) c.cyc = none → ∃ v, exec (.sin port lane) s = .next v ∧
        s.fabric v r [(u, T)] []) ∧
      (∀ y, latchAt T.dels (.port port.toNat) c.cyc = some y → ∃ v, exec (.sin port lane) s = .next v ∧
        s.fabric v r [(u, { T with dels := T.dels ++ [⟨c.cyc + 1, .pin, y, BitVec.allOnes 64⟩] ++
          (if lane.toNat ≤ 7 then [⟨c.cyc + 1, .lane lane.toNat (posPort port.toNat), y, BitVec.allOnes 64⟩]
            else []) })] []) ∧
      ∀ y, y = (if lane.toNat = 15 then latchAt T.dels .pout c.cyc
          else laneAt T.dels lane.toNat (posPort port.toNat) c.cyc) →
        ((neighbour c port.toNat = none ∨ y = none) → ∃ v, exec (.sout port lane) s = .next v ∧ s.fabric v r [] []) ∧
        ∀ n l, neighbour c port.toNat = some n → y = some l → ∃ v, exec (.sout port lane) s = .next v ∧
          s.fabric v r [(n, { s.tile n with dels := (s.tile n).dels ++
            [⟨c.cyc + hopCycles u n, .port ((port.toNat + 2) % 4), l, BitVec.allOnes 64⟩] })] []) ∧
    (∀ (st : Bool) (inl outl : BitVec 4), ∃ v X, exec (.tap st inl outl) s = .next v ∧ s.fabric v r [(u, X)] [] ∧
      X.tap st.toNat % 16 = inl.toNat ∧ X.tap st.toNat / 16 = outl.toNat ∧
      X.tap (1 - st.toNat) = T.tap (1 - st.toNat) ∧ { X with tap0 := T.tap0, tap1 := T.tap1 } = T) ∧
    (∀ (k : BitVec 3) (col : BitVec 6), ∃ v, exec (.kedge k col) s = .next v ∧
      v.region r = (if u % 64 = c.west % 64 + col.toNat then { s.region r with kedges := (s.region r).kedges ++
        [((s.region r).rcyc + 1, decide ((T.kreg k.toNat).toNat % 2 = 1))] } else s.region r) ∧
      (∀ q, q ≠ r → v.region q = s.region q) ∧ { v with regions := s.regions } = s) ∧
    (∀ (p : BitVec 5) (twe : BitVec 2) (drain : Bool) (n : BitVec 8), ∃ v, exec (.twprm p twe drain n) s = .next v ∧
      v.region r = { s.region r with grants := (s.region r).grants ++ [⟨u, twe.toNat, p.toNat, drain, n.toNat, none⟩] } ∧
      (∀ q, q ≠ r → v.region q = s.region q) ∧ { v with regions := s.regions } = s) ∧
    (∀ (p : BitVec 5) (k : BitVec 3) (m : Word), m = T.slot p.toNat (T.pond p.toNat).wr.toNat →
      (∃ v d, exec (.slck p k) s = .next v ∧ s.fabric v r [(u, { T with dels := T.dels ++ [d] })] [] ∧
        d.at_ = c.cyc + 2 ∧ d.dst = .kreg k.toNat ∧
        d.line.elem 64 0 = if smState m = 2 ∧ smSluice m = true then 2 ^ 64 - 1 else 0) ∧
      ∃ v d, exec (.poisk k) s = .next v ∧ s.fabric v r [(u, { T with dels := T.dels ++ [d] })] [] ∧
        d.at_ = c.cyc + 2 ∧ d.dst = .kreg k.toNat ∧
        d.line.elem 64 0 = (((latchAt T.dels .pin c.cyc).map (fun (y : Line) => y.pois)).getD 0).toNat) ∧
    ∀ (p : BitVec 5) (port : BitVec 2) (q : Pond) (x : Nat) (m : Word), q = T.pond p.toNat → x = q.ww.toNat →
      m = T.slot p.toNat x →
      (T.mayStage (slotKey p.toNat x q.entry) = false →
        ∃ v, exec (.slfwd p port false) s = .next v ∧ s.fabric v r [(u, T)] [c.direct slotS 0x14]) ∧
      (T.mayStage (slotKey p.toNat x q.entry) = true → ∃ v X, exec (.slfwd p port false) s = .next v ∧
        s.fabric v r [(u, X)] [] ∧ X.staged = addNew (slotKey p.toNat x q.entry) T.staged ∧
        { X with slots := T.slots, ponds := T.ponds, staged := T.staged } = T ∧ smPois (X.slot p.toNat x) = smPois m ∧ smState (X.slot p.toNat x) = 1 ∧
        smClosed (X.slot p.toNat x) = true ∧ smSluice (X.slot p.toNat x) = true ∧
        smNrs (X.slot p.toNat x) = (s.region r).pendSet % 8 ∧ smTag (X.slot p.toNat x) = x % 2 ^ 16 ∧
        (X.pond p.toNat).ww = q.ww + 1 ∧ monSlfw (X.pond p.toNat).mon = min (monSlfw q.mon + 1) 3) ∧
      (neighbour c port.toNat = none → ∃ v, exec (.slfwd p port true) s = .next v ∧ s.fabric v r [] []) ∧
      ∀ n w key, neighbour c port.toNat = some n → w = tget RPtr.zero T.rptr (32 * port.toNat + p.toNat) →
        key = slotKey p.toNat w.work.toNat w.entry →
        ((s.tile n).mayStage key = false → ∃ v, exec (.slfwd p port true) s = .next v ∧
          s.fabric v r [] [c.direct slotS 0x14]) ∧
        ((s.tile n).mayStage key = true → ∃ v X Y d, exec (.slfwd p port true) s = .next v ∧
          s.fabric v r [(u, X), (n, Y)] [] ∧ Y.staged = addNew key (s.tile n).staged ∧ Y.slots = (s.tile n).slots ∧
          Y.dels = (s.tile n).dels ++ [d] ∧ d.at_ = c.cyc + 1 + hopCycles u n ∧
          (∀ Z e, Z = Y.land d → e = Z.slot p.toNat w.work.toNat → smState e = 1 ∧ smClosed e = true ∧
            smSluice e = true ∧ smNrs e = (s.region r).pendSet % 8) ∧ (Y.pond p.toNat).ww = w.work + 1 ∧
          (tget RPtr.zero X.rptr (32 * port.toNat + p.toNat)).work = w.work + 1 ∧
          monSlfw (X.pond w.spond).mon = min (monSlfw (T.pond w.spond).mon + 1) 3)

/-- Every FL word in a tile loads the immediate latch of this iteration with its PAYLOAD, which drops the latch's parity
mark (8; that of a mask register goes with its KSET), and changes only that tile.
VIMM delivers the value to every 32-bit element of its register in the next cycle; VIMM64 does nothing more; VSETM
writes the mode words it names; KSET the low word of a mask register, its high word, or both (k0 stays); RNGKEY one
field of the key; SCLSET the scale word; AGCFG and AGCFG2 their half of a generator image; HDRSET one header; DROPCFG
threshold and scale of dropout; MXCFG the fields EFMT, ESWZ, EEN and PLINK. (R55, R90, R112, R115, R116, R130, R159,
R170, R171, R178) -/
def Obligations.LongWordsConfigureTheirTile : Prop :=
  ∀ (i : Instr) (s : State) (r u word iter : Nat) (T : Tile) (c : FabCtx), s.cur = .tile r u word iter → T = s.tile u →
    c = s.fabCtx r u word iter →
    (∀ (st : Bool) (vd : BitVec 4) (x : BitVec 32), i = .vimm st vd x → ∃ v l, exec i s = .next v ∧
      s.onlyTile v u
        { T with
          imm := some (c.iter, payload i)
          kUe := T.kUe.filter (· ≠ 8)
          dels := T.dels ++ [⟨c.cyc + 1, .vreg st.toNat vd.toNat, l, BitVec.allOnes 64⟩] } ∧ l.pois = 0 ∧
      ∀ j, j < 16 → l.elem 32 j = x.toNat) ∧
    (∀ x : BitVec 64, i = .vimm64 x → payload i = x ∧ ∃ v, exec i s = .next v ∧
      s.onlyTile v u { T with imm := some (c.iter, x), kUe := T.kUe.filter (· ≠ 8) }) ∧
    (∀ (et : BitVec 4) (rm : BitVec 3) (sat w0 w1 : Bool), i = .vsetm et rm sat w0 w1 → ∃ v m, exec i s = .next v ∧ s.onlyTile v u
        { T with imm := some (c.iter, payload i), kUe := T.kUe.filter (· ≠ 8), vmode0 := (if w0 then m else T.vmode0), vmode1 := (if w1 then m else T.vmode1) } ∧ m.toNat = et.toNat + 16 * rm.toNat + 128 * sat.toNat) ∧
    (∀ (k : BitVec 3) (mode : BitVec 2) (x : BitVec 32), i = .kset k mode x → ∃ v X, exec i s = .next v ∧
      s.onlyTile v u X ∧ X.imm = some (c.iter, payload i) ∧ { X with imm := T.imm, kUe := T.kUe, k := T.k } = T ∧
      (∀ q, q ∈ X.kUe ↔ q ∈ T.kUe ∧ q ≠ 8 ∧ (q = k.toNat → k = 0)) ∧
      (∀ q, (q ≠ k.toNat ∨ q = 0) → X.kreg q = T.kreg q) ∧
      (k ≠ 0 → (X.kreg k.toNat).toNat % 2 ^ 32 = (if mode = 1 then (T.kreg k.toNat).toNat % 2 ^ 32 else x.toNat) ∧
        (X.kreg k.toNat).toNat / 2 ^ 32 = if mode = 0 then 0 else x.toNat)) ∧
    (∀ (part : BitVec 2) (x : BitVec 48), i = .rngkey part x → ∃ v X, exec i s = .next v ∧ s.onlyTile v u X ∧
      X.imm = some (c.iter, payload i) ∧ { X with imm := T.imm, kUe := T.kUe, rngkey := T.rngkey } = T ∧
      X.key0 = (if part = 0 then x.toNat % 2 ^ 32 else T.key0) ∧ X.key1 = (if part = 1 then x.toNat % 2 ^ 32 else T.key1) ∧
      X.layer = (if part = 2 then x.toNat % 2 ^ 15 else T.layer) ∧ X.srbase = if part = 3 then x.toNat else T.srbase) ∧
    (∀ x : BitVec 32, i = .sclset x → ∃ v, exec i s = .next v ∧
      s.onlyTile v u { T with imm := some (c.iter, payload i), kUe := T.kUe.filter (· ≠ 8), scale := x }) ∧
    (∀ (g : BitVec 3) (base : BitVec 11) (str cnt : BitVec 12) (x : Gen), i = .agcfg g base str cnt → x = T.gen g.toNat →
      ∃ v X y, exec i s = .next v ∧ s.onlyTile v u X ∧ X.imm = some (c.iter, payload i) ∧
      { X with imm := T.imm, kUe := T.kUe, gens := T.gens } = T ∧ X.gen g.toNat = { x with img := y } ∧
      (∀ k, k ≠ g.toNat → X.gen k = T.gen k) ∧ gBase y = base.toNat ∧ gStr1 y = str.toInt ∧ gCnt1 y = cnt.toNat ∧
      y.toNat / 2 ^ 64 = x.img.toNat / 2 ^ 64) ∧
    (∀ (g : BitVec 3) (str cnt : BitVec 12) (bank : BitVec 3) (lane : BitVec 4) (mode : BitVec 3) (pond : BitVec 5) (x : Gen),
      i = .agcfg2 g str cnt bank lane mode pond → x = T.gen g.toNat →
      ∃ v X y, exec i s = .next v ∧ s.onlyTile v u X ∧ X.imm = some (c.iter, payload i) ∧
      { X with imm := T.imm, kUe := T.kUe, gens := T.gens } = T ∧ X.gen g.toNat = { x with img := y } ∧
      (∀ k, k ≠ g.toNat → X.gen k = T.gen k) ∧ gStr2 y = str.toInt ∧ gCnt2 y = cnt.toNat ∧ gBank y = bank.toNat ∧
      gLane y = lane.toNat ∧ gMode y = mode.toNat ∧ gPond y = pond.toNat ∧ y.toNat % 2 ^ 64 = x.img.toNat % 2 ^ 64) ∧
    (∀ (hd : BitVec 2) (fmt : BitVec 5) (swz : BitVec 4) (vlim : BitVec 5) (sbase : BitVec 9),
      i = .hdrset hd fmt swz vlim sbase → ∃ v X, exec i s = .next v ∧ s.onlyTile v u X ∧
      X.imm = some (c.iter, payload i) ∧ { X with imm := T.imm, kUe := T.kUe, vctl := { X.vctl with hdr := T.vctl.hdr } } = T ∧
      (∀ k, k ≠ hd.toNat → X.vctl.header k = T.vctl.header k) ∧
      hFmt (X.vctl.header hd.toNat) = VFmt.ofCode fmt.toNat ∧ hSwz (X.vctl.header hd.toNat) = swz.toNat ∧
      hVlim (X.vctl.header hd.toNat) = vlim.toNat ∧ hSbase (X.vctl.header hd.toNat) = sbase.toNat) ∧
    (∀ thr scale : BitVec 32, i = .dropcfg thr scale → ∃ v x, exec i s = .next v ∧
      s.onlyTile v u { T with imm := some (c.iter, payload i), kUe := T.kUe.filter (· ≠ 8), dropthr := x } ∧
      x.toNat = thr.toNat + 2 ^ 32 * scale.toNat) ∧
    ∀ (efmt : BitVec 5) (eswz : BitVec 4) (een plink : Bool), i = .mxcfg efmt eswz een plink →
      ∃ v X, exec i s = .next v ∧ s.onlyTile v u X ∧ X.imm = some (c.iter, payload i) ∧
      { X with imm := T.imm, kUe := T.kUe, vctl := { X.vctl with vatst := T.vctl.vatst } } = T ∧
      bitsOf X.vctl.vatst.toNat 6 5 = efmt.toNat ∧ bitsOf X.vctl.vatst.toNat 11 4 = eswz.toNat ∧ X.vctl.een = een ∧
      X.vctl.plink = plink ∧ bitsOf X.vctl.vatst.toNat 0 4 = bitsOf T.vctl.vatst.toNat 0 4 ∧ X.vctl.fcc = T.vctl.fcc

/-- A last row that needs a condition takes the oldest of the queue, into which the KEDGE conditions due by the cycle
it starts have gone, or freezes its region with cause 0x17. A region
whose last word has drained is DONE after its rate check, or freezes with RATE. The weir fires at FC once every region
is DONE and none is frozen, passing each grant, up to 1,023 permits; W cycles later the communication superstep
starts. A partition of one region whose superstep is over retires: input slots read are freed, the phase and the frame
number step, the boundary follows. A frame starts once no region is frozen: in compute at cycle 0 where every arc
check passes, else it waits, counted; after 10 ms the regions that still fail freeze with LINK and the frame goes on.
Where a condition does not hold, nothing changes. (R17, R18, R19, R20, R21, R26, R28, R160, R176, R260, R267, R351) -/
def Obligations.FramesRunFromStartToRetirement : Prop :=
  ∀ (s : State) (r p : Nat) (R : Region) (P : Part), R = s.region r → P = s.part p →
    (∀ S Q, S = s.dueEdges r (R.rcyc + 1) → Q = S.region r → R.frozen = false →
      (Q.needsCond = false → exec (.popCondition r) s = .next S) ∧
      (∀ x q, Q.needsCond = true → Q.condq = x :: q →
        exec (.popCondition r) s = .next (S.setRegion r { Q with nextSel := some x, condq := q })) ∧
      (Q.needsCond = true → Q.condq = [] → ∃ u f, exec (.popCondition r) s = .next u ∧ (u.region r).frozen = true ∧
        u.freezes = s.freezes ++ [f] ∧ f.unit = .region r ∧ f.cause = 0x17)) ∧
    (R.frozen = true → exec (.popCondition r) s = .next s) ∧
    (∀ n, R.endAt = some n → n ≤ R.rcyc → R.frozen = false → R.done = false →
      ((R.rateOk = true ∨ s.rateCheck r = none) →
        exec (.firingDone r) s = .next (s.setRegion r { R with done := true })) ∧
      (∀ t k e m, R.rateOk = false → s.rateCheck r = some (t, k, e, m) → ∃ u f, exec (.firingDone r) s = .next u ∧
        (u.region r).frozen = true ∧ (u.region r).done = false ∧ u.freezes = s.freezes ++ [f] ∧ f.unit = .region r ∧
        f.cause = 0x11 ∧ f.rec_.getD 7 0 = rateAux k e m)) ∧
    ((R.endAt = none ∨ R.frozen = true ∨ R.done = true) → exec (.firingDone r) s = .next s) ∧
    (P.stage = .compute → P.fcyc = P.fc → P.graph.isSome = true →
      ((s.graphRegions p).all fun r => (s.region r).done && !(s.region r).frozen) = true →
      ∃ u, exec (.weirFire p) s = .next u ∧ u.part p = { P with stage := .weir (s.weirW p) } ∧
        (∀ k, { u.region k with grants := (s.region k).grants } = s.region k) ∧ u.tiles = s.tiles ∧
        ∀ g, s.graphRegions p = [r] → R.grants = [g] → R.part = p → R.killed = false → R.sealed = false →
          (s.sluiced p = false ∨ g.drain = true) → u.permits (tweId g.tile g.twe) g.tile g.pond g.drain =
            min (s.permits (tweId g.tile g.twe) g.tile g.pond g.drain + g.n) 1023) ∧
    ((P.stage ≠ .compute ∨ P.fcyc ≠ P.fc ∨ P.graph = none ∨
        ∃ k ∈ s.graphRegions p, (s.region k).done = false ∨ (s.region k).frozen = true) →
      exec (.weirFire p) s = .next s) ∧
    (P.stage = .weir 0 → exec (.commSuperstepStart p) s = .next (s.setPart p { P with stage := .comm })) ∧
    (P.stage ≠ .weir 0 → exec (.commSuperstepStart p) s = .next s) ∧
    (∀ g, P.stage = .comm → P.graph = some g → s.graphRegions p = [r] → R.frozen = false → R.fin = false →
      P.fm ≤ R.ccyc → P.frame + 1 ≠ g.frames → R.kind = .normal → R.sealed = false → R.routes = [] → R.wrote = [] →
      ∃ u, exec (.retirement p) s = .next u ∧ (u.part p).frame = P.frame + 1 ∧ (u.part p).stage = .boundary ∧
        (u.region r).phase = (R.phase + 1) % hPhases R.hdr ∧ (u.region r).fired = R.fired + 1 ∧
        (u.region r).fin = true ∧ (u.region r).kind = .idle ∧ u.mem = s.mem ∧
        ∀ t ∈ R.tilesOf r, ∀ k q, k < 32 → q = (s.tile t).pond k → peValid q.entry = true → peDir q.entry = 0 →
          ((u.tile t).pond k).cr = q.wr) ∧
    ((P.stage = .idle ∨ P.stage = .boundary ∨ P.stage = .held) → exec (.retirement p) s = .next s) ∧
    (∀ o, P.stage = .boundary → P.graph.isSome = true → s.anyFrozen p = false → P.notBefore ≤ s.now →
      o = s.openFrame p → ∃ u, exec (.frameStart p) s = .next u ∧
        ((o.graphRegions p).all o.mayBegin = true → (u.part p).stage = .compute ∧ (u.part p).fcyc = 0) ∧
        ((o.graphRegions p).all o.mayBegin = false → (u.part p).stage = .arcWait ∧ (u.part p).arcLen = 1 ∧
          u.regions = o.regions ∧ u.tiles = o.tiles)) ∧
    (P.stage = .boundary → (P.graph = none ∨ s.anyFrozen p = true ∨ s.now < P.notBefore) →
      exec (.frameStart p) s = .next s) ∧
    (P.arcLen < Config.tenMs → exec (.arcWaitTimeout p) s = .next s) ∧
    (Config.tenMs ≤ P.arcLen → P.stage = .arcWait → ∃ u, exec (.arcWaitTimeout p) s = .next u ∧
      (u.part p).stage = .compute ∧ (u.part p).fcyc = 0 ∧
      ∀ k ∈ s.graphRegions p, s.mayBegin k = false → (u.region k).frozen = true)

/-- ACT opens a row of a bank, PRE closes it, PREA closes all, none of them where it would break a timing rule; OPEN
serves dynamic requests for LEN cycles and closes every bank; END leaves no record to issue; WRC and dynamic-mode
refresh change nothing software sees; REF of a retreat timeline that breaks no timing rule is counted within 256 ms, and a window that held too few
is remembered. RD of a fill step puts the 64 bytes at the locked address into its piece of the assembly buffer, or a
piece poisoned with the cause of the check that failed, 0x21 after a missed refresh count. WR of a drain step writes its piece to the shadow copy and nowhere else, is held while the region is
frozen, and does nothing for a killed one. TWSTEP delivers the cached tile, poisoned with 0x05 where a tag differs.
REPAIR takes the oldest held read, corrects its line and pauses the partition 96 cycles; a slot used or not needed
changes nothing. (R287, R291, R292, R293, R295, R296, R300) -/
def Obligations.TimelineCommandsActOnTheirChannel : Prop :=
  ∀ (s : State) (c : Nat) (C : Chan) (p : Nat), C = s.chan c → p = C.part →
    (∀ (bank : BitVec 6) (row : BitVec 14),
      (s.jedecBad c = true → exec (.act c bank row) s = .next s ∧ exec (.pre c bank) s = .next s ∧
        exec (.prea c) s = .next s) ∧
      (s.jedecBad c = false →
        (∃ u, exec (.act c bank row) s = .next u ∧ { u with chans := s.chans } = s ∧
          (∀ k, k ≠ c → u.chan k = s.chan k) ∧ { u.chan c with open_ := C.open_ } = C ∧
          ∀ b, tget 0 (u.chan c).open_ b = if b = bank.toNat then row.toNat + 1 else tget 0 C.open_ b) ∧
        (∃ u, exec (.pre c bank) s = .next u ∧ { u with chans := s.chans } = s ∧
          (∀ k, k ≠ c → u.chan k = s.chan k) ∧ { u.chan c with open_ := C.open_ } = C ∧
          ∀ b, tget 0 (u.chan c).open_ b = if b = bank.toNat then 0 else tget 0 C.open_ b) ∧
        exec (.prea c) s = .next (s.setChan c { C with open_ := [] }))) ∧
    (∀ len : BitVec 14, exec (.openRec c len) s =
      .next (s.setChan c { C with openUntil := s.now + len.toNat, open_ := [] })) ∧
    exec (.timelineEnd c) s = .next (s.setChan c { C with pos := C.useRecords.length }) ∧
    (∀ (bank : BitVec 6) (col : BitVec 5), exec (.wrc c bank col) s = .next s ∧ exec (.dynamicModeRefresh c) s = .next s) ∧
    ((C.retreat = false ∨ s.jedecBad c = true) → exec (.ref c) s = .next s) ∧
    (C.retreat = true → s.jedecBad c = false → ∃ u, exec (.ref c) s = .next u ∧ { u with chans := s.chans } = s ∧
      (∀ k, k ≠ c → u.chan k = s.chan k) ∧ { u.chan c with refs := C.refs, refMiss := C.refMiss } = C ∧
      (u.chan c).refs = C.refs.filter (fun n => decide (s.now < n + Config.refreshWindow)) ++ [s.now] ∧
      (u.chan c).refMiss = (C.refMiss || C.shortOfRefs s.now)) ∧
    (∀ (bank : BitVec 6) (col : BitVec 5) (n : BitVec 8) (e : BitVec 128), e = C.step n.toNat →
      (C.refMiss = false → C.shortOfRefs s.now = false →
        (teDrain e = true → exec (.rd c bank col n) s = .next s) ∧
        (∀ s1, teDrain e = false → s.useRecord p (teTwe e) (teShape e) false = (s1, none) →
          exec (.rd c bank col n) s = .next s1) ∧
        (∀ s1 x r t u pa may z v, teDrain e = false → s.useRecord p (teTwe e) (teShape e) false = (s1, some (x, r, t, u)) →
          s1.lockedParts p [u] (x.pieceVa (tePiece e)) = some ([(pa, 64)], may) →
          s1.readCause c bank.toNat col.toNat (some ([(pa, 64)], may)) = z → teLast e = false →
          (s1.asmTile u (teShape e)).last = none →
          (z = none → s1.voteLine pa = (v, true) → v.tagOk (memKey pa / 128) = true → v.lineErr (memKey pa) = 0 →
            ∃ w, exec (.rd c bank col n) s = .next w ∧ tget Line.zero (w.asmTile u (teShape e)).pieces (tePiece e) =
              ⟨BitVec.ofNat 512 (bytesNat (v.bytes (memKey pa) 64)), 0, 0⟩ ∧ w.mem = v.mem) ∧
          ∀ k, z = some k → ∃ w, exec (.rd c bank col n) s = .next w ∧ w.mem = s1.mem ∧
            tget Line.zero (w.asmTile u (teShape e)).pieces (tePiece e) =
              Line.bad (s.tweOrigin p t slotMem k) Line.zero)) ∧
      ((C.refMiss = true ∨ C.shortOfRefs s.now = true) → teDrain e = false → ∀ S, S = s.clearMiss c →
        ∀ s1 x r t u, S.useRecord p (teTwe e) (teShape e) false = (s1, some (x, r, t, u)) → teLast e = false →
          (s1.asmTile u (teShape e)).last = none → ∃ w, exec (.rd c bank col n) s = .next w ∧
            (w.chan c).refMiss = false ∧ tget Line.zero (w.asmTile u (teShape e)).pieces (tePiece e) =
              Line.bad (S.tweOrigin p t slotMem 0x21) Line.zero) ∧
      (teDrain e = false → exec (.wr c bank col n) s = .next s) ∧
      (∀ s1, s.useRecord p (teTwe e) (teShape e) true = (s1, none) → teDrain e = true →
        exec (.wr c bank col n) s = .next s1) ∧
      (∀ s1, s.useRecord p (teTwe e) (teShape e) false = (s1, none) → exec (.twstep c n) s = .next s1) ∧
      (∀ s1 x r t u R, teDrain e = true → s.useRecord p (teTwe e) (teShape e) true = (s1, some (x, r, t, u)) →
        R = s1.region r →
        (R.killed = true → exec (.wr c bank col n) s = .next s1) ∧
        (R.killed = false → R.frozen = true →
          exec (.wr c bank col n) s = .next (s1.setRegion r { R with heldWr := R.heldWr ++ [(c, e)] })) ∧
        ∀ d ls l k a, R.killed = false → R.frozen = false →
          R.drains.find? (fun d => decide (d.shape = teShape e) && decide (d.twe = u)) = some d → d.lines = some ls →
          ls[tePiece e]? = some l → l.pois = 0 → s1.jedecBad c = false →
          s1.drainParts p u (x.pieceVa (tePiece e)) = some ([(k, a, 64)], true) → s1.voteLine a = (s1, true) →
          ∃ w, exec (.wr c bank col n) s = .next w ∧ w.bytes a 64 = natBytes l.bits.toNat 64 ∧
            sameOutside s1 w a 64 ∧ k ∈ (w.region r).wrote) ∧
      ∀ s1 x r t u slots ls, s.useRecord p (teTwe e) (teShape e) false = (s1, some (x, r, t, u)) →
        slots = (List.range ((x.pieces + 7) / 8)).map
          (fun k => tget CacheSlot.zero (s1.twe u).cache ((teSlot e + k) % 512)) →
        ls = (slots.flatMap fun y => (List.range 8).map fun i => (y.lines[i]?).getD Line.zero).take x.pieces →
        ((∀ y ∈ slots, y.tag = s1.cacheTag p x ∧ y.lines ≠ []) →
          exec (.twstep c n) s = .next (s1.deliverTile r (teTwe e) u x ls)) ∧
        ((∃ y ∈ slots, y.tag ≠ s1.cacheTag p x ∨ y.lines = []) → exec (.twstep c n) s =
          .next ((s1.bumpW (Config.twb (u / 4) (u % 4) + 8) 32 32 1).deliverTile r (teTwe e) u x
            (ls.map fun l => ⟨l.bits, BitVec.allOnes 64, s.tweOrigin p t slotTwe 0x05⟩)))) ∧
    (∀ P, P = s.part p →
      ((P.repairs = P.fcyc + 1 ∨ s.oldestHeld p = none) → exec (.repair c) s = .next s) ∧
      ∀ k h, P.repairs ≠ P.fcyc + 1 → s.oldestHeld p = some (k, h) → ∃ u, exec (.repair c) s = .next u ∧
        (u.part p).repairs = P.fcyc + 1 ∧ (u.part p).pause = P.pause + 96 ∧
        (u.chan k).held = (s.chan k).held.drop 1 ∧ u.mem = s.mem ∧
        (h.err ≤ 1 → ∀ q ∈ h.parts, tget 0 u.hbmErr (memKey q.1 / 64) = 0))

/-- PCTL without a running graph changes nothing; with a frozen region the request is held; else it waits for a yield
point. There a waiting EVAL chooses by remaining time and tokens: a drain with a limit, a kill, which takes effect at
once, or a checkpoint (log entry 116 says what becomes of an earlier drain). At a yield point a kill removes the pages and a rerun follows, a checkpoint saves the context and changes no memory outside the swap area or, where it may
not, kills; a
partition in an excursion freezes where a channel has no retreat timeline. A drained victim past its limit is to be
checkpointed. RESTORE waits for the blocks and then brings the context back. KILLALL leaves no unspent capability of
the partition, ENDGRAPH also ends the graph with an end record of status 1, REDISPATCH makes records passed over
eligible again. Where a condition does not hold, nothing changes. (R29, R320, R322, R323, R324, R325, R347, R348,
R352, R374) -/
def Obligations.RequestsOfAPartitionActAtYieldPoints : Prop :=
  ∀ (s : State) (p : Nat) (P : Part), P = s.part p → p < 16 →
    (P.graph = none → ∀ n : BitVec 16, exec (.pctlEval p n) s = .next s ∧ exec (.pctlKill p) s = .next s ∧
      exec (.pctlCheckpoint p) s = .next s) ∧
    (∀ g, P.graph = some g → s.anyFrozen p = false →
      exec (.pctlKill p) s = .next (s.setPart p { P with req := some 2, drainAt := none }) ∧
      exec (.pctlCheckpoint p) s = .next (s.setPart p { P with req := some 3, drainAt := none }) ∧
      ∀ n : BitVec 16, exec (.pctlEval p n) s = .next (s.setPart p { P with req := some 1, newtok := n.toNat })) ∧
    (∀ g, P.graph = some g → P.req = some 1 → s.yieldPoint p = true →
      ∀ lim T, lim = s.wf (crbAt 8) 0 32 → T = P.trem - (s.now - g.launched) →
        (T ≤ lim → exec (.preemptKill p) s =
          .next (s.setPart p { P with choice := 1, req := none, drainAt := some (s.now + lim) })) ∧
        (lim < T → P.newtok < 4 * g.token → exec (.preemptKill p) s =
          .next (s.setPart p { P with choice := 3, req := some 3, drainAt := none })) ∧
        (lim < T → 4 * g.token ≤ P.newtok → ∃ u, exec (.preemptKill p) s = .next u ∧ (u.part p).graph = none ∧
          (u.part p).stage = .idle ∧ (u.part p).choice = 2)) ∧
    (P.graph.isSome = true → s.anyFrozen p = true → ∀ (i : Instr) (q : Nat × Nat) (n : BitVec 16),
      (i, q) ∈ [(Instr.pctlEval p n, (1, n.toNat)), (.pctlKill p, (2, 0)), (.pctlCheckpoint p, (3, 0))] →
      ∃ u, exec i s = .next u ∧ (u.part p).preheld = some q ∧ (u.part p).req = none) ∧
    (P.swapGraph.isSome = true → exec (.restore p) s = .next (s.setPart p { P with restorePend := true })) ∧
    (P.swapGraph = none → exec (.restore p) s = .next s ∧ exec (.restorePerformed p) s = .next s) ∧
    (∀ g, P.restorePend = true → P.swapGraph = some g → P.graph = none → s.restoreFree p = true →
      ∃ u, exec (.restorePerformed p) s = .next u ∧ (u.part p).stage = .boundary ∧ (u.part p).graph = some g ∧
        (u.part p).frame = P.swapNums.getD 0 0 ∧ (u.part p).trem = P.swapNums.getD 1 0 ∧
        (u.part p).swapGraph = none ∧ (u.part p).restorePend = false ∧ u.mem = s.mem) ∧
    ((P.restorePend = false ∨ P.graph.isSome = true ∨ s.restoreFree p = false) →
      exec (.restorePerformed p) s = .next s) ∧
    (∀ n, P.drainAt = some n → n ≤ s.now → P.graph.isSome = true →
      exec (.drainlimExpiry p) s = .next (s.setPart p { P with req := some 3, drainAt := none })) ∧
    ((P.drainAt = none ∨ P.graph = none) → exec (.drainlimExpiry p) s = .next s) ∧
    (s.yieldPoint p = true → P.req = some 2 → P.graph.isSome = true → ∃ u, exec (.preemptKill p) s = .next u ∧
      (u.part p).graph = none ∧ (u.part p).stage = .idle ∧ (u.part p).choice = 2 ∧
      ∀ r ∈ s.graphRegions p, (u.region r).placed = false) ∧
    ((s.yieldPoint p = false ∨ P.req ≠ some 2 ∧ P.req ≠ some 1) → exec (.preemptKill p) s = .next s) ∧
    (s.yieldPoint p = true → P.req = some 3 → P.graph.isSome = true → ∃ u, exec (.checkpoint p) s = .next u ∧
      (u.part p).graph = none ∧ (u.part p).stage = .idle ∧ (∀ r ∈ s.graphRegions p, (u.region r).placed = false) ∧
      (s.checkpointOk p = true → (u.part p).choice = 3 ∧ (u.part p).swapGraph = P.graph ∧
        sameOutside s u (s.swapBase p) Config.swapBytes ∧
        (u.part p).swapNums = [P.frame, P.trem, P.fc, P.fm, P.rset]) ∧
      (s.checkpointOk p = false → (u.part p).choice = 2 ∧ (u.part p).swapGraph = P.swapGraph)) ∧
    ((s.yieldPoint p = false ∨ P.req ≠ some 3) → exec (.checkpoint p) s = .next s) ∧
    (P.thermal = true → s.yieldPoint p = true → ∃ u, exec (.thermalFreeze p) s = .next u ∧
      (u.part p).thermal = false ∧ (s.noRetreat p = true → ∀ r ∈ s.graphRegions p, (u.region r).frozen = true) ∧
      (s.noRetreat p = false → u = s.setPart p { P with thermal := false })) ∧
    ((P.thermal = false ∨ s.yieldPoint p = false) → exec (.thermalFreeze p) s = .next s) ∧
    (∃ u, exec (.killall p) s = .next u ∧ u = s.killAll p ∧ ∀ f ∈ u.freezes, f.part = p → f.spent = true) ∧
    (∀ K g w, K = s.killFrozen p → (K.part p).graph = some g → (∀ c ∈ K.channelsOf p, c < 384) →
      w = K.wf (crbAt 0x6000) 0 32 → ∃ u, exec (.endgraph p) s = .next u ∧ (u.part p).graph = none ∧
        (u.part p).stage = .idle ∧ u.wf (crbAt 0x6000) 0 32 = (w + 1) % 2 ^ 32 ∧
        u.w (crbAt (0x8000 + 16 * (w % 256))) = BitVec.ofNat 64 g.serial ∧
        u.wf (crbAt (0x8000 + 16 * (w % 256) + 8)) 0 32 = 1 ∧ u.wf (crbAt 0x28) 63 1 = 1) ∧
    exec (.redispatch p) s = .next { s with freezes := s.freezes.map fun (f : Freeze) =>
      if f.part = p ∧ f.pass = 1 then { f with pass := 0 } else f }

/-- KICK sets its bit and wakes the package; ENDR takes its value; COOL, WARM and OFF leave their command; ARM opens a
valid closed window; CLOSE, and a deadline that has passed, zero the blocks that did not come, write the arrival mask,
signal the counter and close it; RESUME retries and SKIP drops the failed entry of a halted chain; a training GO
starts or is refused, adds lanes of its mismatches while it runs, and at its end all of them; LREP takes a legal repair, waiting while a test
runs; DEGR clears; a range entry takes VALID, GEN and its words only as R279 says; the image table follows R311; route
entries, RIDX, MIGCTL and queue limits keep their bounds; any other register stores what its rule stores. A forbidden
store freezes the thread with PROTECT. (R277, R279, R298, R306, R308, R311, R326, R356, R361, R362, R395, R396) -/
def Obligations.StoresToRegistersHaveTheirOwnEffect : Prop :=
  ∀ (s : State),
    (∀ q, (q < 255 → ∃ u, exec (.kick q) s = .next u ∧ u.wf (crbAt (0x10 + 8 * (q / 64))) (q % 64) 1 = 1 ∧
        { u with win := s.win, powerState := s.powerState, kicked := s.kicked } = s ∧ u.powerState = 0) ∧
      (256 ≤ q → exec (.kick q) s = .next s)) ∧
    (∀ v : BitVec 32, ∃ u, exec (.endrWrite v) s = .next u ∧ u.wf (crbAt 0x6008) 0 32 = v.toNat ∧
      { u with win := s.win } = s) ∧
    (∃ u v w, exec .cool s = .next u ∧ exec .warm s = .next v ∧ exec .off s = .next w ∧ u.w (trbAt 8) = 1 ∧
      v.w (trbAt 8) = 2 ∧ w.w (trbAt 8) = 3) ∧
    (∀ p n, p < 16 → n < 8 →
      (s.wnValid p n = true → s.wnOpen p n = false → ∃ u, exec (.arm p n) s = .next u ∧ u.wnOpen p n = true ∧
        u.runWin p n = ⟨[], if s.wf (windowAt p n 1) 32 32 = 0 then none else some (s.now + s.wf (windowAt p n 1) 32 32),
          true⟩ ∧ u.mem = s.mem) ∧
      ((s.wnValid p n = false ∨ s.wnOpen p n = true) → exec (.arm p n) s = .next s) ∧
      (s.wnValid p n = true → s.wnOpen p n = true → ∃ u, exec (.close p n) s = .next u ∧ u.wnOpen p n = false ∧
        (u.runWin p n).deadline = none ∧
        (∀ k, k < maskWords (s.wnBlocks p n) → u.bytes (s.wnMask p n + 8 * k) 8 =
          natBytes (maskWord (s.runWin p n).filled k) 8) ∧
        (overlaps (s.wnBase p n) (512 * s.wnBlocks p n) (s.wnMask p n) (8 * maskWords (s.wnBlocks p n)) = false →
          ∀ b k, b < s.wnBlocks p n → k < 512 → u.byte (s.wnBase p n + 512 * b + k) =
            if b ∈ (s.runWin p n).filled then s.byte (s.wnBase p n + 512 * b + k) else 0) ∧
        u.counter (s.wf (windowAt p n 1) 16 12) = s.counter (s.wf (windowAt p n 1) 16 12) + 1) ∧
      ((s.wnValid p n = false ∨ s.wnOpen p n = false) → exec (.close p n) s = .next s) ∧
      (∀ d, (s.runWin p n).deadline = some d → exec (.windowDeadline p n) s =
        if d ≤ s.now then exec (.close p n) s else .next s)) ∧
    (∀ p e C, p < 16 → e < 16 → C = s.chain (16 * p + e) →
      (C.halted = true → exec (.resume p e) s = .next (s.setChain (16 * p + e)
        { C with halted := false, busy := false, ctl := 0, watch := none }) ∧
        ∀ x xs, C.entries = x :: xs → exec (.skip p e) s = .next (s.setChain (16 * p + e)
          { C with halted := false, busy := false, ctl := 0, watch := none, seq := x.num, entries := xs })) ∧
      (C.halted = false → exec (.resume p e) s = .next s ∧ exec (.skip p e) s = .next s)) ∧
    (∀ c, c < 384 →
      (∀ dir : Bool, ∃ u, exec (if dir then .trainingWriteTest c else .trainingReadTest c) s = .next u ∧ u.mem = s.mem ∧
        (s.goOk c = false → u.wf (hcbAt c 0xD8) 1 2 = 3 ∧ u.chans = s.chans) ∧
        (s.goOk c = true → u.wf (hcbAt c 0xD8) 0 1 = 1 ∧ (u.chan c).test = (if dir then 2 else 1) ∧
          s.now < (u.chan c).testEnd ∧ (u.chan c).testEnd ≤ s.now + 2000)) ∧
      (∀ C dir mis, C = s.chan c → dir = decide (C.test = 2) → s.wf (hcbAt c 0xD8) 0 1 = 1 → C.test ≠ 0 →
        C.deferred = [] → mis = (s.testMis c).2 →
        (C.latch[5]? = none → mis = Config.laneMismatch c dir (s.laneDelays c dir) s.free) ∧
        (∀ m, C.latch[5]? = some m → mis = BitVec.ofNat 72 m) ∧
        ∃ u m, exec (.trainingTestDone c) s = .next u ∧
          u.w (hcbAt c 0xE0) = s.w (hcbAt c 0xE0) ||| (mis &&& m).setWidth 64 ∧
          u.w (hcbAt c 0xE8) = s.w (hcbAt c 0xE8) ||| BitVec.ofNat 64 ((mis &&& m).toNat / 2 ^ 64) ∧
          (s.now < C.testEnd → u.wf (hcbAt c 0xD8) 0 2 = s.wf (hcbAt c 0xD8) 0 2 ∧ (u.chan c).test = C.test ∧
            (u.chan c).latch[5]? = some mis.toNat ∧ u.mem = s.mem) ∧
          (C.testEnd ≤ s.now → m = BitVec.allOnes 72 ∧ u.wf (hcbAt c 0xD8) 0 2 = 2 ∧ (u.chan c).test = 0 ∧
            (dir = false → u.mem = s.mem))) ∧
      (∀ v : Word, (lrepBad v = true → s.storeRefused (hcbAt c 0xF0) (exec (.lrepWrite c v) s)) ∧
        (lrepBad v = false → ∃ u, exec (.lrepWrite c v) s = .next u ∧
          (s.wf (hcbAt c 0xD8) 0 1 = 0 → u.w (hcbAt c 0xF0) = lrepValue v) ∧
          (s.wf (hcbAt c 0xD8) 0 1 = 1 → u.win = s.win ∧
            (u.chan c).deferred = (s.chan c).deferred ++ [(s.storer, 0xF0, lrepValue v)]))) ∧
      ∃ u, exec (.degrClear c) s = .next u ∧ u.wf (hcbAt c 0) 4 1 = 0 ∧ { u with win := s.win } = s) ∧
    (∀ (p n : Nat) (v : Word) (want : Bool), p < 16 → n < 64 →
      want = (v.toNat.testBit 0 && s.rangeOk p n (v.toNat.testBit 4)) →
      ((s.rValid p n = true ∧ want = false ∧ (s.rLock p n ≠ 0 ∨ s.rShst p n ≠ 0)) →
        s.storeRefused (rangeAt p n 0) (exec (.rangeEntryWrite p n 0 v) s)) ∧
      (¬ (s.rValid p n = true ∧ want = false ∧ (s.rLock p n ≠ 0 ∨ s.rShst p n ≠ 0)) →
        ∃ u, exec (.rangeEntryWrite p n 0 v) s = .next u ∧ u.rValid p n = want ∧
          u.rGen p n = if want = true ∧ s.rValid p n = false then 1 else s.rGen p n) ∧
      ∀ w, 1 ≤ w → w ≤ 5 →
        (s.rValid p n = true → s.storeRefused (rangeAt p n w) (exec (.rangeEntryWrite p n w v) s)) ∧
        (s.rValid p n = false → ∃ u, exec (.rangeEntryWrite p n w v) s = .next u ∧
          (u.w (rangeAt p n w)).toNat = v.toNat % 2 ^ (if w ≤ 2 then 57 else 52))) ∧
    (∀ (i : Nat) (ver : BitVec 16) (pa : BitVec 52) (cur old : Nat), i < 1024 → cur = s.wf (imageAt i 0) 16 16 →
      old = s.wf (imageAt i 0) 32 16 →
      ((s.wf (imageAt i 0) 1 1 = 1 ∧ (ver.toNat = cur ∨ (ver.toNat = old ∧ old ≠ 0) ∨ s.wf (imageAt i 3) 16 16 ≠ 0)) →
        s.storeRefused (imageAt i 0) (exec (.imageTableEdit i ver pa) s)) ∧
      (¬ (s.wf (imageAt i 0) 1 1 = 1 ∧ (ver.toNat = cur ∨ (ver.toNat = old ∧ old ≠ 0) ∨
          s.wf (imageAt i 3) 16 16 ≠ 0)) → ∃ u, exec (.imageTableEdit i ver pa) s = .next u ∧
        u.wf (imageAt i 0) 16 16 = ver.toNat ∧ (u.w (imageAt i 1)).toNat = pa.toNat ∧ u.wf (imageAt i 0) 1 1 = 0 ∧
        u.wf (imageAt i 3) 0 16 = s.versionTasks i ver.toNat ∧
        u.wf (imageAt i 3) 16 16 = s.wf (imageAt i 3) (if s.wf (imageAt i 0) 1 1 = 1 then 0 else 16) 16 ∧
        u.wf (imageAt i 0) 32 16 = (if s.wf (imageAt i 0) 1 1 = 1 then cur else old))) ∧
    (∀ (d : Nat) (v : Word), d < 1024 →
      (d = Config.pkgId.toNat → exec (.routeEntryWrite d v) s = .next s) ∧
      (d ≠ Config.pkgId.toNat → ∃ u, exec (.routeEntryWrite d v) s = .next u ∧
        u.wf (brbRouteAt d) 0 1 = (v.toNat.testBit 0 && decide (bitsOf v.toNat 1 5 ≤ 23)).toNat ∧
        u.wf (brbRouteAt d) 1 5 = bitsOf v.toNat 1 5 ∧ u.wf (brbRouteAt d) 8 6 = bitsOf v.toNat 8 6)) ∧
    (∀ (q : Nat) (v : BitVec 32) (r w : Nat), q < 64 → w = s.wf (brbQueueAt q 1) 0 32 → r = s.wf (brbQueueAt q 1) 32 32 →
      ((w + 2 ^ 32 - r) % 2 ^ 32 < (v.toNat + 2 ^ 32 - r) % 2 ^ 32 →
        s.storeRefused (brbQueueAt q 1) (exec (.ridxWrite q v) s)) ∧
      ((v.toNat + 2 ^ 32 - r) % 2 ^ 32 ≤ (w + 2 ^ 32 - r) % 2 ^ 32 → ∃ u, exec (.ridxWrite q v) s = .next u ∧
        u.wf (brbQueueAt q 1) 32 32 = v.toNat ∧ u.wf (brbQueueAt q 1) 0 32 = w ∧ { u with win := s.win } = s)) ∧
    (∀ (p : Nat) (v : Word), p < 16 → ∃ u, exec (.migctlWrite p v) s = .next u ∧
      u.wf (prbAt p 0x1008) 0 1 = (v.toNat.testBit 0 && (s.part p).graph.isNone).toNat ∧
      u.wf (prbAt p 0x1008) 16 48 = bitsOf v.toNat 16 48 ∧ { u with win := s.win } = s) ∧
    ∀ (pa : Nat) (v : Word),
      (∀ t k, s.cur = .thread t → s.rowCause pa = some k →
        exec (.registerWrite pa v) s = .next (s.freezeThread t k (BitVec.ofNat 64 pa)) ∧
        exec (.queueLimitWrite pa v) s = .next (s.freezeThread t k (BitVec.ofNat 64 pa))) ∧
      (s.rowCause pa = none →
        (∀ u, s.regStore s.curThread pa v = some u → exec (.registerWrite pa v) s = .next u ∧
          exec (.queueLimitWrite pa v) s = .next u) ∧
        (s.regStore s.curThread pa v = none → s.storeRefused pa (exec (.registerWrite pa v) s) ∧
          s.storeRefused pa (exec (.queueLimitWrite pa v) s)) ∧
        (pa = crbAt 8 → ∃ u, exec (.registerWrite pa v) s = .next u ∧ (u.w pa).toNat = v.toNat % 2 ^ 32) ∧
        ∀ p mn cap, p < 16 → pa = prbAt p 0x1040 → mn = bitsOf v.toNat 0 9 → cap = bitsOf v.toNat 16 9 →
          ((256 < mn ∨ cap = 0 ∨ 256 < cap) → s.storeRefused pa (exec (.queueLimitWrite pa v) s)))

/-- Power-on reset keeps memory, banks, fuses, key index, flash and the repair record, and starts cellar-A on firmware
that verifies, else waits for a recovery image; RECGO boots one that verifies. Fuses rise to the running SVN; a flash
write replaces the image; a power loss empties HBM and spoils an image under way. QUOTE advances the key index or is
refused. KEYLOAD shifts in an unwrapped key, KEYCLR erases a slot. A sample sets the band, takes the command, shuts
down in TB3, begins an excursion in TB1 and ends it in TB0, with the clock following, and raises event 5 on a change. A settled package runs cold, a rate excess sets
RATEX, an expired watchdog freezes its core, the standby takes a frozen cellar-A over or the pair stops. Power states
follow the tolerance. The emptied HBM reading as zero is log entry 1. (R207, R308, R328, R330, R368, R369, R370, R371,
R372, R375, R376, R378) -/
def Obligations.BootSecurityAndThermalControl : Prop :=
  ∀ (s : State),
    (∃ u, exec .powerOnReset s = .next u ∧ u.mem = s.mem ∧ u.flash = s.flash ∧ u.fuseVersion = s.fuseVersion ∧
      u.xmssIndex = s.xmssIndex ∧ u.repairRec = s.repairRec ∧ u.win = [] ∧ u.regions = [] ∧ u.parts = [] ∧
      u.powered = true ∧
      (trising s.tiles = true → ∀ t, (u.tile t).banks = (s.tile t).banks ∧ (u.tile t).rngkey = (s.tile t).rngkey) ∧
      (s.firmwareOk s.flash = true → u.recoveryWait = false ∧ (u.thread 0).status = .running ∧
        (u.thread 0).kind = .cellar ∧ (u.thread 0).pc = 0 ∧ (u.thread 1).status = .none ∧
        u.measLog = [(Config.shake256 (s.flash.take (fwHead + imgNum s.flash 8 8)), 0)]) ∧
      (s.firmwareOk s.flash = false → u.recoveryWait = true ∧ u.threads = [])) ∧
    (∀ len, (s.recoveryWait = false → exec (.recgo len) s = .next s) ∧
      (s.recoveryWait = true → s.firmwareOk (s.recovery.take len) = false → exec (.recgo len) s = .next s) ∧
      (s.recoveryWait = true → s.firmwareOk (s.recovery.take len) = true → ∃ u, exec (.recgo len) s = .next u ∧
        u.recoveryWait = false ∧ (u.thread 0).status = .running ∧ (u.thread 0).kind = .cellar ∧
        u.svn = imgNum (s.recovery.take len) 4 2)) ∧
    (s.recoveryWait = false → exec .versionFuseBlow s = .next { s with fuseVersion := max s.fuseVersion s.svn }) ∧
    (s.recoveryWait = true → exec .versionFuseBlow s = .next s) ∧
    (∀ bs, ∃ u, exec (.flashWrite bs) s = .next u ∧ u.flash = bs ∧ s.now ≤ u.flashEnd ∧ u.mem = s.mem) ∧
    (∃ u, exec .powerLoss s = .next u ∧ u.powered = false ∧
      u.flash = (if s.now < s.flashEnd then [] else s.flash) ∧
      ∀ a, u.byte a = if a < Config.hbmBytes then 0 else s.byte a) ∧
    (∀ (nonce : BitVec 256) (m : List Byte), m = s.quoteBytes nonce →
      (2 ^ 20 ≤ s.xmssIndex → exec (.quote nonce) s = .next { s with outbox := s.outbox ++ [[16]] }) ∧
      (s.xmssIndex < 2 ^ 20 → exec (.quote nonce) s = .next { s with
        xmssIndex := s.xmssIndex + 1
        outbox := s.outbox ++ [[15, bytesNat m, bytesNat (Config.xmssSign s.xmssIndex m)]] })) ∧
    (∀ (k : BitVec 6) (x : BitVec 832), (Config.keyUnwrap x = none → exec (.keyload k x) s = .next s) ∧
      (∀ v, Config.keyUnwrap x = some v → ∃ u, exec (.keyload k x) s = .next u ∧
        { u with keys := s.keys } = s ∧ u.key k.toNat = ⟨some v, (s.key k.toNat).cur, 0⟩ ∧
        ∀ j, j ≠ k.toNat → u.key j = s.key j) ∧
      ∃ u, exec (.keyclr k) s = .next u ∧ { u with keys := s.keys } = s ∧ (u.key k.toNat).cur = none ∧
        (u.key k.toNat).prev = none ∧ ∀ j, j ≠ k.toNat → u.key j = s.key j) ∧
    (∀ xs, (s.powered = false → exec (.thermalSample xs) s = .next s) ∧
      (s.powered = true → ∃ u, exec (.thermalSample xs) s = .next u ∧ u.tband = (s.senseAll xs).nextBand ∧
        u.wf (trbAt 8) 0 2 = 0 ∧
        (u.tband = 3 → s.tstate ≠ tsSHUTDOWN → u.tstate = tsSHUTDOWN ∧ u.powered = false) ∧
        (u.tband = 1 → s.booting = false → s.tstate = coldRun → u.tstate = tsEXCURSION ∧ u.clockMHz = 550) ∧
        (u.tband = 0 → s.booting = false → s.tstate = tsEXCURSION → u.tstate = coldRun ∧
          ((∃ e ∈ s.chans, e.2.retreat = true ∧ e.2.retreatRecords ≠ []) → u.clockMHz = 550) ∧
          ((∀ e ∈ s.chans, e.2.retreat = false) → u.clockMHz = 1100)) ∧
        (s.cdSamples + 1 < windowSamples → u.cdSamples = s.cdSamples + 1) ∧
        ((u.tband ≠ s.tband ∨ u.tstate ≠ s.tstate) → u.fresh.testBit 5 = true))) ∧
    (s.tstate = tsCOLD_SETTLE → settleSamples ≤ s.settle → ∃ u, exec .settleComplete s = .next u ∧
      u.tstate = coldRun ∧ { u with win := s.win } = s) ∧
    ((s.tstate ≠ tsCOLD_SETTLE ∨ s.settle < settleSamples) → exec .settleComplete s = .next s) ∧
    (∀ h r lim, h = s.hottest → r = s.wf (trbAt 0x10) 0 8 → lim = 64 * (if r = 0 then 1 else min r 8) →
      ∃ u, exec .cdrateWindow s = .next u ∧ u.cdHot = h ∧
        ((s.tstate = tsCOOLING ∨ s.tstate = tsWARMING) → lim < max h s.cdHot - min h s.cdHot →
          u.wf (trbAt 0) 6 1 = 1 ∧ u.irqs = s.irqs ++ [2 ^ 32 * irqRate]) ∧
        (max h s.cdHot - min h s.cdHot ≤ lim → u = { s with cdHot := h })) ∧
    (∀ c d, d = tget 0 s.watchdog c →
      ((d = 0 ∨ s.now < d ∨ 1 < c) → exec (.watchdogExpiry c) s = .next s) ∧
      (d ≠ 0 → d ≤ s.now → c ≤ 1 → ((s.thread c).status = .running ∨ (s.thread c).status = .idle) →
        (s.thread c).stepBy = none →
        ∃ u f, exec (.watchdogExpiry c) s = .next u ∧ tget 0 u.watchdog c = 0 ∧ (u.thread c).status = .frozen ∧
          u.freezes = s.freezes ++ [f] ∧ f.cause = 0x31)) ∧
    (s.wf (crbAt 0) 3 1 = 1 → exec .takeoverSpawn s = .next s) ∧
    (s.wf (crbAt 0) 3 1 = 0 → (s.isFrozen 1 = true ∨
        (s.wf (crbAt 0) 0 1 = 0 ∧ s.wf (crbAt 0) 2 1 = 0 ∧ s.isFrozen 0 = true ∧ s.wf (crbAt 0) 1 1 = 0)) →
      ∃ u, exec .takeoverSpawn s = .next u ∧ u.wf (crbAt 0) 3 1 = 1 ∧ u.threads = s.threads) ∧
    (∀ f : Freeze, s.wf (crbAt 0) 0 4 = 2 → s.isFrozen 1 = false → s.isFrozen 0 = true →
      (∀ w ∈ s.writes, w.by_ = .thread 0 → w.performed = true) →
      s.freezes.find? (fun (f : Freeze) => decide (f.unit = .cellar 0) && !f.spent) = some f →
      ∃ u, exec .takeoverSpawn s = .next u ∧ (u.thread 1).kind = .handler ∧ (u.thread 1).takeover = true ∧
        (u.thread 1).status = .running ∧ (u.thread 1).pc = 0x8000 ∧ (u.thread 1).getR 32 = f.rec_.getD 0 0 ∧
        (u.thread 1).tag 32 = true ∧ u.wf (crbAt 0) 2 1 = 1 ∧ ∀ k, k ≠ 1 → u.thread k = s.thread k) ∧
    (∀ p, p < 16 → ∃ u, exec (.hostMailboxWrite p) s = .next u ∧ (u.part p).fresh.testBit 4 = true ∧
      u.powerState = 0 ∧ { u with parts := s.parts, powerState := s.powerState } = s) ∧
    (∀ tol, tol = (s.thread (s.wf (crbAt 0) 0 1)).lattol.toNat → ∃ n, exec .powerStateEnter s =
        .next { s with powerState := n } ∧ n ≤ s.deepest ∧ wakeNs n ≤ tol ∧
        ∀ k, k ≤ s.deepest → wakeNs k ≤ tol → k ≤ n) ∧
    exec .powerStateWake s = .next { s with powerState := 0 }

/-- A latched record takes the entry its pool grants, or waits; the fault of a level-2 handler ends the graph of its
partition. A full pool freezes the partition with one POOL_FULL record. A dispatcher starts the handler of the next
record on a free context with the capability in h0 and the record's address in s1, or reports a record without
handler. A record not settled in 10 ms is reported with event 6. A ready service task whose working set is
staged (log entry 117), and that no other ready task overtakes, starts on a free context. A scrub corrects single-bit errors and marks the others it finds; a remap table is reloaded in three copies; a repair record is written; a trained port comes
up. An image that passes every check of the loader is accepted, stored and measured, else refused with every finding. A page leaves
its region unless its graph runs. Where a condition does not hold, nothing changes. (R38, R72, R286, R297, R313, R341,
R342, R343, R347, R349, R350, R396) -/
def Obligations.FaultQueueRepairsAndImages : Prop :=
  ∀ (s : State),
    (∀ n, s.freezeOf n = none → exec (.faultRecordGrant n) s = .next s ∧ exec (.poolFull n) s = .next s ∧
      exec (.reportDeadline n) s = .next s) ∧
    (∀ n f, s.freezeOf n = some f →
      (f.latched = false → exec (.faultRecordGrant n) s = .next s) ∧
      (f.latched = true → f.level2 = none → s.grantPlace f = none → exec (.faultRecordGrant n) s = .next s) ∧
      (∀ d e, f.latched = true → f.level2 = none → s.grantPlace f = some (d, e) → exec (.faultRecordGrant n) s =
        .next (s.mapFreeze n fun x => { x with entry := some (256 * d + e), die := d })) ∧
      (∀ t, f.latched = true → f.level2 = some t → ∃ u, exec (.faultRecordGrant n) s = .next u ∧
        (u.part f.part).graph = none) ∧
      ((s.refusedFull f = false ∨ s.fullFrozen f.part = true) → exec (.poolFull n) s = .next s) ∧
      (s.refusedFull f = true → s.fullFrozen f.part = false → ∃ u x, exec (.poolFull n) s = .next u ∧
        u.freezes = s.freezes ++ [x] ∧ x.unit = .partition f.part ∧ x.cause = 0x61 ∧
        x.rec_.getD 7 0 = BitVec.ofNat 64 n ∧ (∀ r ∈ s.regionsOf f.part, (u.region r).frozen = true) ∧
        u.irqs = s.irqs ++ [2 ^ 32 * irqPool + f.part]) ∧
      ((f.spent = true ∨ f.reported = true ∨ f.unit.isRemote = true ∨ s.now < f.at_ + Config.tenMs) →
        exec (.reportDeadline n) s = .next s) ∧
      (f.spent = false → f.reported = false → f.unit.isRemote = false → f.at_ + Config.tenMs ≤ s.now →
        ∃ u, exec (.reportDeadline n) s = .next u ∧ u.fresh.testBit 6 = true ∧
          (∀ x ∈ u.freezes, x.serial = n → x.reported = true) ∧ u.irqs = s.irqs ++ [2 ^ 32 * irqReport + n])) ∧
    (∀ d, (s.nextRecord d = none → exec (.handlerSpawn d) s = .next s) ∧
      ∀ f, s.nextRecord d = some f →
        (s.handlerCode f = none → exec (.handlerSpawn d) s = .next (s.report f.serial 2)) ∧
        ∀ code, s.handlerCode f = some code →
          (s.freeCtx (diesFrom d) f.ctxs = none → exec (.handlerSpawn d) s = .next s) ∧
          ∀ t e, s.freeCtx (diesFrom d) f.ctxs = some t → f.entry = some e → ∃ u T, exec (.handlerSpawn d) s = .next u ∧
            T = u.thread t ∧ T.kind = .handler ∧ T.status = .running ∧ T.part = f.part ∧ T.pc = 0 ∧
            T.cause = f.cause ∧ T.serving = f.serial ∧ T.nest = (if f.unit.isHandler then 2 else 1) ∧
            T.getR 32 = f.rec_.getD 0 0 ∧ T.tag 32 = true ∧
            T.getR 1 = BitVec.ofNat 64 (Config.pool (e / 256) (e % 256)) ∧ (∀ k, k ≠ t → u.thread k = s.thread k) ∧
            ∀ x ∈ u.freezes, x.serial = f.serial → x.handler = some t ∧ x.dropped = false) ∧
    (∀ n t, s.tasks.find? (fun t => decide (t.id = n)) = some t →
      ((t.service = false ∨ t.refused = true ∨ t.ready = false ∨ t.waits ≠ [] ∨ t.started = true ∨ s.staged t = false ∨
          s.overtaken t = true) → exec (.serviceThreadSpawn n) s = .next s) ∧
      ∀ code c, t.service = true → t.refused = false → t.ready = true → t.waits = [] → t.started = false → s.staged t = true →
        (t.cold = true → s.tstate = coldRun) → s.overtaken t = false →
        ((s.imageDecl (s.imageKey t.image t.ver)).bind fun d => ctlSection d (t.f 0x20 2)) = some code →
        s.freeCtx (List.range 4) (List.range 28) = some c → ∃ u T, exec (.serviceThreadSpawn n) s = .next u ∧
          T = u.thread c ∧ T.kind = .service ∧ T.status = .running ∧ T.part = t.part ∧ T.pc = 0 ∧ T.task = n ∧
          T.getR 1 = BitVec.ofNat 64 (t.f 0x10 8) ∧ T.acqAt = (if t.waited then s.now else 0) ∧ (∀ k, k ≠ c → u.thread k = s.thread k) ∧
          ∀ x ∈ u.tasks, x.id = n → x.started = true) ∧
    (∀ ms, ∃ u, exec (.scrubPass ms) s = .next u ∧ u.mem = s.mem ∧
      (trising s.tiles = true → ∀ t, (u.tile t).bankCe = [] ∧ (u.tile t).banks = (s.tile t).banks) ∧ ∀ e ∈ ms,
      (e.1 < 2048 → e.2 ∈ (u.tile e.1).bankUe) ∧
      (4096 ≤ e.1 → e.1 < 8192 → e.2 ∈ (u.thread (e.1 - 4096)).codeUe) ∧
      (8192 ≤ e.1 → e.1 < 16384 → e.2 ∈ (u.region (e.1 - 8192)).rowUe) ∧
      (16384 ≤ e.1 → e.2 ∈ (u.tile (e.1 - 16384)).shUe)) ∧
    (∀ st, ∃ u, exec (.remapTableReload st) s = .next u ∧ { u with remap := s.remap } = s ∧
      ∀ k, tget 0 u.remap k = if k / 3 = st then tget 0 s.repairRec (384 + st) else tget 0 s.remap k) ∧
    (∀ (c : Nat) (v : Word), ∃ u, exec (.repairRecordWrite c v) s = .next u ∧ { u with repairRec := s.repairRec } = s ∧
      ∀ k, tget 0 u.repairRec k = if k = c then v else tget 0 s.repairRec k) ∧
    (∀ i, (i < 24 → ∃ u, exec (.portUp i) s = .next u ∧ u.wf (brbPortAt i 0) 0 1 = 1 ∧ u.mem = s.mem) ∧
      (24 ≤ i → exec (.portUp i) s = .next s)) ∧
    (∀ index pa part d,
      (∀ f fs, refusal d Config.pkgId.toNat = f :: fs → exec (.imageLoad index pa part d) s =
        .next { s with outbox := s.outbox ++ (f :: fs).map fun x => 17 :: index :: x.words }) ∧
      (refusal d Config.pkgId.toNat = [] → ∃ u, exec (.imageLoad index pa part d) s = .next u ∧
        u.images = tput s.images pa d ∧ u.measLog = s.measLog ++ [(d.meas, index)] ∧ u.regions = s.regions ∧
        u.win = s.win ∧ sameOutside s u (memKey pa) d.file.length ∧ u.bytes (memKey pa) d.file.length = d.file)) ∧
    ∀ r, (r ∈ s.graphRegions (s.region r).part → exec (.pageRemoval r) s = .next s) ∧
      (r ∉ s.graphRegions (s.region r).part → (s.region r).placed = true → ∃ u, exec (.pageRemoval r) s = .next u ∧
        u.region r = Region.zero ∧ u.thread (rauThread r) = Thread.zero ∧ (∀ k, k ≠ r → u.region k = s.region k) ∧
        u.tiles = s.tiles ∧ u.mem = s.mem)

/-- An entry starts when its engine is free: with a field out of range the chain halts, else it moves, or halts at a
line that fails; it completes, with STATUS 1 and SEQ, once no write of it is left and its entry can be written. A line
that arrives is replayed, forwarded, denied, held behind an earlier one of its source, destination and channel, or
decrypted under a key of its source's slot, performed once and acknowledged. A line of this package is replayed after a
CRC or a tag failure; one given up tells its thread. An intact runoff block fills its place in an open window, any other
is lost and counted; a record enters its queue, or is answered RETRY_LATER, or denied; an atomic answers the old value
and stores the new one, nothing where its compare fails; what its gateway gives no allowance waits. Commit, abort and
credit records keep the order of their arc's lines: a commit makes closed slots FULL, an abort drops staged ones, a denial
freezes the producer. A failing lane is repaired, with fewer than six lanes the port goes down. Gateways refill to BURST.
(R262, R264, R303, R304, R305, R358, R359, R361, R363, R364, R365, R366) -/
def Obligations.CopyEnginesAndLinksMoveLines : Prop :=
  ∀ (s : State),
    (∀ p e c C, c = 16 * p + e → C = s.chain c →
      ((C.halted = true ∨ C.frozen = true ∨ s.engineBusy e = true ∨ C.entries = []) →
        exec (.copyEntryStart p e) s = .next s) ∧
      (∀ x rest pa a v y ls, C.halted = false → C.frozen = false → s.engineBusy e = false → C.entries = x :: rest →
        (∀ z ∈ rest, z.va ≠ x.va) → s.entryPa p x = some pa → otherPkg pa = none → targetOf pa = .hbm a →
        s.entryRight p x false = true → s.homeServes pa = true → (s.countEntry p x pa).serveLine pa = (v, true) →
        y = CopyEntry.ofBytes (v.bytes (memKey pa) 64) →
        ls = y.lines (fun va => (v.copyTarget (c / 16) va).unit) → ∃ u, exec (.copyEntryStart p e) s = .next u ∧
          (y.bad = true → u = v.haltChain c stRANGE ∧ ((u.chain c).halted = true ∨ (u.chain c).ending.isSome = true)) ∧
          (y.bad = false → (ls.any fun l => copyMisfit (v.copyTarget (c / 16) l.2.1) y) = false →
            v.copyConflict (c / 16) ls = false → v.copyReady (c / 16) y ls = true →
            (u.chain c).halted = true ∨ (u.chain c).busy = true)) ∧
      (∀ x rest, C.halted = false → C.frozen = false → s.engineBusy e = false → C.entries = x :: rest →
        ((∃ z ∈ rest, z.va = x.va) → exec (.copyEntryStart p e) s = .next (s.haltChain c stLOOP)) ∧
        ((∀ z ∈ rest, z.va ≠ x.va) → s.entryPa p x = none →
          exec (.copyEntryStart p e) s = .next (s.haltChain c stXLATE)) ∧
        ∀ pa, (∀ z ∈ rest, z.va ≠ x.va) → s.entryPa p x = some pa → s.entryRight p x false = false →
          exec (.copyEntryStart p e) s = .next (s.haltChain c stPROTECT)) ∧
      (C.ending = none → (C.busy = false ∨ ∃ w ∈ s.writes, w.by_ = .engine c) →
        exec (.copyEntryComplete p e) s = .next s) ∧
      (∀ st, C.ending = some st →
        ((∃ x ∈ C.entries.head?, s.entryReady (c / 16) x = false) → exec (.copyEntryComplete p e) s = .next s) ∧
        ((∀ x ∈ C.entries.head?, s.entryReady (c / 16) x = true) → ∃ u, exec (.copyEntryComplete p e) s = .next u ∧
          (u.chain c).halted = true ∧ (u.chain c).busy = false ∧ (u.chain c).ending = none ∧
          (u.chain c).ctl = BitVec.ofNat 64 (2 * (st - 1)) ∧ (u.chain c).entries = C.entries)) ∧
      (∀ x rest r, C.ending = none → C.busy = true → (∀ w ∈ s.writes, w.by_ ≠ .engine c) → C.entries = x :: rest →
        (∀ z ∈ rest, z.va ≠ x.va) → r = s.writeStatus c x 1 →
        (s.entryReady (c / 16) x = false → exec (.copyEntryComplete p e) s = .next s) ∧
        (s.entryReady (c / 16) x = true → r.2 = false →
          exec (.copyEntryComplete p e) s = .next (r.1.haltChain c stPROTECT)) ∧
        (s.entryReady (c / 16) x = true → s.entryRight (c / 16) x true = false →
          exec (.copyEntryComplete p e) s = .next (s.haltChain c stPROTECT)) ∧
        (s.entryReady (c / 16) x = true → r.2 = true → ∃ u, exec (.copyEntryComplete p e) s = .next u ∧
          (u.chain c).seq = x.num ∧ (u.chain c).entries = rest ∧ (u.chain c).busy = false ∧
          (u.chain c).frozen = (C.frozen || C.watch.isSome) ∧
          ∀ v pa, s.entryPlace (c / 16) x = (v, some pa) → otherPkg pa = none → targetOf pa ≠ .window →
            u.bytes (memKey (pa + 0x34)) 4 = natBytes 1 4 ∧
            sameOutside (v.countEntry (c / 16) x pa) u (memKey (pa + 0x34)) 4))) ∧
    (∀ id, (s.writes.find? (fun w => decide (w.id = id)) = none → exec (.requestRecordResend id) s = .next s ∧
        ∀ why, exec (.lineGiveUp id why) s = .next s) ∧
      ∀ w n c q t r, s.writes.find? (fun w => decide (w.id = id)) = some w → w.retryAt = some n → w.by_ = .engine c →
        w.kind = .store → otherPkg w.pa = none → targetOf w.pa = .request q →
        t = { s with writes := s.writes.filter fun x => decide (x.id ≠ id) } →
        r = t.placeRecord q Config.pkgId.toNat (c / 16)
          (if s.wf (brbQueueAt q 0) 1 4 = c / 16 then none else some (s.gwOwner (c / 16))) w.counted (w.data.drop 8) →
        (s.now < n → exec (.requestRecordResend id) s = .next s) ∧
        (n ≤ s.now → r.2 = .placed → exec (.requestRecordResend id) s = .next r.1)) ∧
    (∀ id w d t i, s.writes.find? (fun w => decide (w.id = id)) = some w → otherPkg w.pa = some d → w.by_ = .thread t →
      w.kind = .store → w.performed = false → w.retryAt ≠ some heldBack → i = s.sentPort d →
      (s.now < w.issued + Config.tenMs → exec (.lineGiveUp id .late) s = .next s) ∧
      (∀ why cause, (why, cause) ∈ [(LineTrouble.late, 0x40), (.tag, 0x41)] →
        (why = .late → w.issued + Config.tenMs ≤ s.now) →
        (why = .tag → w.sealed_ ≠ [] ∧ w.retryAt = none ∧ 2 ≤ w.fails) →
        (s.thread t).denied = none → (s.thread t).status ≠ .none → ∃ u, exec (.lineGiveUp id why) s = .next u ∧
          (∀ x ∈ u.writes, x.id ≠ id) ∧ (u.thread t).denied = some (cause, w.ea, w.waitedAt 4)) ∧
      (∀ why, (why = .crc ∨ (why = .tag ∧ w.fails < 2)) → w.sealed_ ≠ [] → w.retryAt = none →
        ∃ u, exec (.lineGiveUp id why) s = .next u ∧ u.writes.map (·.id) = s.writes.map (·.id) ∧ u.mem = s.mem ∧
          (s.wf (brbPortAt i 0) 0 1 = 1 → (tget Port.zero s.ports i).repair = none →
            u.outbox = s.outbox ++ [[1, d, i, 0, w.part, s.gwOwner w.part, s.routeSlot d] ++ w.sealed_ ++
              [w.id, w.kind.code, w.pa % 2 ^ 41, w.len]] ∧
            u.wf (brbPortAt i 1) 16 16 = min (s.wf (brbPortAt i 1) 16 16 + 1) (2 ^ 16 - 1)) ∧
          (s.wf (brbPortAt i 0) 0 1 = 0 → u.outbox = s.outbox))) ∧
    (∀ (l : LineIn) (i : Instr), i = .orderedLineArrival l →
      (l.crcOk = false → ∃ u, exec i s = .next u ∧ u.outbox = s.outbox ++ [[14, l.port]] ∧ u.mem = s.mem) ∧
      (l.crcOk = true → l.dst ≠ Config.pkgId.toNat → ∃ u, exec i s = .next u ∧ u.mem = s.mem ∧
        ((s.rxBlocked l = true ∨ (l.vc ≠ 3 ∧ s.routeValid l.dst = true ∧
            (s.routeHeld l.dst = true ∨ s.portUp (s.routePort l.dst) = false))) →
          u.outbox = s.outbox ∧ u.inbox = s.inbox ++ [(s.now + 1, .line l)]) ∧
        (s.rxBlocked l = false → (l.vc = 3 ∨ s.routeValid l.dst = false) → u.outbox = s.outbox ∧ u.inbox = s.inbox ∧
          u.wf (brbPortAt l.port 1) 48 16 = min (s.wf (brbPortAt l.port 1) 48 16 + 1) (2 ^ 16 - 1)) ∧
        (s.rxBlocked l = false → l.vc ≠ 3 → s.routeValid l.dst = true → s.routeHeld l.dst = false →
          s.portUp (s.routePort l.dst) = true → u.inbox = s.inbox ∧ u.outbox = s.outbox ++
            [[7, s.routePort l.dst, l.vc + 1, l.src, l.part, l.owner, l.dst, l.seq, l.addr, l.len, l.data.toNat,
              l.tag.toNat]])) ∧
      (l.crcOk = true → l.dst = Config.pkgId.toNat →
        (∀ key, s.lineKey l = some key → l.seq < s.rxNext l key →
          exec i s = .next { s.wake with outbox := s.outbox ++ [[10, l.src, l.seq]] }) ∧
        ((∀ key, s.lineKey l = some key → s.rxNext l key ≤ l.seq) → s.rxBlocked l = true → ∃ u, exec i s = .next u ∧
          u.mem = s.mem ∧ u.inbox = s.inbox ++ [(s.now + 1, .line l)] ∧ u.outbox = s.outbox) ∧
        (s.lineKey l = none → s.rxBlocked l = false → ∃ u, exec i s = .next u ∧ u.mem = s.mem ∧
          (s.tagCount l.src l.seq < 2 → u.outbox = s.outbox ++ [[8, l.src, l.seq]] ∧ ∃ x ∈ u.rx, x.isOf l = true) ∧
          (2 ≤ s.tagCount l.src l.seq → u.outbox = s.outbox ∧ ∀ x ∈ u.rx, x.isOf l = false)) ∧
        ∀ key g, s.lineKey l = some key → s.rxNext l key ≤ l.seq → s.rxBlocked l = false → g = s.wake.lineGate l →
          (l.arc = none → s.homeServes l.addr = false → exec i s = .next (s.wake.rxHold l (.line l))) ∧
          ((l.arc.isSome = true ∨ s.homeServes l.addr = true) → ∃ u, exec i s = .next u ∧
            (g.2 = .held → u.mem = s.mem ∧ u.inbox = s.inbox ++ [(s.now + 1, .line l)] ∧ u.rxCounted l = true) ∧
            (g.2 = .denied → u.mem = s.mem ∧ u.rxNext l key = l.seq + 1 ∧ u.outbox = s.outbox ++
              [match l.arc with
                | some (a, _) => [9, l.src, a, 0x42]
                | none => [9, l.src, l.seq, 0x06]]) ∧
            (g.2 = .admitted → l.arc = none → g.1.remoteRight l.part l.addr 1 = false → u.mem = s.mem ∧
              u.outbox = s.outbox ++ [[9, l.src, l.seq, 0x06]]) ∧
            ∀ a v, g.2 = .admitted → l.arc = none → g.1.remoteRight l.part l.addr 1 = true →
              remoteTarget l.addr = .hbm a → (g.1.rxPass l key).remapVote (chanOf a) = (v, true) →
              u.bytes a l.len = natBytes (linePlain l key / 2 ^ (8 * (l.addr % 128))) l.len ∧
              sameOutside s u a l.len ∧ u.outbox = s.outbox ++ [[10, l.src, l.seq]] ∧ u.rxNext l key = l.seq + 1 ∧
              tget none u.cipher (a / 128) = some ⟨s.routeSlot l.src, l.src, l.seq, l.tag, l.data⟩))) ∧
    (∀ src part owner addr (way : LineWay) (lines : List RunLine) (i : Instr) (b : BlockIn) (a : Nat),
      i = .runoffBlockArrival src part owner addr way lines →
      b = ⟨src, part, owner, way.port, way.vc, way.dst, addr, lines⟩ → a = addr % 2 ^ 40 →
      (way.dst ≠ Config.pkgId.toNat → ∃ u, exec i s = .next u ∧ u.mem = s.mem ∧
        ((way.vc = 3 ∨ s.routeValid way.dst = false) → u.outbox = s.outbox ∧
          u.wf (brbPortAt way.port 1) 48 16 = min (s.wf (brbPortAt way.port 1) 48 16 + lines.length) (2 ^ 16 - 1)) ∧
        (way.vc ≠ 3 → s.routeValid way.dst = true → s.portUp (s.routePort way.dst) = true → ∃ ns,
          u.outbox = s.outbox ++ [[7, s.routePort way.dst, way.vc + 1, src, part, owner, way.dst, addr] ++ ns])) ∧
      ∀ ks, way.dst = Config.pkgId.toNat →
        ks = (blockPlaces b).filterMap (fun e => if e.2.crcOk then s.blockKey b e.1 e.2 else none) →
        ((ks.length ≠ 4 ∨ s.windowOf a = none) → ∃ u, exec i s = .next u ∧
          u.wf (brbPortAt way.port 2) 0 32 = min (s.wf (brbPortAt way.port 2) 0 32 + 1) (2 ^ 32 - 1) ∧ u.mem = s.mem) ∧
        ∀ p n k g, ks.length = 4 → s.windowOf a = some (p, n, k) → g = s.wake.gateway p owner 8 false →
          (s.chanServes a = false → exec i s = .next { s.wake with inbox := s.inbox ++ [(s.now + 1, .block b)] }) ∧
          (∀ v bs, s.chanServes a = true → g.1.wnOpen p n = true → g.2 = .admitted → g.1.remoteRight p a 1 = true →
            k ∉ (s.runWin p n).filled → g.1.remapVote (chanOf a) = (v, true) →
            s.wf (windowAt p n 3) 32 17 + 1 < s.wnBlocks p n →
            bs = ((blockPlaces b).zip ks).flatMap (fun e =>
              natBytes (Config.xtsDecrypt e.2 (addr + 128 * e.1.1) e.1.2.data).toNat 128) → ∃ u, exec i s = .next u ∧
              u.bytes (s.wnBase p n + 512 * k) 512 = bs ∧ sameOutside s u (s.wnBase p n + 512 * k) 512 ∧
              (u.runWin p n).filled = (s.runWin p n).filled ++ [k]) ∧
          (s.chanServes a = true → (g.1.wnOpen p n = false ∨ g.2 ≠ .admitted ∨ g.1.remoteRight p a 1 = false ∨
              k ∈ (s.runWin p n).filled) → ∃ u, exec i s = .next u ∧ u.mem = s.mem ∧ u.windows = s.windows ∧
            u.wf (windowAt p n 3) 16 16 = min (s.wf (windowAt p n 3) 16 16 + 1) (2 ^ 16 - 1))) ∧
    (∀ src part owner addr (x : LineWay × RunLine) (l : LineIn) (i : Instr) (c : State × Option (BitVec 768)),
      i = .requestRecordArrival src part owner addr x → l = lineOf src part owner addr 64 x.1 x.2 →
      c = s.wake.checkLine l (.request l) →
      (c.2 = none → exec i s = .next c.1 ∧ c.1.mem = s.mem) ∧
      ∀ key, c.2 = some key →
        ((∀ q, remoteTarget addr ≠ .request q) → ∃ u, exec i s = .next u ∧ u.mem = s.mem ∧
          u.outbox = s.outbox ++ [[9, src, l.seq, 0x06]]) ∧
        ∀ q r, q < 64 → remoteTarget addr = .request q →
          r = s.wake.placeRecord q src part (some owner) (s.rxCounted l)
            (natBytes (linePlain l key / 2 ^ (8 * (addr % 128) + 64)) 56) → ∃ u, exec i s = .next u ∧
          (r.2 = .placed → u.mem = r.1.mem ∧ u.outbox = s.outbox ++ [[10, src, l.seq]] ∧ u.rxNext l key = l.seq + 1 ∧
            u.wf (brbQueueAt q 1) 0 32 = (s.wf (brbQueueAt q 1) 0 32 + 1) % 2 ^ 32) ∧
          (r.2 = .retry → u.outbox = s.outbox ++ [[12, src, l.seq]] ∧ u.mem = s.mem) ∧
          (r.2 = .held → u.inbox = s.inbox ++ [(s.now + 1, .request l)] ∧ u.mem = s.mem) ∧
          (r.2 = .denied → u.outbox = s.outbox ++ [[9, src, l.seq, 0x06]] ∧ u.mem = s.mem) ∧
          (s.wf (brbQueueAt q 0) 0 1 = 0 → r.2 = .denied)) ∧
    (∀ src part owner queue addr (sz : BitVec 3) (op : BitVec 5) (way : LineWay) (rl : RunLine) (l : LineIn) (i : Instr)
        (c : State × Option (BitVec 768)),
      i = .remoteAtomicArrival src part owner queue addr sz op way rl → l = lineOf src part owner addr 32 way rl →
      c = s.wake.checkLine l (.atomic l queue sz.toNat op.toNat) →
      (c.2 = none → exec i s = .next c.1 ∧ c.1.mem = s.mem) ∧
      ∀ key x g, c.2 = some key → x = linePlain l key → g = s.wake.lineGate l →
        (op ≠ 12 → op ≠ 13 → s.homeServes addr = false → ∃ u, exec i s = .next u ∧ u.mem = s.mem ∧
          u.inbox.length = s.inbox.length + 1) ∧
        ((op = 12 ∨ op = 13 ∨ s.homeServes addr = true) → ∃ u, exec i s = .next u ∧
          (g.2 = .denied → u.mem = s.mem ∧ u.outbox = s.outbox ++ [[9, src, l.seq, 0x06]]) ∧
          (g.2 = .held → u.mem = s.mem ∧ u.inbox.length = s.inbox.length + 1) ∧
          (g.2 = .admitted → (op = 12 ∨ op = 13) → u.outbox = s.outbox ++ [[10, src, l.seq]] ∧
            (op = 13 → u.counter (addr % 4096) = s.counter (addr % 4096) + BitVec.ofNat 64 x)) ∧
          ∀ a v old new operand expect, g.2 = .admitted → op ≠ 12 → op ≠ 13 → remoteTarget addr = .hbm a →
            g.1.remoteRight part a 2 = true → operand = x % 2 ^ 128 % 2 ^ (8 * 2 ^ sz.toNat) →
            expect = x / 2 ^ 128 % 2 ^ 128 % 2 ^ (8 * 2 ^ sz.toNat) →
            ((g.1.rxPass l key).hbmServe a = (v, false) → u.mem = s.mem ∧
              u.outbox = s.outbox ++ [[9, src, l.seq, 0x20]]) ∧
            ((g.1.rxPass l key).hbmServe a = (v, true) → old = s.mget a (2 ^ sz.toNat) →
              new = atomicNew op.toNat (8 * 2 ^ sz.toNat) old operand expect →
              u.outbox = s.outbox ++ [[13, src, l.seq, old]] ∧ u.rxNext l key = l.seq + 1 ∧
              sameOutside s u a (2 ^ sz.toNat) ∧ u.bytes a (2 ^ sz.toNat) = natBytes new (2 ^ sz.toNat) ∧
              (op = 11 → old ≠ expect → u.mem = s.mem ∧ u.hist = s.hist)))) ∧
    (∀ (l : LineIn) (a n : Nat) (abort : Bool) (i : Instr) (c : State × Option (BitVec 768)), l.arc = some (a, n) →
      i = (if abort then .arcAbort l else .arcCommit l) → c = s.wake.checkLine l (.arcRec l abort) →
      (c.2 = none → exec i s = .next c.1 ∧ c.1.tiles = s.tiles) ∧
      (c.2.isSome = true → ∃ u, exec i s = .next u ∧ u.outbox = s.outbox ++ [[10, l.src, l.seq]] ∧ u.mem = s.mem ∧
        (abort = false → (s.arcOpen l = true ∨ arcKey l.part a ∈ s.arcBad ∨ s.findArc l.part a true = none) →
          u.tiles = s.tiles) ∧
        (abort = true → arcKey l.part a ∉ u.arcBad ∧ u.arcOpen l = false) ∧
        ∀ x r, s.findArc l.part a true = some x → s.regionOfActor l.part x.cons = some r →
          (abort = false → s.arcOpen l = false → arcKey l.part a ∉ s.arcBad → ∀ t ∈ (s.region r).tilesOf r,
            ((u.tile t).pond x.consPond).cw = ((s.tile t).pond x.consPond).ww) ∧
          (abort = true → ∀ t ∈ (s.region r).tilesOf r,
            ((u.tile t).pond x.consPond).ww = ((s.tile t).pond x.consPond).cw))) ∧
    (∀ (l : LineIn) (a : Nat) (k : LineIn) (c : State × Option (BitVec 768)), k = { l with arc := some (a, 0) } →
      c = s.wake.checkLine k (.credit k) → (c.2 = none → exec (.creditRecord a l) s = .next c.1 ∧ c.1.credits = s.credits) ∧
      ∀ key, c.2 = some key → ∃ u, exec (.creditRecord a l) s = .next u ∧ u.outbox = s.outbox ++ [[10, l.src, l.seq]] ∧
        ∀ j, tget 0 u.credits j = if j = arcKey l.part a then BitVec.ofNat 64 (linePlain l key % 2 ^ 32)
          else tget 0 s.credits j) ∧
    (∀ (id : Nat) (gw : Bool), (s.writes.find? (fun w => decide (w.id = id)) = none →
        exec (.arcDenial id gw) s = .next s) ∧
      ∀ w p a d r x, s.writes.find? (fun w => decide (w.id = id)) = some w → w.by_ = .arc p a → otherPkg w.pa = some d →
        s.arcRoute p a = some (r, x) → (s.region r).frozen = false → ∃ u f, exec (.arcDenial id gw) s = .next u ∧
          (u.region r).frozen = true ∧ u.freezes = s.freezes ++ [f] ∧ (f.cause = if gw then 0x42 else 0x14) ∧
          ∀ y ∈ u.writes, y.id ≠ id) ∧
    (∀ i lane, (s.wf (brbPortAt i 0) 0 1 = 1 → s.wf (brbPortAt i 0) 9 1 = 0 → s.laneIn i lane = true →
        s.laneBad i lane = true → ∃ u, exec (.laneRepairStart i lane) s = .next u ∧ u.wf (brbPortAt i 0) 9 1 = 1 ∧
          (tget Port.zero u.ports i).repair = some (lane, s.now)) ∧
      ((s.wf (brbPortAt i 0) 0 1 = 0 ∨ s.laneIn i lane = false ∨ s.laneBad i lane = false) →
        exec (.laneRepairStart i lane) s = .next s) ∧
      ((tget Port.zero s.ports i).repair = none → exec (.laneRetrainDone i) s = .next s) ∧
      ∀ k, (tget Port.zero s.ports i).repair = some (lane, k) → lane < 8 → ∃ u, exec (.laneRetrainDone i) s = .next u ∧
        u.wf (brbPortAt i 0) 9 1 = 0 ∧ u.laneIn i lane = false ∧ (tget Port.zero u.ports i).repair = none ∧
        (((List.range 8).filter fun j => decide (j ≠ lane) && s.laneIn i j).length < 6 →
          u.wf (brbPortAt i 0) 0 1 = 0)) ∧
    ∃ u, exec .gatewayRefill s = .next u ∧ { u with gwAllow := s.gwAllow } = s ∧ ∀ p, p < 16 → tget 0 u.gwAllow p =
      if s.gwRate p = 0 then tget 0 s.gwAllow p else min (s.gwBurst p) (tget 0 s.gwAllow p + s.gwRate p)

/-- In a thread of any kind, for dividend a and divisor b that is not zero, DIV writes D with the signed quotient
truncated toward zero, REM with the signed remainder that has the sign of the dividend, DIVU and REMU with the
unsigned ones, and PC moves on; a is DIV(a, b) times b plus REM(a, b), and DIV of -2^63 by -1 gives -2^63 and REM 0.
With a divisor of zero each freezes the thread with cause DIV0 (0x08) and writes no register: in a thread that no
handler steps one freeze with that cause is latched, the thread is frozen, and its PC, registers and tags are as
before. (R189) -/
def Obligations.DivisionsWriteTheirResultOrFreeze : Prop :=
  ∀ (s : State) (t : Nat) (d a b : BitVec 6) (x y : Word), s.cur = .thread t → x = (s.thread t).reads a →
    y = (s.thread t).reads b →
    (y ≠ 0 → ∃ (q r qu ru : Word) (T1 T2 T3 T4 : Thread),
      (q.toInt = x.toInt.tdiv y.toInt ∨ (x = BitVec.intMin 64 ∧ y = BitVec.allOnes 64 ∧ q = BitVec.intMin 64)) ∧
      r.toInt = x.toInt.tmod y.toInt ∧ (r ≠ 0 → r.msb = x.msb) ∧ x = q * y + r ∧
      qu.toNat = x.toNat / y.toNat ∧ ru.toNat = x.toNat % y.toNat ∧
      (x = BitVec.intMin 64 → y = BitVec.allOnes 64 → q = BitVec.intMin 64 ∧ r = 0) ∧
      exec (.div d a b) s = .next (s.setThread t { T1 with divAt := s.now + 20 }) ∧ Wrote (s.thread t) T1 s.now d.toNat 20 q ∧
      exec (.rem d a b) s = .next (s.setThread t { T2 with divAt := s.now + 20 }) ∧ Wrote (s.thread t) T2 s.now d.toNat 20 r ∧
      exec (.divu d a b) s = .next (s.setThread t { T3 with divAt := s.now + 20 }) ∧
      Wrote (s.thread t) T3 s.now d.toNat 20 qu ∧
      exec (.remu d a b) s = .next (s.setThread t { T4 with divAt := s.now + 20 }) ∧
      Wrote (s.thread t) T4 s.now d.toNat 20 ru) ∧
    (y = 0 → ∃ u, u = s.freezeThread t 0x08 ∧ exec (.div d a b) s = .next u ∧ exec (.divu d a b) s = .next u ∧
      exec (.rem d a b) s = .next u ∧ exec (.remu d a b) s = .next u ∧
      ((s.thread t).stepBy = none → ∃ f, u.freezes = s.freezes ++ [f] ∧ f.cause = 0x08 ∧ (u.thread t).status = .frozen ∧
        (u.thread t).pc = (s.thread t).pc ∧ (∀ r, (u.thread t).getR r = (s.thread t).getR r) ∧
        ∀ r, (u.thread t).tag r = (s.thread t).tag r))

/-- RNGC in a thread of any kind sets s[D] to the 32-bit word plohan(s[A][31:0], s[A][63:32], s[B][31:0],
s[B][63:32]), zero-extended to 64 bits, and goes on; s0 stays zero, and nothing else changes but PC and the cycle of
the next instruction. The value is usable after 6 cycles. (R221) -/
def Obligations.RngcWritesTheGeneratorsDraw : Prop :=
  ∀ (s : State) (t : Nat) (d a b : BitVec 6), s.cur = .thread t →
    ∃ (T : Thread) (v : BitVec 32), exec (.rngc d a b) s = .next (s.setThread t T) ∧
      Wrote (s.thread t) T s.now d.toNat 6 (v.setWidth 64) ∧
      v.toNat = plohan (((s.thread t).reads a).extractLsb' 0 32).toNat (((s.thread t).reads a).extractLsb' 32 32).toNat
        (((s.thread t).reads b).extractLsb' 0 32).toNat (((s.thread t).reads b).extractLsb' 32 32).toNat

/-- Where the turn at the head of the agenda (the agenda is the model's own, log entry 4) is a thread's, with no
outstanding load, no step under way and no parity error, whose word at PC is an instruction i that may start, the step
is exec of i in that thread, held no longer (a fetch that corrects a bit is counted), followed by afterInstr, which
changes nothing where the thread still has no parity error. A word that is none freezes it (R45). A slot's turn in a
region that is not frozen, in a tile without a parity error, executes the slot's instruction if the guard holds, else
nothing. An event's turn is exec of that event. An empty agenda starts a new
cycle. A stop of exec is the step's own. (R45, R46, R55, R187) -/
def Obligations.AStepRunsTheDecodedInstruction : Prop :=
  ∀ (s : State) (xs : List Turn),
    (∀ t w, s.agenda = .thread t :: xs → (s.thread t).loads = [] → (s.thread t).stepBy = none → (s.thread t).regUe = [] →
      s.mayIssue (s.thread t) = true → (s.thread t).nextAt ≤ s.now → (s.thread t).codeUe = [] →
      (s.thread t).fetch.toNat = w → (usesH w = true → (s.thread t).hasH = true) →
      (∀ i, controlInstr w = some i → (s.thread t).canStart s.now i = true →
        ∀ S, S = { s with agenda := xs, cur := .thread t }.markStep t →
          ((s.thread t).held = false → (∀ k ∈ (s.thread t).codeCe, k ≠ (s.thread t).pc.toNat) →
            S = { s with agenda := xs, cur := .thread t }) ∧ S.mem = s.mem ∧
          (S.thread t).held = false ∧ (∀ k, k ≠ t → S.thread k = s.thread k) ∧
          (∀ u, exec i S = .next u → step s = .next (u.afterInstr t i none) ∧
            ((u.thread t).regUe = [] → step s = .next u)) ∧
          (∀ f, exec i S = .fault f → step s = .fault f) ∧ (∀ f, exec i S = .refused f → step s = .refused f)) ∧
      (controlInstr w = none → step s = .next ({ s with agenda := xs, cur := .thread t }.freezeThread t
        (if 1 ≤ classOf w ∧ classOf w ≤ 7 then 0x02 else 0x01)))) ∧
    (∀ r t row iter which f, s.agenda = .slot r t row iter which :: xs → (s.region r).frozen = false →
      (s.region r).rowUe = [] → (s.tile t).kUe = [] → decode (tget 0 (s.region r).rows (rowKey r t row)).toNat = .ok f → (∀ i, f ≠ .ctl i) →
      (∀ i, slotInstr f (fun k inv => (s.tile t).guard k.toNat inv) which = some i →
        step s = exec i { s with agenda := xs, cur := .tile r t row iter }) ∧
      (slotInstr f (fun k inv => (s.tile t).guard k.toNat inv) which = none → step s = .next { s with agenda := xs })) ∧
    (∀ i, s.agenda = .event i :: xs → step s = exec i { s with agenda := xs, cur := .hub }) ∧
    (s.agenda = [] → step s = .next s.newCycle)

/-- The FT word, the LD word and the ADDI word that chapter 02 encodes, five words of the vat chapter's table, the
words of R44, and words written from the tables of R56 to R63 decode to the instruction, slot by slot, that the spec
gives for them; a zero class with another bit set, a class of R43 that is reserved and a must-be-zero field that is
not zero decode to none. (R43, R44, R46, R47, R48, R56, R57, R58, R61, R62, R63) -/
def Obligations.SampleWordsDecodeAsTheSpecSays : Prop :=
  decode 0x100880000822C2023000 = .ok (.ft false 0 (some (.mxfeed 1 0 false 0))
    (some (.vfma ⟨false, 2, 2, 12, 1, false⟩)) (some (.prd 3 0))) ∧
  decodeTableWord 80 0xA0110501C04000000100 = some (.ld ⟨4, 5, 0, 3, 4, 0, 1, 0, 16⟩) ∧
  decodeTableWord 80 0x9010C300000000200000 = some (.addi 3 3 8) ∧
  decodeTableWord 80 0x10170002000000000000 = some (.mxaccf 2 0 false false 2) ∧
  decodeTableWord 80 0x10090080000000000000 = some (.mxfeed 2 0 true 0) ∧
  decodeTableWord 80 0x100B0000000000000000 = some (.mxbub 2) ∧
  decodeTableWord 80 0 = some .nop ∧ decodeTableWord 80 (2 ^ 80 - 1) = some .guard ∧
  decodeTableWord 80 (8 * 2 ^ 76 + 0x21 * 2 ^ 68 + 3 * 2 ^ 62 + 7 * 2 ^ 56) = some (.mov 3 7) ∧
  decodeTableWord 80 (12 * 2 ^ 76 + 0x02 * 2 ^ 68 + 77 * 2 ^ 18) = some (.svc 77) ∧
  decodeTableWord 80 1 = none ∧ decodeTableWord 80 (3 * 2 ^ 76) = none ∧ decodeTableWord 80 (14 * 2 ^ 76) = none ∧
  decodeTableWord 80 (0x9010C300000000200000 + 1) = none

/-- State.reset is at cycle 0 with no thread, region, partition, write or freeze standing, every register of the
window at its reset value, among them DRAINLIM, CDRATE and the two fields of FQCFG as their tables give them, and
memory in its canonical form. Its one turn is power-on: the step executes it, finds no firmware in the flash (an empty
flash is the model's choice, log entry 21) and waits for a recovery image. (R204, R323, R341, R368, R375) -/
def Obligations.ResetStandsBeforeTheBootRom : Prop :=
  State.reset.now = 0 ∧ State.reset.memOk ∧ State.reset.writes = [] ∧ State.reset.freezes = [] ∧
  (∀ t, (State.reset.thread t).status = .none) ∧ (∀ r, (State.reset.region r).placed = false) ∧
  (∀ a, State.reset.byte a = 0) ∧ (∀ pa, State.reset.w pa = winReset pa) ∧
  State.reset.w (crbAt 8) = 22000 ∧ State.reset.w (trbAt 0x10) = 8 ∧
  (∀ p, p < 16 → State.reset.wf (prbAt p 0x1040) 0 9 = 4 ∧ State.reset.wf (prbAt p 0x1040) 16 9 = 64) ∧
  step State.reset = exec .powerOnReset { State.reset with agenda := [], cur := .hub } ∧
  ∃ u, step State.reset = .next u ∧ u.recoveryWait = true ∧ u.memOk ∧ ∀ t, (u.thread t).status = .none

/-- For every decoded word whose instructions are well formed and stand where their class may (NOP, GUARD, an FT word
with any guard and any three slots, empty ones among them, an FL word with any guard, a control word), the word that
the encoder writes is below 2^80 and decodes to it. Every 80-bit word that decodes at all is such a word and is
written again bit for bit, so no must-be-zero bit is dropped. For every well-formed instruction that has a word,
decoding its own word gives it back, with every operand at every admitted value. (R6, R43, R44, R46, R47, R48, R55,
R56, R57) -/
def Obligations.DecodeAndEncodeAgree : Prop :=
  (∀ f, Legal f → wordOf f < 2 ^ 80 ∧ decode (wordOf f) = .ok f) ∧
  (∀ (w : Nat) f, w < 2 ^ 80 → decode w = .ok f → Legal f ∧ wordOf f = w) ∧
  ∀ i, hasWord i = true → wellFormed i = true → decodeTableWord 80 (encode i) = some i

/-- For every state whose memory is in canonical form (addresses strictly rising, no entry equal to what an unlisted
address reads as), if the step answers a next state, its memory is in canonical form, whatever instruction, event or
turn of the hub the step ran. (R5, R237, R275, R277) -/
def Obligations.EveryStepKeepsMemoryCanonical : Prop :=
  ∀ s t : State, s.memOk → step s = .next t → t.memOk

/-- For every state with canonical memory, if the step answers a next state, the version that the fuses hold and the
index of the one-time signatures are no lower than before, whatever instruction, event, reset or power loss the step
ran: the fuses are blown and never restored, and no index is used twice. (R376, R377) -/
def Obligations.NoStepTakesAFuseOrAKeyIndexBack : Prop :=
  ∀ s t : State, s.memOk → step s = .next t → s.fuseVersion ≤ t.fuseVersion ∧ s.xmssIndex ≤ t.xmssIndex
end

