-- ==== Sys2Proof/Laws/Tab.lean ====
section
/-! SUPPORT. Sparse tables: a read after a write, and the canonical form under each operation. -/

namespace Sys2Proof.Machine

variable {α : Type}

theorem tabove_mono {t : Tab α} {lo lo' : Nat} (h : tabove lo t = true) (hl : lo' ≤ lo) : tabove lo' t = true := by
  cases t with
  | nil => rfl
  | cons e t =>
    simp only [tabove, Bool.and_eq_true, decide_eq_true_eq] at h ⊢
    exact ⟨by omega, h.2⟩

theorem trising_of_tabove {t : Tab α} {lo : Nat} (h : tabove lo t = true) : trising t = true := by
  cases t with
  | nil => rfl
  | cons e t => simp only [tabove, Bool.and_eq_true] at h; exact h.2

theorem tget_of_tabove {d : α} {t : Tab α} {lo n : Nat} (h : tabove lo t = true) (hn : n ≤ lo) : tget d t n = d := by
  induction t generalizing lo with
  | nil => rfl
  | cons e t ih =>
    simp only [tabove, Bool.and_eq_true, decide_eq_true_eq] at h
    rw [tget, if_neg (by omega)]
    exact ih h.2 (by omega)

theorem tget_tput_same (d : α) (t : Tab α) (n : Nat) (v : α) : tget d (tput t n v) n = v := by
  induction t with
  | nil => simp [tput, tget]
  | cons e t ih =>
    simp only [tput]
    split
    · simp [tget]
    · split
      · simp [tget]
      · rename_i h1 h2; rw [tget, if_neg h1, ih]

theorem tget_tput_ne (d : α) (t : Tab α) {n k : Nat} (v : α) (h : k ≠ n) : tget d (tput t n v) k = tget d t k := by
  induction t with
  | nil => simp [tput, tget, h]
  | cons e t ih =>
    simp only [tput]
    split
    · subst n; simp only [tget, if_neg h]
    · split
      · rw [tget, if_neg h]
      · simp only [tget, ih]

theorem tget_tdel_ne (d : α) (t : Tab α) {n k : Nat} (h : k ≠ n) : tget d (tdel t n) k = tget d t k := by
  induction t with
  | nil => rfl
  | cons e t ih =>
    simp only [tdel]
    split
    · subst n; rw [ih, tget, if_neg h]
    · simp only [tget, ih]

theorem tget_tdel_same (d : α) (t : Tab α) (n : Nat) : tget d (tdel t n) n = d := by
  induction t with
  | nil => rfl
  | cons e t ih =>
    simp only [tdel]
    split
    · exact ih
    · rename_i h1; rw [tget, if_neg h1, ih]

/-- A read of the key just written gives the value written. -/
theorem tget_tset_same [DecidableEq α] (d : α) (t : Tab α) (n : Nat) (v : α) : tget d (tset d t n v) n = v := by
  unfold tset
  split
  · subst v; exact tget_tdel_same d t n
  · exact tget_tput_same d t n v

/-- A read of another key gives what it gave before. -/
theorem tget_tset_ne [DecidableEq α] (d : α) (t : Tab α) {n k : Nat} (v : α) (h : k ≠ n) :
    tget d (tset d t n v) k = tget d t k := by
  unfold tset
  split
  · exact tget_tdel_ne d t h
  · exact tget_tput_ne d t v h

theorem tabove_tput {t : Tab α} {lo n : Nat} (v : α) (h : tabove lo t = true) (hn : lo < n) :
    tabove lo (tput t n v) = true := by
  induction t generalizing lo with
  | nil => simp [tput, tabove, hn]
  | cons e t ih =>
    simp only [tabove, Bool.and_eq_true, decide_eq_true_eq] at h
    simp only [tput]
    split
    · subst n; simp [tabove, h]
    · split
      · simp [tabove, hn, h]; omega
      · simp only [tabove, Bool.and_eq_true, decide_eq_true_eq]
        exact ⟨h.1, ih h.2 (by omega)⟩

theorem tabove_tdel {t : Tab α} {lo : Nat} (n : Nat) (h : tabove lo t = true) : tabove lo (tdel t n) = true := by
  induction t generalizing lo with
  | nil => rfl
  | cons e t ih =>
    simp only [tabove, Bool.and_eq_true, decide_eq_true_eq] at h
    simp only [tdel]
    split
    · exact tabove_mono (ih h.2) (by omega)
    · simp only [tabove, Bool.and_eq_true, decide_eq_true_eq]
      exact ⟨h.1, ih h.2⟩

theorem trising_tput {t : Tab α} (n : Nat) (v : α) (h : trising t = true) : trising (tput t n v) = true := by
  cases t with
  | nil => rfl
  | cons e t =>
    simp only [trising] at h
    simp only [tput]
    split
    · subst n; exact h
    · split
      · simp [trising, tabove, h]; omega
      · exact tabove_tput v h (by omega)

theorem trising_tdel {t : Tab α} (n : Nat) (h : trising t = true) : trising (tdel t n) = true := by
  cases t with
  | nil => rfl
  | cons e t =>
    simp only [trising] at h
    simp only [tdel]
    split
    · exact trising_of_tabove (tabove_tdel n h)
    · exact tabove_tdel n h

theorem all_tput {t : Tab α} (p : Nat × α → Bool) (n : Nat) (v : α) (h : t.all p = true) (hv : p (n, v) = true) :
    (tput t n v).all p = true := by
  induction t with
  | nil => simp [tput, hv]
  | cons e t ih =>
    simp only [List.all_cons, Bool.and_eq_true] at h
    simp only [tput]
    split
    · simp only [List.all_cons, hv, h.2, Bool.and_self]
    · split
      · simp only [List.all_cons, hv, h.1, h.2, Bool.and_self]
      · simp only [List.all_cons, h.1, ih h.2, Bool.and_self]

theorem all_tdel {t : Tab α} (p : Nat × α → Bool) (n : Nat) (h : t.all p = true) : (tdel t n).all p = true := by
  induction t with
  | nil => rfl
  | cons e t ih =>
    simp only [List.all_cons, Bool.and_eq_true] at h
    simp only [tdel]
    split
    · exact ih h.2
    · simp only [List.all_cons, h.1, ih h.2, Bool.and_self]

/-- A write keeps the canonical form. -/
theorem twf_tset [DecidableEq α] {d : α} {t : Tab α} (n : Nat) (v : α) (h : twf d t = true) :
    twf d (tset d t n v) = true := by
  simp only [twf, Bool.and_eq_true] at h ⊢
  unfold tset
  split
  · exact ⟨trising_tdel n h.1, all_tdel _ n h.2⟩
  · rename_i hv
    exact ⟨trising_tput n v h.1, all_tput _ n v h.2 (by simpa using hv)⟩

theorem tabove_filter {t : Tab α} {lo : Nat} (p : Nat × α → Bool) (h : tabove lo t = true) :
    tabove lo (t.filter p) = true := by
  induction t generalizing lo with
  | nil => rfl
  | cons e t ih =>
    simp only [tabove, Bool.and_eq_true, decide_eq_true_eq] at h
    rw [List.filter_cons]
    split
    · simp only [tabove, Bool.and_eq_true, decide_eq_true_eq]
      exact ⟨h.1, ih h.2⟩
    · exact ih (tabove_mono h.2 (by omega))

/-- Dropping entries keeps the canonical form. -/
theorem twf_filter [DecidableEq α] {d : α} {t : Tab α} (p : Nat × α → Bool) (h : twf d t = true) :
    twf d (t.filter p) = true := by
  simp only [twf, Bool.and_eq_true] at h ⊢
  refine ⟨?_, ?_⟩
  · cases t with
    | nil => rfl
    | cons e t =>
      have h1 : tabove e.1 t = true := h.1
      rw [List.filter_cons]
      split
      · exact tabove_filter p h1
      · exact trising_of_tabove (tabove_filter p h1)
  · simp only [List.all_eq_true, List.mem_filter] at h ⊢
    exact fun x hx => h.2 x hx.1

theorem twf_rising [DecidableEq α] {d : α} {t : Tab α} (h : twf d t = true) : trising t = true := by
  simp only [twf, Bool.and_eq_true] at h; exact h.1

/-- Two tables in canonical form that read the same at every key are the same table. -/
theorem twf_ext [DecidableEq α] {d : α} {t u : Tab α} (ht : twf d t = true) (hu : twf d u = true)
    (h : ∀ n, tget d t n = tget d u n) : t = u := by
  induction t generalizing u with
  | nil =>
    cases u with
    | nil => rfl
    | cons e u =>
      simp only [twf, List.all_cons, Bool.and_eq_true, decide_eq_true_eq] at hu
      have := h e.1
      simp [tget] at this
      exact absurd this.symm hu.2.1
  | cons e t ih =>
    cases u with
    | nil =>
      simp only [twf, List.all_cons, Bool.and_eq_true, decide_eq_true_eq] at ht
      have := h e.1
      simp [tget] at this
      exact absurd this ht.2.1
    | cons f u =>
      simp only [twf, List.all_cons, Bool.and_eq_true, decide_eq_true_eq, trising] at ht hu
      have key : e.1 = f.1 := by
        rcases Nat.lt_trichotomy e.1 f.1 with hl | hl | hl
        · have := h e.1
          rw [tget, if_pos rfl, tget, if_neg (by omega), tget_of_tabove hu.1 (by omega)] at this
          exact absurd this ht.2.1
        · exact hl
        · have := h f.1
          rw [tget, if_neg (by omega), tget_of_tabove ht.1 (by omega), tget, if_pos rfl] at this
          exact absurd this.symm hu.2.1
      have val : e.2 = f.2 := by
        have := h e.1
        rw [tget, if_pos rfl, tget, if_pos key] at this
        exact this
      have rest : t = u := by
        apply ih
        · simp only [twf, Bool.and_eq_true]; exact ⟨trising_of_tabove ht.1, ht.2.2⟩
        · simp only [twf, Bool.and_eq_true]; exact ⟨trising_of_tabove hu.1, hu.2.2⟩
        · intro n
          have hn := h n
          by_cases h1 : n ≤ e.1
          · rw [tget_of_tabove ht.1 h1, tget_of_tabove hu.1 (key ▸ h1)]
          · rw [tget, if_neg (by omega), tget, if_neg (by omega)] at hn
            exact hn
      rw [rest, show e = f from Prod.ext key val]

end Sys2Proof.Machine
end

