-- ==== Sys2Proof/Laws/Memory.lean ====
section
/-! SUPPORT. Memory: a read after a write, and the canonical form under every memory operation. -/

namespace Sys2Proof.Machine

namespace Memory

theorem wf_nil : wf [] = true := rfl

theorem wf_put {m : List Host.Cell} (a : Nat) (b : Byte) (h : wf m = true) : wf (put m a b) = true :=
  twf_tset a b h

theorem get_put_same {m : List Host.Cell} (a : Nat) (b : Byte) : get (put m a b) a = b :=
  tget_tset_same blank m a b

theorem get_put_ne {m : List Host.Cell} {a c : Nat} (b : Byte) (hne : c ≠ a) :
    get (put m a b) c = get m c :=
  tget_tset_ne blank m b hne

theorem wf_putAll {m : List Host.Cell} (a : Nat) (bs : List Byte) (h : wf m = true) : wf (putAll m a bs) = true := by
  induction bs generalizing m a with
  | nil => exact h
  | cons b bs ih => exact ih (a + 1) (wf_put a b h)

/-- A byte outside the written ones reads as before. -/
theorem get_putAll_out {m : List Host.Cell} {a c : Nat} (bs : List Byte) (hc : c < a ∨ a + bs.length ≤ c) : get (putAll m a bs) c = get m c := by
  induction bs generalizing m a with
  | nil => rfl
  | cons b bs ih =>
    simp only [List.length_cons] at hc
    rw [putAll, ih (by omega), get_put_ne b (by omega)]

theorem getAll_put_below {m : List Host.Cell} {a c : Nat} (b : Byte) (n : Nat) (hc : c < a) :
    getAll (put m c b) a n = getAll m a n := by
  induction n generalizing a with
  | zero => rfl
  | succ n ih => rw [getAll, getAll, get_put_ne b (by omega), ih (by omega)]

/-- Bytes read where they were just written are those written. -/
theorem getAll_putAll {m : List Host.Cell} (a : Nat) (bs : List Byte) :
    getAll (putAll m a bs) a bs.length = bs := by
  induction bs generalizing m a with
  | nil => rfl
  | cons b bs ih =>
    rw [List.length_cons, getAll, putAll, ih (a + 1),
      get_putAll_out bs (by omega), get_put_same a b]

end Memory

theorem bytesNat_natBytes (n v : Nat) : bytesNat (natBytes v n) = v % 256 ^ n := by
  induction n generalizing v with
  | zero => simp [natBytes, bytesNat, Nat.mod_one]
  | succ n ih =>
    have e : 256 ^ (n + 1) = 256 * 256 ^ n := by rw [Nat.pow_succ, Nat.mul_comm]
    rw [natBytes, bytesNat, ih, BitVec.toNat_ofNat, e, Nat.mod_mul]
    simp

theorem length_natBytes (n v : Nat) : (natBytes v n).length = n := by
  induction n generalizing v with
  | zero => rfl
  | succ n ih => simp [natBytes, ih]

/-- A read of n bytes where a number of n bytes was just written gives that number. -/
theorem State.mget_mput (s : State) (m : Master) (a n v : Nat) :
    (s.mput m a n v).mget a n = v % 256 ^ n := by
  have h1 := Memory.getAll_putAll (m := s.mem) a (natBytes v n)
  rw [length_natBytes] at h1
  rw [← bytesNat_natBytes, ← h1]
  rfl

/-- A byte outside a write reads as before. -/
theorem State.byte_mputBytes_out (s : State) (m : Master) {a c : Nat} (bs : List Byte)
    (hc : c < a ∨ a + bs.length ≤ c) : (s.mputBytes m a bs).byte c = s.byte c :=
  Memory.get_putAll_out bs hc

end Sys2Proof.Machine
end

