-- ==== Sys2Proof/Laws/Kept.lean ====
section
/-! SUPPORT. What every operation of the machine keeps: the canonical form of memory, the version fuses, which only
rise (R376), and the index of the one-time keys, which only rises (R377). One lemma per operation; `Kept init s` says it of
a state `s` that was reached from `init`. -/

namespace Sys2Proof.Machine

variable {init : State}

/-- Memory in canonical form, and a fuse version and a one-time index no lower than those of `init`. -/
def KeptAt (init : State) (m : List Host.Cell) (f x : Nat) : Prop :=
  Memory.wf m = true ∧ init.fuseVersion ≤ f ∧ init.xmssIndex ≤ x

@[reducible] def Kept (init s : State) : Prop := KeptAt init s.mem s.fuseVersion s.xmssIndex
/-- The same of the next state of an outcome, of a state that there may be, of a state or a cause. -/
def Keeps (init : State) (r : Host.Outcome State Fault Refusal) : Prop := ∀ t, r = .next t → Kept init t
def KeepsO (init : State) (r : Option State) : Prop := ∀ t, r = some t → Kept init t
def KeepsE (init : State) (r : Except Nat State) : Prop := ∀ t, r = .ok t → Kept init t

theorem kept_self {s : State} (h : Memory.wf s.mem = true) : Kept s s := ⟨h, Nat.le_refl _, Nat.le_refl _⟩
theorem keeps_next {t : State} (h : Kept init t) : Keeps init (.next t) := by
  intro u e; cases e; exact h
theorem keeps_fault (f : Fault) : Keeps init (.fault f) := by intro u e; cases e
theorem keeps_refused (r : Refusal) : Keeps init (.refused r) := by intro u e; cases e
theorem keepsO_some {t : State} (h : Kept init t) : KeepsO init (some t) := by
  intro u e; cases e; exact h
theorem keepsO_none : KeepsO init none := by intro u e; cases e
theorem keepsE_ok {t : State} (h : Kept init t) : KeepsE init (.ok t) := by
  intro u e; cases e; exact h
theorem keepsE_error (n : Nat) : KeepsE init (.error n) := by intro u e; cases e
theorem kept_of_pair {α : Type} {p : State × α} {t : State} {a : α} (h : Kept init p.1) (e : p = (t, a)) : Kept init t := by
  subst e; exact h
theorem kept_of_pair2 {α : Type} {p : α × State} {t : State} {a : α} (h : Kept init p.2) (e : p = (a, t)) : Kept init t := by
  subst e; exact h
theorem kept_of_some {r : Option State} {t : State} (h : KeepsO init r) (e : r = some t) : Kept init t := h t e
theorem kept_of_ok {r : Except Nat State} {t : State} (h : KeepsE init r) (e : r = .ok t) : Kept init t := h t e
theorem keepsO_map {α : Type} {r : Option α} {f : α → State} (h : ∀ x, Kept init (f x)) : KeepsO init (r.map f) := by
  cases r with
  | none => exact keepsO_none
  | some x => exact keepsO_some (h x)
theorem keepsO_mapO {r : Option State} {f : State → State} (hr : KeepsO init r) (h : ∀ x, Kept init x → Kept init (f x)) :
    KeepsO init (r.map f) := by
  cases r with
  | none => exact keepsO_none
  | some x => exact keepsO_some (h x (hr x rfl))
theorem getD_kept {r : Option State} {s : State} (h : KeepsO init r) (hs : Kept init s) : Kept init (r.getD s) := by
  cases r with
  | none => exact hs
  | some x => exact h x rfl
theorem keepsO_ite {c : Prop} [Decidable c] {a b : Option State} (h1 : c → KeepsO init a) (h2 : ¬ c → KeepsO init b) :
    KeepsO init (if c then a else b) := by
  by_cases h : c
  · rw [if_pos h]; exact h1 h
  · rw [if_neg h]; exact h2 h
theorem keeps_ite {c : Prop} [Decidable c] {a b : Host.Outcome State Fault Refusal} (h1 : c → Keeps init a)
    (h2 : ¬ c → Keeps init b) : Keeps init (if c then a else b) := by
  by_cases h : c
  · rw [if_pos h]; exact h1 h
  · rw [if_neg h]; exact h2 h
theorem kept_ite {c : Prop} [Decidable c] {a b : State} (h1 : c → Kept init a) (h2 : ¬ c → Kept init b) :
    Kept init (if c then a else b) := by
  by_cases h : c
  · rw [if_pos h]; exact h1 h
  · rw [if_neg h]; exact h2 h
theorem foldl_kept {α : Type} {l : List α} {f : State → α → State} {s : State}
    (hf : ∀ t x, Kept init t → Kept init (f t x)) (h : Kept init s) : Kept init (l.foldl f s) := by
  induction l generalizing s with
  | nil => exact h
  | cons x l ih => exact ih (hf s x h)
theorem foldl_kept1 {α β : Type} {l : List α} {f : State × β → α → State × β} {s : State × β}
    (hf : ∀ t x, Kept init t.1 → Kept init (f t x).1) (h : Kept init s.1) : Kept init (l.foldl f s).1 := by
  induction l generalizing s with
  | nil => exact h
  | cons x l ih => exact ih (hf s x h)

theorem State.setThread_kept (s : State) (t : Nat) (x : Thread) (hs : Kept init s) :
    Kept init (State.setThread s t x) := by
  replace hs : KeptAt init s.mem s.fuseVersion s.xmssIndex := hs
  unfold State.setThread
  repeat' first
    | with_reducible assumption

theorem State.setTile_kept (s : State) (t : Nat) (x : Tile) (hs : Kept init s) :
    Kept init (State.setTile s t x) := by
  replace hs : KeptAt init s.mem s.fuseVersion s.xmssIndex := hs
  unfold State.setTile
  repeat' first
    | with_reducible assumption

theorem State.setRegion_kept (s : State) (r : Nat) (x : Region) (hs : Kept init s) :
    Kept init (State.setRegion s r x) := by
  replace hs : KeptAt init s.mem s.fuseVersion s.xmssIndex := hs
  unfold State.setRegion
  repeat' first
    | with_reducible assumption

theorem State.setPart_kept (s : State) (p : Nat) (x : Part) (hs : Kept init s) :
    Kept init (State.setPart s p x) := by
  replace hs : KeptAt init s.mem s.fuseVersion s.xmssIndex := hs
  unfold State.setPart
  repeat' first
    | with_reducible assumption

theorem State.putFab_kept (s : State) (r : Nat) (o : FabOut) (hs : Kept init s) :
    Kept init (State.putFab s r o) := by
  replace hs : KeptAt init s.mem s.fuseVersion s.xmssIndex := hs
  unfold State.putFab
  try dsimp only
  repeat' first
    | with_reducible assumption | with_reducible apply State.setRegion_kept | split

theorem onFabric_kept (s : State) (f : FabCtx → Tab Tile → FabOut) (hs : Kept init s) :
    Keeps init (onFabric s f) := by
  replace hs : KeptAt init s.mem s.fuseVersion s.xmssIndex := hs
  unfold onFabric
  repeat' first
    | with_reducible assumption | with_reducible apply State.putFab_kept | with_reducible apply keeps_next
    | with_reducible apply keeps_fault | split

theorem tileOp_kept (s : State) (f : FabCtx → Tile → Tile × List Token) (hs : Kept init s) :
    Keeps init (tileOp s f) := by
  replace hs : KeptAt init s.mem s.fuseVersion s.xmssIndex := hs
  unfold tileOp
  repeat' first
    | with_reducible assumption | with_reducible apply onFabric_kept | with_reducible apply keeps_next

theorem tileOp1_kept (s : State) (f : FabCtx → Tile → Tile) (hs : Kept init s) :
    Keeps init (tileOp1 s f) := by
  replace hs : KeptAt init s.mem s.fuseVersion s.xmssIndex := hs
  unfold tileOp1
  repeat' first
    | with_reducible assumption | with_reducible apply onFabric_kept | with_reducible apply keeps_next

theorem longOp_kept (s : State) (i : Instr) (f : FabCtx → Tile → Tile) (hs : Kept init s) :
    Keeps init (longOp s i f) := by
  replace hs : KeptAt init s.mem s.fuseVersion s.xmssIndex := hs
  unfold longOp
  try dsimp only
  repeat' first
    | with_reducible assumption | with_reducible apply tileOp1_kept | with_reducible apply keeps_next

theorem State.latchFreeze_kept (s : State) (u : FUnit) (part : Nat) (die : Nat) (nest : Nat) (precise : Bool) (funit : Word) (i : FreezeInfo) (hs : Kept init s) :
    Kept init (State.latchFreeze s u part die nest precise funit i) := by
  replace hs : KeptAt init s.mem s.fuseVersion s.xmssIndex := hs
  unfold State.latchFreeze
  try dsimp only
  repeat' first
    | with_reducible assumption | with_reducible apply foldl_kept | with_reducible apply getD_kept | split | intro _

theorem State.mapTiles_kept (s : State) (ts : List Nat) (f : Tile → Tile) (hs : Kept init s) :
    Kept init (State.mapTiles s ts f) := by
  replace hs : KeptAt init s.mem s.fuseVersion s.xmssIndex := hs
  unfold State.mapTiles
  repeat' first
    | with_reducible assumption | with_reducible apply foldl_kept | intro _

theorem State.stopRegion_kept (s : State) (r : Nat) (hs : Kept init s) :
    Kept init (State.stopRegion s r) := by
  replace hs : KeptAt init s.mem s.fuseVersion s.xmssIndex := hs
  unfold State.stopRegion
  try dsimp only
  repeat' first
    | with_reducible assumption | with_reducible apply State.setThread_kept | with_reducible apply State.setRegion_kept
    | with_reducible apply State.mapTiles_kept | split

theorem State.freezeRegion_kept (s : State) (r : Nat) (t : Nat) (i : FreezeInfo) (hs : Kept init s) :
    Kept init (State.freezeRegion s r t i) := by
  replace hs : KeptAt init s.mem s.fuseVersion s.xmssIndex := hs
  unfold State.freezeRegion
  try dsimp only
  repeat' first
    | with_reducible assumption | with_reducible apply State.latchFreeze_kept | with_reducible apply State.stopRegion_kept
    | with_reducible apply kept_ite | intro _

theorem State.regionTokens_kept (s : State) (r : Nat) (hs : Kept init s) :
    Kept init (State.regionTokens s r) := by
  replace hs : KeptAt init s.mem s.fuseVersion s.xmssIndex := hs
  unfold State.regionTokens
  try dsimp only
  repeat' first
    | with_reducible assumption | with_reducible apply State.freezeRegion_kept | split

theorem State.resumeRegion_kept (s : State) (r : Nat) (hs : Kept init s) :
    Kept init (State.resumeRegion s r) := by
  replace hs : KeptAt init s.mem s.fuseVersion s.xmssIndex := hs
  unfold State.resumeRegion
  try dsimp only
  repeat' first
    | with_reducible assumption | with_reducible apply State.setThread_kept | with_reducible apply State.setRegion_kept
    | with_reducible apply kept_ite | intro _

theorem State.stepResult_kept (s : State) (h : Nat) (d : Nat) (v : Word) (hs : Kept init s) :
    Kept init (State.stepResult s h d v) := hs

theorem State.stepFreeze_kept (s : State) (t : Nat) (h : Nat) (T : Thread) (i : FreezeInfo) (hs : Kept init s) :
    Kept init (State.stepFreeze s t h T i) := by
  replace hs : KeptAt init s.mem s.fuseVersion s.xmssIndex := hs
  unfold State.stepFreeze
  try dsimp only
  repeat' first
    | with_reducible assumption | with_reducible apply State.setThread_kept | with_reducible apply State.stepResult_kept
    | with_reducible apply kept_ite | intro _

theorem State.freezeThreadT_kept (s : State) (t : Nat) (T : Thread) (i : FreezeInfo) (hs : Kept init s) :
    Kept init (State.freezeThreadT s t T i) := by
  replace hs : KeptAt init s.mem s.fuseVersion s.xmssIndex := hs
  unfold State.freezeThreadT
  try dsimp only
  repeat' first
    | with_reducible assumption | with_reducible apply State.setThread_kept | with_reducible apply State.setRegion_kept
    | with_reducible apply State.latchFreeze_kept | with_reducible apply State.mapTiles_kept
    | with_reducible apply State.stepFreeze_kept | with_reducible apply kept_ite | split | intro _

theorem State.freezeThread_kept (s : State) (t : Nat) (cause : Nat) (faddr : Word) (hs : Kept init s) :
    Kept init (State.freezeThread s t cause faddr) := by
  replace hs : KeptAt init s.mem s.fuseVersion s.xmssIndex := hs
  unfold State.freezeThread
  repeat' first
    | with_reducible assumption | with_reducible apply State.freezeThreadT_kept

theorem State.resumeThread_kept (s : State) (t : Nat) (hs : Kept init s) :
    Kept init (State.resumeThread s t) := hs

theorem onThread_kept (s : State) (ks : List Kind) (f : Nat → Thread → State) (hs : Kept init s) (hf : ∀ v0 v1, Kept init (f v0 v1)) :
    Keeps init (onThread s ks f) := by
  replace hs : KeptAt init s.mem s.fuseVersion s.xmssIndex := hs
  unfold onThread
  try dsimp only
  repeat' first
    | with_reducible assumption | with_reducible apply hf | with_reducible apply State.freezeThread_kept
    | with_reducible apply keeps_next | with_reducible apply keeps_fault | with_reducible apply keeps_ite | split
    | intro _

theorem regOp_kept (s : State) (d : BitVec 6) (lat : Nat) (f : Thread → Word) (hs : Kept init s) :
    Keeps init (regOp s d lat f) := by
  replace hs : KeptAt init s.mem s.fuseVersion s.xmssIndex := hs
  unfold regOp
  try dsimp only
  repeat' first
    | with_reducible assumption | with_reducible apply State.setThread_kept | with_reducible apply onThread_kept
    | with_reducible apply foldl_kept | with_reducible apply keepsO_some | with_reducible apply getD_kept
    | with_reducible apply keepsO_none | with_reducible apply keeps_next | with_reducible apply keeps_fault
    | with_reducible apply keepsE_ok | with_reducible apply keepsE_error | with_reducible apply foldl_kept1
    | with_reducible apply keepsO_ite | with_reducible apply keeps_ite | with_reducible apply kept_ite | dsimp only
    | split | with_reducible apply keepsO_mapO | with_reducible apply keepsO_map
    | with_reducible (refine kept_of_pair ?_ (by assumption)) | with_reducible (refine kept_of_some ?_ (by assumption))
    | with_reducible (refine kept_of_ok ?_ (by assumption)) | with_reducible (refine kept_of_pair2 ?_ (by assumption))
    | intro _

theorem hubOp_kept (s : State) (hs : Kept init s) :
    Keeps init (hubOp s) := by
  replace hs : KeptAt init s.mem s.fuseVersion s.xmssIndex := hs
  unfold hubOp
  repeat' first
    | with_reducible assumption | with_reducible apply keeps_next

theorem State.choose_kept (s : State) (n : Nat) (hs : Kept init s) :
    Kept init (State.choose s n).2 := by
  replace hs : KeptAt init s.mem s.fuseVersion s.xmssIndex := hs
  unfold State.choose
  try dsimp only
  repeat' first
    | with_reducible assumption

theorem divOp_kept (s : State) (d : BitVec 6) (a : BitVec 6) (b : BitVec 6) (f : Word → Word → Word) (hs : Kept init s) :
    Keeps init (divOp s d a b f) := by
  replace hs : KeptAt init s.mem s.fuseVersion s.xmssIndex := hs
  unfold divOp
  try dsimp only
  repeat' first
    | with_reducible assumption | with_reducible apply State.setThread_kept | with_reducible apply State.freezeThread_kept
    | with_reducible apply onThread_kept | with_reducible apply foldl_kept | with_reducible apply keepsO_some
    | with_reducible apply getD_kept | with_reducible apply keepsO_none | with_reducible apply keeps_next
    | with_reducible apply keeps_fault | with_reducible apply keepsE_ok | with_reducible apply keepsE_error
    | with_reducible apply foldl_kept1 | with_reducible apply keepsO_ite | with_reducible apply keeps_ite
    | with_reducible apply kept_ite | dsimp only | split | with_reducible apply keepsO_mapO
    | with_reducible apply keepsO_map | with_reducible (refine kept_of_pair ?_ (by assumption))
    | with_reducible (refine kept_of_some ?_ (by assumption)) | with_reducible (refine kept_of_ok ?_ (by assumption))
    | with_reducible (refine kept_of_pair2 ?_ (by assumption)) | intro _

theorem execNop_kept (s : State) (hs : Kept init s) :
    Keeps init (execNop s) := by
  replace hs : KeptAt init s.mem s.fuseVersion s.xmssIndex := hs
  unfold execNop
  repeat' first
    | with_reducible assumption | with_reducible apply State.setThread_kept | with_reducible apply keeps_next
    | with_reducible apply keeps_fault | split

theorem execGuard_kept (s : State) (hs : Kept init s) :
    Keeps init (execGuard s) := by
  replace hs : KeptAt init s.mem s.fuseVersion s.xmssIndex := hs
  unfold execGuard
  repeat' first
    | with_reducible assumption | with_reducible apply onFabric_kept | with_reducible apply State.freezeThread_kept
    | with_reducible apply keeps_next | with_reducible apply keeps_fault | split

theorem branchOp_kept (s : State) (off : BitVec 32) (taken : Thread → Bool) (hs : Kept init s) :
    Keeps init (branchOp s off taken) := by
  replace hs : KeptAt init s.mem s.fuseVersion s.xmssIndex := hs
  unfold branchOp
  repeat' first
    | with_reducible assumption | with_reducible apply State.setThread_kept | with_reducible apply onThread_kept
    | with_reducible apply keeps_next | with_reducible apply keeps_ite | intro _

theorem linkOp_kept (s : State) (d : BitVec 6) (target : Thread → Word) (hs : Kept init s) :
    Keeps init (linkOp s d target) := by
  replace hs : KeptAt init s.mem s.fuseVersion s.xmssIndex := hs
  unfold linkOp
  try dsimp only
  repeat' first
    | with_reducible assumption | with_reducible apply State.setThread_kept | with_reducible apply onThread_kept
    | with_reducible apply foldl_kept | with_reducible apply keepsO_some | with_reducible apply getD_kept
    | with_reducible apply keepsO_none | with_reducible apply keeps_next | with_reducible apply keeps_fault
    | with_reducible apply keepsE_ok | with_reducible apply keepsE_error | with_reducible apply foldl_kept1
    | with_reducible apply keepsO_ite | with_reducible apply keeps_ite | with_reducible apply kept_ite | dsimp only
    | split | with_reducible apply keepsO_mapO | with_reducible apply keepsO_map
    | with_reducible (refine kept_of_pair ?_ (by assumption)) | with_reducible (refine kept_of_some ?_ (by assumption))
    | with_reducible (refine kept_of_ok ?_ (by assumption)) | with_reducible (refine kept_of_pair2 ?_ (by assumption))
    | intro _

theorem State.setW_kept (s : State) (pa : Nat) (v : Word) (hs : Kept init s) :
    Kept init (State.setW s pa v) := hs

theorem State.setWf_kept (s : State) (pa : Nat) (lo : Nat) (len : Nat) (v : Nat) (hs : Kept init s) :
    Kept init (State.setWf s pa lo len v) := hs

theorem State.bumpW_kept (s : State) (pa : Nat) (lo : Nat) (len : Nat) (n : Nat) (hs : Kept init s) :
    Kept init (State.bumpW s pa lo len n) := hs

theorem State.bumpDc_kept (s : State) (p : Nat) (n : Nat) (k : Nat) (hs : Kept init s) :
    Kept init (State.bumpDc s p n k) := by
  replace hs : KeptAt init s.mem s.fuseVersion s.xmssIndex := hs
  unfold State.bumpDc
  repeat' first
    | with_reducible assumption | with_reducible apply State.bumpW_kept | with_reducible apply kept_ite | intro _

theorem State.setKey_kept (s : State) (k : Nat) (x : KeySlot) (hs : Kept init s) :
    Kept init (State.setKey s k x) := hs

theorem State.sealLine_kept (s : State) (d : Nat) (a : Nat) (data : Nat) (hs : Kept init s) :
    Kept init (State.sealLine s d a data).1 := by
  replace hs : KeptAt init s.mem s.fuseVersion s.xmssIndex := hs
  unfold State.sealLine
  try dsimp only
  repeat' first
    | with_reducible assumption | with_reducible apply State.setKey_kept | with_reducible apply getD_kept

theorem State.sealLines_kept (s : State) (d : Nat) (y0 : Nat) (y1 : List Nat) (hs : Kept init s) :
    Kept init (State.sealLines s d y0 y1).1 := by
  induction y1 generalizing s y0 with
  | nil => exact hs
  | cons x xs ih => exact ih _ _ (State.sealLine_kept s d y0 x hs)

theorem State.raise_kept (s : State) (bit : Nat) (hs : Kept init s) :
    Kept init (State.raise s bit) := by
  replace hs : KeptAt init s.mem s.fuseVersion s.xmssIndex := hs
  unfold State.raise
  repeat' first
    | with_reducible assumption | with_reducible apply kept_ite | intro _

theorem State.raiseP_kept (s : State) (p : Nat) (bit : Nat) (hs : Kept init s) :
    Kept init (State.raiseP s p bit) := by
  replace hs : KeptAt init s.mem s.fuseVersion s.xmssIndex := hs
  unfold State.raiseP
  try dsimp only
  repeat' first
    | with_reducible assumption | with_reducible apply State.setPart_kept | with_reducible apply kept_ite | intro _

theorem State.irq_kept (s : State) (k : Nat) (n : Nat) (hs : Kept init s) :
    Kept init (State.irq s k n) := hs

theorem State.mputBytes_kept (s : State) (m : Master) (a : Nat) (bs : List Byte) (hs : Kept init s) :
    Kept init (s.mputBytes m a bs) := ⟨Memory.wf_putAll a bs hs.1, hs.2⟩

theorem State.mput_kept (s : State) (m : Master) (a : Nat) (n : Nat) (v : Nat) (hs : Kept init s) :
    Kept init (State.mput s m a n v) := by
  replace hs : KeptAt init s.mem s.fuseVersion s.xmssIndex := hs
  unfold State.mput
  repeat' first
    | with_reducible assumption | with_reducible apply State.mputBytes_kept

theorem State.freshLines_kept (s : State) (a : Nat) (n : Nat) (hs : Kept init s) :
    Kept init (State.freshLines s a n) := by
  replace hs : KeptAt init s.mem s.fuseVersion s.xmssIndex := hs
  unfold State.freshLines
  repeat' first
    | with_reducible assumption

theorem State.storeBytes_kept (s : State) (m : Master) (a : Nat) (bs : List Byte) (hs : Kept init s) :
    Kept init (State.storeBytes s m a bs) := by
  replace hs : KeptAt init s.mem s.fuseVersion s.xmssIndex := hs
  unfold State.storeBytes
  repeat' first
    | with_reducible assumption | with_reducible apply State.mputBytes_kept | with_reducible apply State.freshLines_kept

theorem State.remapVote_kept (s : State) (c : Nat) (hs : Kept init s) :
    Kept init (State.remapVote s c).1 := by
  replace hs : KeptAt init s.mem s.fuseVersion s.xmssIndex := hs
  unfold State.remapVote
  try dsimp only
  repeat' first
    | with_reducible assumption | with_reducible apply State.setWf_kept | with_reducible apply State.bumpW_kept
    | with_reducible apply State.irq_kept | with_reducible apply foldl_kept | with_reducible apply foldl_kept1 | split
    | intro _

theorem State.hbmServe_kept (s : State) (a : Nat) (hs : Kept init s) :
    Kept init (State.hbmServe s a).1 := by
  replace hs : KeptAt init s.mem s.fuseVersion s.xmssIndex := hs
  unfold State.hbmServe
  try dsimp only
  repeat' first
    | with_reducible assumption | with_reducible apply State.bumpW_kept | with_reducible apply State.remapVote_kept
    | split | intro _

theorem State.serveLine_kept (s : State) (pa : Nat) (hs : Kept init s) :
    Kept init (State.serveLine s pa).1 := by
  replace hs : KeptAt init s.mem s.fuseVersion s.xmssIndex := hs
  unfold State.serveLine
  try dsimp only
  repeat' first
    | with_reducible assumption | with_reducible apply State.hbmServe_kept | split

theorem State.voteLine_kept (s : State) (pa : Nat) (hs : Kept init s) :
    Kept init (State.voteLine s pa).1 := by
  replace hs : KeptAt init s.mem s.fuseVersion s.xmssIndex := hs
  unfold State.voteLine
  try dsimp only
  repeat' first
    | with_reducible assumption | with_reducible apply State.remapVote_kept | split

theorem State.hubStore_kept (s : State) (m : Master) (pa : Nat) (bs : List Byte) (hs : Kept init s) :
    Kept init (State.hubStore s m pa bs).1 := by
  replace hs : KeptAt init s.mem s.fuseVersion s.xmssIndex := hs
  unfold State.hubStore
  try dsimp only
  repeat' first
    | with_reducible assumption | with_reducible apply State.storeBytes_kept | with_reducible apply State.voteLine_kept
    | split | intro _

theorem State.copyLine_kept (s : State) (src : Nat) (dst : Nat) (n : Nat) (hs : Kept init s) :
    Kept init (State.copyLine s src dst n) := by
  have h := State.voteLine_kept _ dst (State.serveLine_kept s src hs)
  have h1 : ∀ hst, Kept init
      { ((s.serveLine src).1.voteLine dst).1 with
        mem := Memory.putAll ((s.serveLine src).1.voteLine dst).1.mem (memKey dst)
          (((s.serveLine src).1.voteLine dst).1.bytes (memKey src) n)
        hist := hst } := fun _ => ⟨Memory.wf_putAll _ _ h.1, h.2⟩
  have h2 : ∀ (f : State) e, Kept init f → Kept init { f with hbmErr := e } := fun _ _ h => h
  unfold State.copyLine
  dsimp only
  split
  · exact h
  · split
    · apply State.freshLines_kept
      apply h1
    · apply h2
      apply State.freshLines_kept
      apply h1

theorem State.copyView_kept (s : State) (src : Nat) (dst : Nat) (n : Nat) (hs : Kept init s) :
    Kept init (State.copyView s src dst n) :=
  foldl_kept (fun t _ h => State.copyLine_kept t _ _ _ h) hs

theorem State.cowCopy_kept (s : State) (p : Nat) (n : Nat) (c : Nat) (hs : Kept init s) :
    Kept init (State.cowCopy s p n c) := by
  replace hs : KeptAt init s.mem s.fuseVersion s.xmssIndex := hs
  unfold State.cowCopy
  try dsimp only
  repeat' first
    | with_reducible assumption | with_reducible apply State.hubStore_kept | with_reducible apply State.copyView_kept

theorem State.placeWrite_kept (s : State) (p : Nat) (va : Nat) (x : Xlat) (hs : Kept init s) :
    Kept init (State.placeWrite s p va x).1 := by
  replace hs : KeptAt init s.mem s.fuseVersion s.xmssIndex := hs
  unfold State.placeWrite
  try dsimp only
  repeat' first
    | with_reducible assumption | with_reducible apply State.cowCopy_kept | split | intro _

theorem State.countMig_kept (s : State) (p : Nat) (va : Nat) (pa : Nat) (hs : Kept init s) :
    Kept init (State.countMig s p va pa) := by
  replace hs : KeptAt init s.mem s.fuseVersion s.xmssIndex := hs
  unfold State.countMig
  try dsimp only
  repeat' first
    | with_reducible assumption | with_reducible apply State.irq_kept | with_reducible apply State.storeBytes_kept
    | with_reducible apply State.serveLine_kept | with_reducible apply kept_ite | intro _

theorem State.issue_kept (s : State) (w : PWrite) (hs : Kept init s) :
    Kept init (State.issue s w) := hs

theorem State.gateway_kept (s : State) (p : Nat) (owner : Nat) (n : Nat) (again : Bool) (hs : Kept init s) :
    Kept init (State.gateway s p owner n again).1 := by
  replace hs : KeptAt init s.mem s.fuseVersion s.xmssIndex := hs
  unfold State.gateway
  try dsimp only
  repeat' first
    | with_reducible assumption | with_reducible apply State.bumpW_kept | split | intro _

theorem State.gatewayRefill_kept (s : State) (p : Nat) (hs : Kept init s) :
    Kept init (State.gatewayRefill s p) := by
  replace hs : KeptAt init s.mem s.fuseVersion s.xmssIndex := hs
  unfold State.gatewayRefill
  repeat' first
    | with_reducible assumption | with_reducible apply kept_ite | intro _

theorem State.out_kept (s : State) (r : List Nat) (hs : Kept init s) :
    Kept init (State.out s r) := hs

theorem State.sendOrdered_kept (s : State) (d : Nat) (w : PWrite) (hs : Kept init s) :
    Kept init (State.sendOrdered s d w) := by
  have h : Kept init (if w.sealed_ = [] then s.sealLine d (w.pa % 2 ^ 41 / 128 * 128) w.image
      else (s.bumpW (brbPortAt (s.routePort d) 1) 16 16 1, w.sealed_)).1 := by
    split
    · exact State.sealLine_kept _ _ _ _ hs
    · exact State.bumpW_kept _ _ _ _ _ hs
  exact h

theorem State.sendRunoff_kept (s : State) (d : Nat) (w : PWrite) (hs : Kept init s) :
    Kept init (State.sendRunoff s d w) := by
  replace hs : KeptAt init s.mem s.fuseVersion s.xmssIndex := hs
  unfold State.sendRunoff
  try dsimp only
  repeat' first
    | with_reducible assumption | with_reducible apply State.sealLines_kept | with_reducible apply State.out_kept

theorem State.sendLine_kept (s : State) (d : Nat) (w : PWrite) (hs : Kept init s) :
    Kept init (State.sendLine s d w) := by
  replace hs : KeptAt init s.mem s.fuseVersion s.xmssIndex := hs
  unfold State.sendLine
  try dsimp only
  repeat' first
    | with_reducible assumption | with_reducible apply State.sendOrdered_kept | with_reducible apply State.sendRunoff_kept
    | with_reducible apply kept_ite | intro _

theorem State.flushLines_kept (s : State) (d : Nat) (hs : Kept init s) :
    Kept init (State.flushLines s d) := by
  replace hs : KeptAt init s.mem s.fuseVersion s.xmssIndex := hs
  unfold State.flushLines
  repeat' first
    | with_reducible assumption | with_reducible apply State.sendLine_kept | with_reducible apply foldl_kept | split
    | intro _

theorem State.settleRoute_kept (s : State) (d : Nat) (hs : Kept init s) :
    Kept init (State.settleRoute s d) := by
  replace hs : KeptAt init s.mem s.fuseVersion s.xmssIndex := hs
  unfold State.settleRoute
  repeat' first
    | with_reducible assumption | with_reducible apply State.setWf_kept | with_reducible apply State.flushLines_kept
    | with_reducible apply kept_ite | intro _

theorem State.issueWrite_kept (s : State) (w : PWrite) (hs : Kept init s) :
    Kept init (State.issueWrite s w) := by
  replace hs : KeptAt init s.mem s.fuseVersion s.xmssIndex := hs
  unfold State.issueWrite
  repeat' first
    | with_reducible assumption | with_reducible apply State.issue_kept | with_reducible apply State.flushLines_kept
    | with_reducible apply kept_ite | split | intro _

theorem State.replay_kept (s : State) (d : Nat) (w : PWrite) (hs : Kept init s) :
    Kept init (State.replay s d w) := by
  replace hs : KeptAt init s.mem s.fuseVersion s.xmssIndex := hs
  unfold State.replay
  try dsimp only
  repeat' first
    | with_reducible assumption | with_reducible apply State.bumpW_kept | with_reducible apply State.out_kept
    | with_reducible apply kept_ite | split | intro _

theorem State.denyThread_kept (s : State) (t : Nat) (cause : Nat) (ea : Word) (device : Bool) (hs : Kept init s) :
    Kept init (State.denyThread s t cause ea device) := by
  replace hs : KeptAt init s.mem s.fuseVersion s.xmssIndex := hs
  unfold State.denyThread
  try dsimp only
  repeat' first
    | with_reducible assumption | with_reducible apply State.setThread_kept | split

theorem State.sendArc_kept (s : State) (p : Nat) (pkg : Nat) (a : Nat) (what : Nat) (line : Nat) (data : List Byte) (hs : Kept init s) :
    Kept init (State.sendArc s p pkg a what line data) := by
  replace hs : KeptAt init s.mem s.fuseVersion s.xmssIndex := hs
  unfold State.sendArc
  repeat' first
    | with_reducible assumption | with_reducible apply State.issueWrite_kept

theorem State.freezeFrame_kept (s : State) (r : Nat) (t : Nat) (cause : Nat) (aux : Word) (quiesce : Bool) (hs : Kept init s) :
    Kept init (State.freezeFrame s r t cause aux quiesce) := by
  replace hs : KeptAt init s.mem s.fuseVersion s.xmssIndex := hs
  unfold State.freezeFrame
  try dsimp only
  repeat' first
    | with_reducible assumption | with_reducible apply State.freezeRegion_kept

theorem State.recordRau_kept (s : State) (r : Nat) (hs : Kept init s) :
    Kept init (State.recordRau s r) := hs

theorem State.startFiring_kept (s : State) (r : Nat) (kind : FKind) (nrs : Nat) (hs : Kept init s) :
    Kept init (State.startFiring s r kind nrs) := by
  replace hs : KeptAt init s.mem s.fuseVersion s.xmssIndex := hs
  unfold State.startFiring
  try dsimp only
  repeat' first
    | with_reducible assumption | with_reducible apply State.setRegion_kept | with_reducible apply State.mapTiles_kept
    | with_reducible apply State.recordRau_kept

theorem State.holdStart_kept (s : State) (r : Nat) (hs : Kept init s) :
    Kept init (State.holdStart s r) := by
  replace hs : KeptAt init s.mem s.fuseVersion s.xmssIndex := hs
  unfold State.holdStart
  try dsimp only
  repeat' first
    | with_reducible assumption | with_reducible apply State.setRegion_kept | with_reducible apply State.startFiring_kept

theorem State.startSealed_kept (s : State) (r : Nat) (hs : Kept init s) :
    Kept init (State.startSealed s r) := by
  replace hs : KeptAt init s.mem s.fuseVersion s.xmssIndex := hs
  unfold State.startSealed
  try dsimp only
  repeat' first
    | with_reducible assumption | with_reducible apply State.setRegion_kept | with_reducible apply State.mapTiles_kept

theorem State.arcSeen_kept (s : State) (r : Nat) (k : Class) (hs : Kept init s) :
    Kept init (State.arcSeen s r k) := by
  replace hs : KeptAt init s.mem s.fuseVersion s.xmssIndex := hs
  unfold State.arcSeen
  try dsimp only
  repeat' first
    | with_reducible assumption | with_reducible apply State.mapTiles_kept | with_reducible apply foldl_kept | intro _

theorem State.beginRegion_kept (s : State) (r : Nat) (hs : Kept init s) :
    Kept init (State.beginRegion s r) := by
  replace hs : KeptAt init s.mem s.fuseVersion s.xmssIndex := hs
  unfold State.beginRegion
  try dsimp only
  repeat' first
    | with_reducible assumption | with_reducible apply State.freezeFrame_kept
    | with_reducible apply State.startFiring_kept | with_reducible apply State.holdStart_kept
    | with_reducible apply State.startSealed_kept | with_reducible apply State.arcSeen_kept | with_reducible apply kept_ite
    | split | intro _

theorem State.deliverCond_kept (s : State) (r : Nat) (fromTile : Bool) (v : Bool) (hs : Kept init s) :
    KeepsO init (State.deliverCond s r fromTile v) := by
  replace hs : KeptAt init s.mem s.fuseVersion s.xmssIndex := hs
  unfold State.deliverCond
  try dsimp only
  repeat' first
    | with_reducible assumption | with_reducible apply State.setRegion_kept | with_reducible apply State.bumpDc_kept
    | with_reducible apply keepsO_some | with_reducible apply keepsO_none | with_reducible apply keepsO_ite | split
    | intro _

theorem State.setTwe_kept (s : State) (u : Nat) (x : Twe) (hs : Kept init s) :
    Kept init (State.setTwe s u x) := hs

theorem State.setPermits_kept (s : State) (u : Nat) (t : Nat) (pond : Nat) (drain : Bool) (n : Nat) (hs : Kept init s) :
    Kept init (State.setPermits s u t pond drain n) := hs

theorem State.passGrant_kept (s : State) (p : Nat) (g : Grant) (hs : Kept init s) :
    Kept init (State.passGrant s p g) := by
  replace hs : KeptAt init s.mem s.fuseVersion s.xmssIndex := hs
  unfold State.passGrant
  try dsimp only
  repeat' first
    | with_reducible assumption | with_reducible apply State.bumpW_kept | with_reducible apply State.setPermits_kept
    | with_reducible apply kept_ite | intro _

theorem State.passGrants_kept (s : State) (r : Nat) (hs : Kept init s) :
    Kept init (State.passGrants s r) := by
  replace hs : KeptAt init s.mem s.fuseVersion s.xmssIndex := hs
  unfold State.passGrants
  try dsimp only
  repeat' first
    | with_reducible assumption | with_reducible apply State.setRegion_kept | with_reducible apply State.passGrant_kept
    | with_reducible apply foldl_kept | with_reducible apply keepsO_some | with_reducible apply getD_kept
    | with_reducible apply keepsO_none | with_reducible apply keeps_next | with_reducible apply keeps_fault
    | with_reducible apply keepsE_ok | with_reducible apply keepsE_error | with_reducible apply foldl_kept1
    | with_reducible apply keepsO_ite | with_reducible apply keeps_ite | with_reducible apply kept_ite | dsimp only
    | split | with_reducible apply keepsO_mapO | with_reducible apply keepsO_map
    | with_reducible (refine kept_of_pair ?_ (by assumption)) | with_reducible (refine kept_of_some ?_ (by assumption))
    | with_reducible (refine kept_of_ok ?_ (by assumption)) | with_reducible (refine kept_of_pair2 ?_ (by assumption))
    | intro _

theorem State.dropGrant_kept (s : State) (g : Grant) (hs : Kept init s) :
    Kept init (State.dropGrant s g) := by
  replace hs : KeptAt init s.mem s.fuseVersion s.xmssIndex := hs
  unfold State.dropGrant
  try dsimp only
  repeat' first
    | with_reducible assumption | with_reducible apply State.setPermits_kept | split

theorem State.sendTokens_kept (s : State) (r : Nat) (ts : List Token) (hs : Kept init s) :
    Kept init (State.sendTokens s r ts) := hs

theorem State.syncPointers_kept (s : State) (t : Nat) (p : Nat) (v : BitVec 32) (hs : Kept init s) :
    Kept init (State.syncPointers s t p v) := by
  replace hs : KeptAt init s.mem s.fuseVersion s.xmssIndex := hs
  unfold State.syncPointers
  try dsimp only
  repeat' first
    | with_reducible assumption | with_reducible apply State.mapTiles_kept | with_reducible apply kept_ite | intro _

theorem State.setWork_kept (s : State) (t : Nat) (p : Nat) (v : BitVec 32) (hs : Kept init s) :
    Kept init (State.setWork s t p v) := by
  replace hs : KeptAt init s.mem s.fuseVersion s.xmssIndex := hs
  unfold State.setWork
  repeat' first
    | with_reducible assumption | with_reducible apply State.setTile_kept | with_reducible apply State.syncPointers_kept

theorem State.routeGate_kept (s : State) (r : Nat) (c : Option Nat) (hs : Kept init s) :
    Kept init (State.routeGate s r c).1 := by
  replace hs : KeptAt init s.mem s.fuseVersion s.xmssIndex := hs
  unfold State.routeGate
  try dsimp only
  repeat' first
    | with_reducible assumption | with_reducible apply State.gateway_kept | split | intro _

theorem State.putRoute_kept (s : State) (r : Nat) (i : Nat) (y : Route) (hs : Kept init s) :
    Kept init (State.putRoute s r i y) := by
  replace hs : KeptAt init s.mem s.fuseVersion s.xmssIndex := hs
  unfold State.putRoute
  try dsimp only
  repeat' first
    | with_reducible assumption | with_reducible apply State.setRegion_kept

theorem State.routeMarker_kept (s : State) (r : Nat) (c : FabCtx) (x : Route) (nrs : Nat) (pe : Word) (hs : Kept init s) :
    Kept init (State.routeMarker s r c x nrs pe) := by
  replace hs : KeptAt init s.mem s.fuseVersion s.xmssIndex := hs
  unfold State.routeMarker
  try dsimp only
  repeat' first
    | with_reducible assumption | with_reducible apply State.setTile_kept | with_reducible apply State.sendTokens_kept
    | with_reducible apply State.setWork_kept | with_reducible apply kept_ite | intro _

theorem State.routeWrite_kept (s : State) (r : Nat) (c : FabCtx) (x : Route) (pe : Word) (l : Line) (hs : Kept init s) :
    Kept init (State.routeWrite s r c x pe l) := by
  replace hs : KeptAt init s.mem s.fuseVersion s.xmssIndex := hs
  unfold State.routeWrite
  try dsimp only
  repeat' first
    | with_reducible assumption | with_reducible apply State.setTile_kept | with_reducible apply State.sendTokens_kept
    | with_reducible apply State.setWork_kept | with_reducible apply kept_ite | intro _

theorem State.routeLine_kept (s : State) (r : Nat) (i : Nat) (x : Route) (hs : Kept init s) :
    Kept init (State.routeLine s r i x) := by
  replace hs : KeptAt init s.mem s.fuseVersion s.xmssIndex := hs
  unfold State.routeLine
  try dsimp only
  repeat' first
    | with_reducible assumption | with_reducible apply State.mapTiles_kept | with_reducible apply State.sendTokens_kept
    | with_reducible apply State.routeGate_kept | with_reducible apply State.putRoute_kept
    | with_reducible apply State.routeMarker_kept | with_reducible apply State.routeWrite_kept
    | with_reducible apply kept_ite | split | intro _

theorem State.arcLine_kept (s : State) (r : Nat) (i : Nat) (x : Route) (hs : Kept init s) :
    Kept init (State.arcLine s r i x) := by
  replace hs : KeptAt init s.mem s.fuseVersion s.xmssIndex := hs
  unfold State.arcLine
  try dsimp only
  repeat' first
    | with_reducible assumption | with_reducible apply State.setRegion_kept | with_reducible apply State.mapTiles_kept
    | with_reducible apply State.sendArc_kept | with_reducible apply State.sendTokens_kept | with_reducible apply kept_ite
    | split | intro _

theorem State.routesStep_kept (s : State) (r : Nat) (hs : Kept init s) :
    Kept init (State.routesStep s r) := by
  replace hs : KeptAt init s.mem s.fuseVersion s.xmssIndex := hs
  unfold State.routesStep
  try dsimp only
  repeat' first
    | with_reducible assumption | with_reducible apply State.routeLine_kept | with_reducible apply State.arcLine_kept
    | with_reducible apply foldl_kept | with_reducible apply kept_ite | split | intro _

theorem State.commitRoute_kept (s : State) (x : Route) (hs : Kept init s) :
    Kept init (State.commitRoute s x) := by
  replace hs : KeptAt init s.mem s.fuseVersion s.xmssIndex := hs
  unfold State.commitRoute
  try dsimp only
  repeat' first
    | with_reducible assumption | with_reducible apply State.setTile_kept | with_reducible apply State.setWork_kept
    | with_reducible apply kept_ite | split | intro _

theorem State.publish_kept (s : State) (p : Nat) (n : Nat) (hs : Kept init s) :
    Kept init (State.publish s p n) := by
  replace hs : KeptAt init s.mem s.fuseVersion s.xmssIndex := hs
  unfold State.publish
  try dsimp only
  repeat' first
    | with_reducible assumption | with_reducible apply State.setW_kept | with_reducible apply State.setWf_kept
    | with_reducible apply kept_ite | intro _

theorem State.commitArc_kept (s : State) (p : Nat) (x : Route) (hs : Kept init s) :
    Kept init (State.commitArc s p x) := by
  replace hs : KeptAt init s.mem s.fuseVersion s.xmssIndex := hs
  unfold State.commitArc
  try dsimp only
  repeat' first
    | with_reducible assumption | with_reducible apply State.sendArc_kept | with_reducible apply kept_ite | intro _

theorem State.retireRecords_kept (s : State) (r : Nat) (hs : Kept init s) :
    Kept init (State.retireRecords s r) := by
  replace hs : KeptAt init s.mem s.fuseVersion s.xmssIndex := hs
  unfold State.retireRecords
  try dsimp only
  repeat' first
    | with_reducible assumption | with_reducible apply State.sendArc_kept | with_reducible apply State.commitArc_kept
    | with_reducible apply foldl_kept | intro _

theorem State.retireRegion_kept (s : State) (r : Nat) (hs : Kept init s) :
    Kept init (State.retireRegion s r) := by
  replace hs : KeptAt init s.mem s.fuseVersion s.xmssIndex := hs
  unfold State.retireRegion
  try dsimp only
  repeat' first
    | with_reducible assumption | with_reducible apply State.setRegion_kept | with_reducible apply State.mapTiles_kept
    | with_reducible apply State.commitRoute_kept | with_reducible apply State.publish_kept
    | with_reducible apply State.retireRecords_kept | with_reducible apply foldl_kept | with_reducible apply kept_ite
    | split | intro _

theorem State.killRau_kept (s : State) (r : Nat) (hs : Kept init s) :
    Kept init (State.killRau s r) := hs

theorem State.killRoute_kept (s : State) (p : Nat) (x : Route) (hs : Kept init s) :
    Kept init (State.killRoute s p x) := by
  replace hs : KeptAt init s.mem s.fuseVersion s.xmssIndex := hs
  unfold State.killRoute
  repeat' first
    | with_reducible assumption | with_reducible apply State.setTile_kept | with_reducible apply State.sendArc_kept
    | with_reducible apply kept_ite | intro _

theorem State.discardFiring_kept (s : State) (r : Nat) (hs : Kept init s) :
    Kept init (State.discardFiring s r) := by
  replace hs : KeptAt init s.mem s.fuseVersion s.xmssIndex := hs
  unfold State.discardFiring
  try dsimp only
  repeat' first
    | with_reducible assumption | with_reducible apply State.setTile_kept | with_reducible apply State.setRegion_kept
    | with_reducible apply State.dropGrant_kept | with_reducible apply State.killRau_kept
    | with_reducible apply State.killRoute_kept | with_reducible apply State.killFiring_kept
    | with_reducible apply foldl_kept | intro _

theorem State.killFiring_kept (s : State) (r : Nat) (hs : Kept init s) :
    Kept init (State.killFiring s r) := by
  replace hs : KeptAt init s.mem s.fuseVersion s.xmssIndex := hs
  unfold State.killFiring
  try dsimp only
  repeat' first
    | with_reducible assumption | with_reducible apply State.resumeRegion_kept
    | with_reducible apply State.discardFiring_kept | with_reducible apply kept_ite | intro _

theorem State.dropFills_kept (s : State) (t : Nat) (hs : Kept init s) :
    Kept init (State.dropFills s t) := by
  replace hs : KeptAt init s.mem s.fuseVersion s.xmssIndex := hs
  unfold State.dropFills
  repeat' first
    | with_reducible assumption | with_reducible apply State.setPermits_kept | with_reducible apply foldl_kept | intro _

theorem State.injectSluice_kept (s : State) (p : Nat) (nrs : Nat) (hs : Kept init s) :
    Kept init (State.injectSluice s p nrs) := by
  replace hs : KeptAt init s.mem s.fuseVersion s.xmssIndex := hs
  unfold State.injectSluice
  try dsimp only
  repeat' first
    | with_reducible assumption | with_reducible apply State.mapTiles_kept | with_reducible apply State.dropFills_kept
    | with_reducible apply foldl_kept | intro _

theorem State.switchSet_kept (s : State) (p : Nat) (hs : Kept init s) :
    Kept init (State.switchSet s p) := by
  replace hs : KeptAt init s.mem s.fuseVersion s.xmssIndex := hs
  unfold State.switchSet
  try dsimp only
  repeat' first
    | with_reducible assumption | with_reducible apply State.setRegion_kept | with_reducible apply State.setPart_kept
    | with_reducible apply foldl_kept | with_reducible apply getD_kept | intro _

theorem State.quiescence_kept (s : State) (p : Nat) (hs : Kept init s) :
    Kept init (State.quiescence s p) := by
  replace hs : KeptAt init s.mem s.fuseVersion s.xmssIndex := hs
  unfold State.quiescence
  try dsimp only
  repeat' first
    | with_reducible assumption | with_reducible apply State.freezeFrame_kept | with_reducible apply State.switchSet_kept
    | with_reducible apply foldl_kept | with_reducible apply kept_ite | split | intro _

theorem State.applyLocks_kept (s : State) (p : Nat) (r : Nat) (w : Nat) (h : Nat) (k : Locks) (hs : Kept init s) :
    Kept init (State.applyLocks s p r w h k) := by
  replace hs : KeptAt init s.mem s.fuseVersion s.xmssIndex := hs
  unfold State.applyLocks
  try dsimp only
  repeat' first
    | with_reducible assumption | with_reducible apply State.setWf_kept | with_reducible apply State.setTwe_kept
    | with_reducible apply foldl_kept | intro _

theorem State.placePage_kept (s : State) (pa : Nat) (p : Nat) (r : Nat) (img : Option (Nat × ImageDecl)) (k : Locks) (hs : Kept init s) :
    Kept init (State.placePage s pa p r img k) := by
  replace hs : KeptAt init s.mem s.fuseVersion s.xmssIndex := hs
  unfold State.placePage
  try dsimp only
  repeat' first
    | with_reducible assumption | with_reducible apply State.setThread_kept | with_reducible apply State.setRegion_kept
    | with_reducible apply State.mapTiles_kept | with_reducible apply State.applyLocks_kept
    | with_reducible apply State.load_kept | with_reducible apply foldl_kept | with_reducible apply getD_kept
    | with_reducible apply kept_ite | split | intro _

theorem State.resolveRoute_kept (s : State) (r : Nat) (i : Nat) (x : Route) (hs : Kept init s) :
    Kept init (State.resolveRoute s r i x) := by
  replace hs : KeptAt init s.mem s.fuseVersion s.xmssIndex := hs
  unfold State.resolveRoute
  try dsimp only
  repeat' first
    | with_reducible assumption | with_reducible apply State.setTile_kept | with_reducible apply State.setRegion_kept
    | with_reducible apply kept_ite | split | intro _

theorem State.resolveRoutes_kept (s : State) (p : Nat) (hs : Kept init s) :
    Kept init (State.resolveRoutes s p) := by
  replace hs : KeptAt init s.mem s.fuseVersion s.xmssIndex := hs
  unfold State.resolveRoutes
  repeat' first
    | with_reducible assumption | with_reducible apply State.resolveRoute_kept | with_reducible apply foldl_kept | split
    | intro _

theorem State.pagePlace_kept (s : State) (pa : Nat) (p : Nat) (hint : Option Nat) (hs : Kept init s) :
    Kept init (State.pagePlace s pa p hint).1 := by
  replace hs : KeptAt init s.mem s.fuseVersion s.xmssIndex := hs
  unfold State.pagePlace
  try dsimp only
  repeat' first
    | with_reducible assumption | with_reducible apply State.placePage_kept
    | with_reducible apply State.resolveRoutes_kept | with_reducible apply foldl_kept | with_reducible apply foldl_kept1
    | split | intro _

theorem State.removePage_kept (s : State) (r : Nat) (hs : Kept init s) :
    Kept init (State.removePage s r) := by
  replace hs : KeptAt init s.mem s.fuseVersion s.xmssIndex := hs
  unfold State.removePage
  try dsimp only
  repeat' first
    | with_reducible assumption | with_reducible apply State.setThread_kept | with_reducible apply State.setRegion_kept
    | with_reducible apply State.setWf_kept | with_reducible apply State.setTwe_kept | with_reducible apply foldl_kept
    | with_reducible apply kept_ite | split | intro _

theorem State.setTasks_kept (s : State) (f : Task → Task) (hs : Kept init s) :
    Kept init (State.setTasks s f) := hs

theorem State.taskStarts_kept (s : State) (t : Task) (hs : Kept init s) :
    Kept init (State.taskStarts s t) := by
  replace hs : KeptAt init s.mem s.fuseVersion s.xmssIndex := hs
  unfold State.taskStarts
  try dsimp only
  repeat' first
    | with_reducible assumption | with_reducible apply State.setTasks_kept | with_reducible apply kept_ite | split
    | intro _

theorem State.startTask_kept (s : State) (copy : List Byte) (hs : Kept init s) :
    Kept init (State.startTask s copy) := by
  replace hs : KeptAt init s.mem s.fuseVersion s.xmssIndex := hs
  unfold State.startTask
  repeat' first
    | with_reducible assumption | with_reducible apply State.taskStarts_kept | split

theorem State.bumpRefs_kept (s : State) (t : Task) (up : Bool) (hs : Kept init s) :
    Kept init (State.bumpRefs s t up) := by
  replace hs : KeptAt init s.mem s.fuseVersion s.xmssIndex := hs
  unfold State.bumpRefs
  try dsimp only
  repeat' first
    | with_reducible assumption | with_reducible apply State.setW_kept | with_reducible apply State.setWf_kept
    | with_reducible apply step_kept | with_reducible apply kept_ite | intro _

theorem State.releaseTask_kept (s : State) (id : Nat) (hs : Kept init s) :
    Kept init (State.releaseTask s id) := by
  replace hs : KeptAt init s.mem s.fuseVersion s.xmssIndex := hs
  unfold State.releaseTask
  repeat' first
    | with_reducible assumption | with_reducible apply State.setTasks_kept | with_reducible apply State.bumpRefs_kept
    | with_reducible apply kept_ite | split | intro _

theorem State.launch_kept (s : State) (rec_ : Nat) (hs : Kept init s) :
    Kept init (State.launch s rec_).1 := by
  replace hs : KeptAt init s.mem s.fuseVersion s.xmssIndex := hs
  unfold State.launch
  try dsimp only
  repeat' first
    | with_reducible assumption | with_reducible apply State.setThread_kept | with_reducible apply State.setRegion_kept
    | with_reducible apply State.setPart_kept | with_reducible apply State.setW_kept | with_reducible apply State.setWf_kept
    | with_reducible apply State.startTask_kept | with_reducible apply foldl_kept | with_reducible apply foldl_kept1 | split
    | intro _

theorem State.mapFreeze_kept (s : State) (serial : Nat) (g : Freeze → Freeze) (hs : Kept init s) :
    Kept init (State.mapFreeze s serial g) := by
  replace hs : KeptAt init s.mem s.fuseVersion s.xmssIndex := hs
  unfold State.mapFreeze
  repeat' first
    | with_reducible assumption | with_reducible apply kept_ite | intro _

theorem State.report_kept (s : State) (serial : Nat) (pass : Nat) (hs : Kept init s) :
    Kept init (State.report s serial pass) := by
  replace hs : KeptAt init s.mem s.fuseVersion s.xmssIndex := hs
  unfold State.report
  try dsimp only
  repeat' first
    | with_reducible assumption | with_reducible apply State.setW_kept | with_reducible apply State.setWf_kept
    | with_reducible apply State.bumpDc_kept | with_reducible apply State.irq_kept
    | with_reducible apply State.mapFreeze_kept | with_reducible apply foldl_kept | with_reducible apply getD_kept
    | with_reducible apply kept_ite | split | intro _

theorem State.spend_kept (s : State) (f : Freeze) (hs : Kept init s) :
    Kept init (State.spend s f) := by
  replace hs : KeptAt init s.mem s.fuseVersion s.xmssIndex := hs
  unfold State.spend
  try dsimp only
  repeat' first
    | with_reducible assumption | with_reducible apply State.bumpDc_kept | with_reducible apply State.mapFreeze_kept
    | with_reducible apply kept_ite | intro _

theorem State.setKick_kept (s : State) (q : Nat) (hs : Kept init s) :
    Kept init (State.setKick s q) := hs

theorem State.freeChannel_kept (s : State) (c : Nat) (hs : Kept init s) :
    Kept init (State.freeChannel s c) := hs

theorem State.freeChannels_kept (s : State) (p : Nat) (hs : Kept init s) :
    Kept init (State.freeChannels s p) := by
  replace hs : KeptAt init s.mem s.fuseVersion s.xmssIndex := hs
  unfold State.freeChannels
  repeat' first
    | with_reducible assumption | with_reducible apply State.freeChannel_kept | with_reducible apply foldl_kept | intro _

theorem State.stopGraph_kept (s0 : State) (p : Nat) (hs0 : Kept init s0) :
    Kept init (State.stopGraph s0 p) := by
  replace hs0 : KeptAt init s0.mem s0.fuseVersion s0.xmssIndex := hs0
  unfold State.stopGraph
  try dsimp only
  repeat' first
    | with_reducible assumption | with_reducible apply State.setThread_kept | with_reducible apply State.setRegion_kept
    | with_reducible apply State.setPart_kept | with_reducible apply State.freeChannels_kept
    | with_reducible apply foldl_kept | with_reducible apply kept_ite | split | intro _

theorem State.endRecord_kept (s : State) (serial : Nat) (status : Nat) (frames : Nat) (hs : Kept init s) :
    Kept init (State.endRecord s serial status frames) := by
  replace hs : KeptAt init s.mem s.fuseVersion s.xmssIndex := hs
  unfold State.endRecord
  try dsimp only
  repeat' first
    | with_reducible assumption | with_reducible apply State.setW_kept | with_reducible apply State.setWf_kept
    | with_reducible apply State.setKick_kept

theorem State.countFailure_kept (s : State) (hw : Bool) (hs : Kept init s) :
    Kept init (State.countFailure s hw) := by
  replace hs : KeptAt init s.mem s.fuseVersion s.xmssIndex := hs
  unfold State.countFailure
  repeat' first
    | with_reducible assumption | with_reducible apply State.bumpW_kept | with_reducible apply kept_ite | intro _

theorem State.endGraph_kept (s : State) (p : Nat) (status : Nat) (hs : Kept init s) :
    Kept init (State.endGraph s p status) := by
  replace hs : KeptAt init s.mem s.fuseVersion s.xmssIndex := hs
  unfold State.endGraph
  repeat' first
    | with_reducible assumption | with_reducible apply State.releaseTask_kept | with_reducible apply State.stopGraph_kept
    | with_reducible apply State.endRecord_kept | split

theorem State.pctlChoose_kept (s : State) (p : Nat) (newtok : Nat) (hs : Kept init s) :
    Kept init (State.pctlChoose s p newtok) := by
  replace hs : KeptAt init s.mem s.fuseVersion s.xmssIndex := hs
  unfold State.pctlChoose
  try dsimp only
  repeat' first
    | with_reducible assumption | with_reducible apply State.setPart_kept | with_reducible apply kept_ite | split
    | intro _

theorem State.markPreheld_kept (s : State) (p : Nat) (hs : Kept init s) :
    Kept init (State.markPreheld s p) := by
  replace hs : KeptAt init s.mem s.fuseVersion s.xmssIndex := hs
  unfold State.markPreheld
  repeat' first
    | with_reducible assumption | with_reducible apply getD_kept | with_reducible apply kept_ite | intro _

theorem State.request_kept (s : State) (p : Nat) (req : Nat) (newtok : Nat) (hs : Kept init s) :
    Kept init (State.request s p req newtok) := by
  replace hs : KeptAt init s.mem s.fuseVersion s.xmssIndex := hs
  unfold State.request
  try dsimp only
  repeat' first
    | with_reducible assumption | with_reducible apply State.setPart_kept
    | with_reducible apply State.markPreheld_kept | with_reducible apply kept_ite | intro _

theorem State.rerunTask_kept (s : State) (g : Graph) (hs : Kept init s) :
    Kept init (State.rerunTask s g) := by
  replace hs : KeptAt init s.mem s.fuseVersion s.xmssIndex := hs
  unfold State.rerunTask
  repeat' first
    | with_reducible assumption | with_reducible apply State.setTasks_kept | with_reducible apply kept_ite | intro _

theorem State.preemptNow_kept (s : State) (p : Nat) (hs : Kept init s) :
    Kept init (State.preemptNow s p) := by
  replace hs : KeptAt init s.mem s.fuseVersion s.xmssIndex := hs
  unfold State.preemptNow
  try dsimp only
  repeat' first
    | with_reducible assumption | with_reducible apply State.setPart_kept | with_reducible apply State.bumpDc_kept
    | with_reducible apply State.killFiring_kept | with_reducible apply State.removePage_kept
    | with_reducible apply State.stopGraph_kept | with_reducible apply State.rerunTask_kept
    | with_reducible apply foldl_kept | split | intro _

theorem State.preheldKill_kept (s : State) (p : Nat) (hs : Kept init s) :
    Kept init (State.preheldKill s p) := by
  replace hs : KeptAt init s.mem s.fuseVersion s.xmssIndex := hs
  unfold State.preheldKill
  repeat' first
    | with_reducible assumption | with_reducible apply State.preemptNow_kept | with_reducible apply kept_ite | intro _

theorem State.preheldResume_kept (s : State) (p : Nat) (hs : Kept init s) :
    Kept init (State.preheldResume s p) := by
  replace hs : KeptAt init s.mem s.fuseVersion s.xmssIndex := hs
  unfold State.preheldResume
  repeat' first
    | with_reducible assumption | with_reducible apply State.setPart_kept | with_reducible apply State.request_kept
    | with_reducible apply kept_ite | split | intro _

theorem State.moveRegion_kept (s : State) (r : Nat) (r' : Nat) (hs : Kept init s) :
    Kept init (State.moveRegion s r r') := by
  replace hs : KeptAt init s.mem s.fuseVersion s.xmssIndex := hs
  unfold State.moveRegion
  try dsimp only
  repeat' first
    | with_reducible assumption | with_reducible apply State.setThread_kept | with_reducible apply State.setTile_kept
    | with_reducible apply State.setRegion_kept | with_reducible apply State.setPart_kept
    | with_reducible apply State.setTwe_kept | with_reducible apply foldl_kept | with_reducible apply kept_ite | split
    | intro _

theorem State.killRegion_kept (s : State) (r : Nat) (relocate : Bool) (hs : Kept init s) :
    Kept init (State.killRegion s r relocate) := by
  replace hs : KeptAt init s.mem s.fuseVersion s.xmssIndex := hs
  unfold State.killRegion
  try dsimp only
  repeat' first
    | with_reducible assumption | with_reducible apply State.killFiring_kept | with_reducible apply State.moveRegion_kept
    | with_reducible apply kept_ite | split | intro _

theorem State.disown_kept (s : State) (t : Nat) (hs : Kept init s) :
    Kept init (State.disown s t) := by
  replace hs : KeptAt init s.mem s.fuseVersion s.xmssIndex := hs
  unfold State.disown
  repeat' first
    | with_reducible assumption | with_reducible apply kept_ite | intro _

theorem State.endService_kept (s : State) (t : Nat) (status : Nat) (hs : Kept init s) :
    Kept init (State.endService s t status) := by
  replace hs : KeptAt init s.mem s.fuseVersion s.xmssIndex := hs
  unfold State.endService
  try dsimp only
  repeat' first
    | with_reducible assumption | with_reducible apply State.setThread_kept | with_reducible apply State.setTasks_kept
    | with_reducible apply State.releaseTask_kept | with_reducible apply State.disown_kept | with_reducible apply kept_ite
    | intro _

theorem State.endHandler_kept (s : State) (t : Nat) (hs : Kept init s) :
    Kept init (State.endHandler s t) := by
  replace hs : KeptAt init s.mem s.fuseVersion s.xmssIndex := hs
  unfold State.endHandler
  try dsimp only
  repeat' first
    | with_reducible assumption | with_reducible apply State.setThread_kept | with_reducible apply State.report_kept
    | with_reducible apply State.disown_kept | with_reducible apply foldl_kept | with_reducible apply kept_ite | split
    | intro _

theorem State.stopPair_kept (s : State) (hs : Kept init s) :
    Kept init (State.stopPair s) := by
  replace hs : KeptAt init s.mem s.fuseVersion s.xmssIndex := hs
  unfold State.stopPair
  try dsimp only
  repeat' first
    | with_reducible assumption | with_reducible apply State.setWf_kept | with_reducible apply State.irq_kept
    | with_reducible apply State.countFailure_kept

theorem State.stopCellar_kept (s : State) (c : Nat) (hs : Kept init s) :
    Kept init (State.stopCellar s c) := hs

theorem State.haltCellar_kept (s : State) (c : Nat) (hs : Kept init s) :
    Kept init (State.haltCellar s c) := by
  replace hs : KeptAt init s.mem s.fuseVersion s.xmssIndex := hs
  unfold State.haltCellar
  repeat' first
    | with_reducible assumption | with_reducible apply State.setThread_kept

theorem State.endThread_kept (s : State) (t : Nat) (status : Nat) (hs : Kept init s) :
    Kept init (State.endThread s t status) := by
  replace hs : KeptAt init s.mem s.fuseVersion s.xmssIndex := hs
  unfold State.endThread
  repeat' first
    | with_reducible assumption | with_reducible apply State.setThread_kept | with_reducible apply State.endService_kept
    | with_reducible apply State.endHandler_kept | with_reducible apply State.haltCellar_kept | split

theorem State.killRauFreeze_kept (s : State) (r : Nat) (hs : Kept init s) :
    Kept init (State.killRauFreeze s r) := by
  replace hs : KeptAt init s.mem s.fuseVersion s.xmssIndex := hs
  unfold State.killRauFreeze
  try dsimp only
  repeat' first
    | with_reducible assumption | with_reducible apply State.killRau_kept | with_reducible apply kept_ite | intro _

theorem State.killUnit_kept (s : State) (u : FUnit) (relocate : Bool) (hs : Kept init s) :
    Kept init (State.killUnit s u relocate) := by
  replace hs : KeptAt init s.mem s.fuseVersion s.xmssIndex := hs
  unfold State.killUnit
  repeat' first
    | with_reducible assumption | with_reducible apply State.killRegion_kept | with_reducible apply State.stopCellar_kept
    | with_reducible apply State.endThread_kept | with_reducible apply State.killRauFreeze_kept | split

theorem State.spendKill_kept (s : State) (f : Freeze) (hs : Kept init s) :
    Kept init (State.spendKill s f) := by
  replace hs : KeptAt init s.mem s.fuseVersion s.xmssIndex := hs
  unfold State.spendKill
  repeat' first
    | with_reducible assumption | with_reducible apply State.report_kept | with_reducible apply State.spend_kept
    | with_reducible apply kept_ite | intro _

theorem State.killFrozen_kept (s : State) (p : Nat) (hs : Kept init s) :
    Kept init (State.killFrozen s p) := by
  replace hs : KeptAt init s.mem s.fuseVersion s.xmssIndex := hs
  unfold State.killFrozen
  try dsimp only
  repeat' first
    | with_reducible assumption | with_reducible apply State.killRegion_kept | with_reducible apply State.endThread_kept
    | with_reducible apply State.killUnit_kept | with_reducible apply State.spendKill_kept | with_reducible apply foldl_kept
    | with_reducible apply kept_ite | split | intro _

theorem State.killAll_kept (s : State) (p : Nat) (hs : Kept init s) :
    Kept init (State.killAll s p) := by
  replace hs : KeptAt init s.mem s.fuseVersion s.xmssIndex := hs
  unfold State.killAll
  repeat' first
    | with_reducible assumption | with_reducible apply State.preheldKill_kept | with_reducible apply State.killFrozen_kept

theorem State.killPartition_kept (s : State) (p : Nat) (status : Nat) (keep : Option Nat) (hs : Kept init s) :
    Kept init (State.killPartition s p status keep) := by
  replace hs : KeptAt init s.mem s.fuseVersion s.xmssIndex := hs
  unfold State.killPartition
  try dsimp only
  repeat' first
    | with_reducible assumption | with_reducible apply State.countFailure_kept | with_reducible apply State.endGraph_kept
    | with_reducible apply State.killRegion_kept | with_reducible apply State.endThread_kept
    | with_reducible apply State.killFrozen_kept | with_reducible apply foldl_kept | with_reducible apply kept_ite | split
    | intro _

theorem State.killEnd_kept (s : State) (p : Nat) (hs : Kept init s) :
    Kept init (State.killEnd s p) := by
  replace hs : KeptAt init s.mem s.fuseVersion s.xmssIndex := hs
  unfold State.killEnd
  repeat' first
    | with_reducible assumption | with_reducible apply State.countFailure_kept | with_reducible apply State.endGraph_kept
    | with_reducible apply State.killFrozen_kept

theorem State.resumeRegionOf_kept (s : State) (r : Nat) (f : Freeze) (hs : Kept init s) :
    Kept init (State.resumeRegionOf s r f) := by
  replace hs : KeptAt init s.mem s.fuseVersion s.xmssIndex := hs
  unfold State.resumeRegionOf
  try dsimp only
  repeat' first
    | with_reducible assumption | with_reducible apply State.setRegion_kept | with_reducible apply State.resumeRegion_kept
    | with_reducible apply State.quiescence_kept | with_reducible apply kept_ite | intro _

theorem State.resumePartition_kept (s : State) (p : Nat) (hs : Kept init s) :
    Kept init (State.resumePartition s p) := by
  replace hs : KeptAt init s.mem s.fuseVersion s.xmssIndex := hs
  unfold State.resumePartition
  try dsimp only
  repeat' first
    | with_reducible assumption | with_reducible apply State.resumeRegion_kept
    | with_reducible apply State.resumeThread_kept | with_reducible apply foldl_kept | with_reducible apply kept_ite | split
    | intro _

theorem State.resumeUnit_kept (s : State) (f : Freeze) (hs : Kept init s) :
    Kept init (State.resumeUnit s f) := by
  replace hs : KeptAt init s.mem s.fuseVersion s.xmssIndex := hs
  unfold State.resumeUnit
  try dsimp only
  repeat' first
    | with_reducible assumption | with_reducible apply State.setRegion_kept | with_reducible apply State.resumeThread_kept
    | with_reducible apply State.resumeRegionOf_kept | with_reducible apply State.resumePartition_kept | split

theorem State.freezeCap_kept (s : State) (t : Nat) (order : Nat) (hs : Kept init s) :
    Kept init (State.freezeCap s t order) := by
  replace hs : KeptAt init s.mem s.fuseVersion s.xmssIndex := hs
  unfold State.freezeCap
  repeat' first
    | with_reducible assumption | with_reducible apply State.freezeThreadT_kept

theorem onCap_kept (s : State) (a : BitVec 6) (right : Nat) (f : Nat → Thread → Freeze → State) (hs : Kept init s) (hf : ∀ v0 v1 v2, Kept init (f v0 v1 v2)) :
    Keeps init (onCap s a right f) := by
  replace hs : KeptAt init s.mem s.fuseVersion s.xmssIndex := hs
  unfold onCap
  try dsimp only
  repeat' first
    | with_reducible assumption | with_reducible apply hf | with_reducible apply onThread_kept
    | with_reducible apply State.freezeCap_kept | with_reducible apply foldl_kept | with_reducible apply keepsO_some
    | with_reducible apply getD_kept | with_reducible apply keepsO_none | with_reducible apply keeps_next
    | with_reducible apply keeps_fault | with_reducible apply keepsE_ok | with_reducible apply keepsE_error
    | with_reducible apply foldl_kept1 | with_reducible apply keepsO_ite | with_reducible apply keeps_ite
    | with_reducible apply kept_ite | dsimp only | split | with_reducible apply keepsO_mapO
    | with_reducible apply keepsO_map | with_reducible (refine kept_of_pair ?_ (by assumption))
    | with_reducible (refine kept_of_some ?_ (by assumption)) | with_reducible (refine kept_of_ok ?_ (by assumption))
    | with_reducible (refine kept_of_pair2 ?_ (by assumption)) | intro _

theorem State.syncWrite_kept (s : State) (t : Nat) (space : Nat) (i : Nat) (v : Word) (hs : Kept init s) :
    Kept init (State.syncWrite s t space i v) := by
  replace hs : KeptAt init s.mem s.fuseVersion s.xmssIndex := hs
  unfold State.syncWrite
  try dsimp only
  repeat' first
    | with_reducible assumption | with_reducible apply State.syncPointers_kept | with_reducible apply State.setWork_kept
    | with_reducible apply kept_ite | intro _

theorem State.patchRegion_kept (s : State) (r : Nat) (space : Nat) (col : Nat) (row : Nat) (i : Nat) (v : Word) (hs : Kept init s) :
    KeepsO init (State.patchRegion s r space col row i v) := by
  replace hs : KeptAt init s.mem s.fuseVersion s.xmssIndex := hs
  unfold State.patchRegion
  try dsimp only
  repeat' first
    | with_reducible assumption | with_reducible apply State.setTile_kept | with_reducible apply State.setRegion_kept
    | with_reducible apply State.syncWrite_kept | with_reducible apply keepsO_some | with_reducible apply keepsO_none
    | with_reducible apply keepsO_ite | split | with_reducible apply keepsO_mapO | with_reducible apply keepsO_map
    | intro _

theorem State.patchThread_kept (s : State) (t : Nat) (space : Nat) (i : Nat) (v : Word) (hs : Kept init s) :
    KeepsO init (State.patchThread s t space i v) := by
  replace hs : KeptAt init s.mem s.fuseVersion s.xmssIndex := hs
  unfold State.patchThread
  try dsimp only
  repeat' first
    | with_reducible assumption | with_reducible apply State.setThread_kept | with_reducible apply keepsO_some
    | with_reducible apply keepsO_none | with_reducible apply keepsO_ite | with_reducible apply keepsO_mapO
    | with_reducible apply keepsO_map | intro _

theorem State.patch_kept (s : State) (f : Freeze) (x v : Word) (hs : Kept init s) : KeepsO init (s.patch f x v) := by
  unfold State.patch
  apply keepsO_ite
  · intro _
    cases f.unit.region? with
    | none => exact keepsO_none
    | some r => exact State.patchRegion_kept _ _ _ _ _ _ _ hs
  · intro _
    apply keepsO_ite
    · intro _; exact keepsO_none
    · intro _
      apply keepsO_ite
      · intro _
        cases f.unit.thread? with
        | none => exact keepsO_none
        | some t => exact State.patchThread_kept _ _ _ _ _ hs
      · intro _; exact keepsO_none

theorem State.clearPoison_kept (s : State) (f : Freeze) (x : Word) (hs : Kept init s) :
    KeepsO init (State.clearPoison s f x) := by
  replace hs : KeptAt init s.mem s.fuseVersion s.xmssIndex := hs
  unfold State.clearPoison
  try dsimp only
  repeat' first
    | with_reducible assumption | with_reducible apply State.setTile_kept | with_reducible apply State.setRegion_kept
    | with_reducible apply State.mapTiles_kept | with_reducible apply keepsO_some | with_reducible apply keepsO_none
    | with_reducible apply keepsO_ite | split | with_reducible apply keepsO_mapO | with_reducible apply keepsO_map
    | intro _

theorem State.putMasked_kept (s : State) (pa : Nat) (mask : Nat) (v : Word) (hs : Kept init s) :
    Kept init (State.putMasked s pa mask v) := hs

theorem State.w1c_kept (s : State) (pa : Nat) (mask : Nat) (v : Word) (hs : Kept init s) :
    Kept init (State.w1c s pa mask v) := hs

theorem State.release_kept (s : State) (t : Nat) (d : Nat) (v : Word) (hs : Kept init s) :
    Kept init (State.release s t d v) := hs

theorem State.acquireNow_kept (s : State) (t : Nat) (hs : Kept init s) :
    Kept init (State.acquireNow s t) := hs

theorem State.meetTlwt_kept (s : State) (i : Nat) (v : Word) (hs : Kept init s) :
    Kept init (State.meetTlwt s i v) := by
  replace hs : KeptAt init s.mem s.fuseVersion s.xmssIndex := hs
  unfold State.meetTlwt
  repeat' first
    | with_reducible assumption | with_reducible apply State.release_kept | with_reducible apply State.acquireNow_kept
    | with_reducible apply State.tlwt_kept | with_reducible apply foldl_kept | with_reducible apply kept_ite | split
    | intro _

theorem State.setCounter_kept (s : State) (i : Nat) (v : Word) (hs : Kept init s) :
    Kept init (State.setCounter s i v) := by
  replace hs : KeptAt init s.mem s.fuseVersion s.xmssIndex := hs
  unfold State.setCounter
  try dsimp only
  repeat' first
    | with_reducible assumption | with_reducible apply State.raiseP_kept | with_reducible apply State.setTasks_kept
    | with_reducible apply State.meetTlwt_kept | with_reducible apply kept_ite | intro _

theorem State.signal_kept (s : State) (i : Nat) (add : Bool) (v : Word) (hs : Kept init s) :
    Kept init (State.signal s i add v) := by
  replace hs : KeptAt init s.mem s.fuseVersion s.xmssIndex := hs
  unfold State.signal
  try dsimp only
  repeat' first
    | with_reducible assumption | with_reducible apply State.setCounter_kept | with_reducible apply kept_ite | intro _

theorem State.storeRange_kept (s : State) (p : Nat) (n : Nat) (w : Nat) (v : Word) (hs : Kept init s) :
    KeepsO init (State.storeRange s p n w v) := by
  replace hs : KeptAt init s.mem s.fuseVersion s.xmssIndex := hs
  unfold State.storeRange
  try dsimp only
  repeat' first
    | with_reducible assumption | with_reducible apply State.setWf_kept | with_reducible apply State.putMasked_kept
    | with_reducible apply foldl_kept | with_reducible apply keepsO_some | with_reducible apply getD_kept
    | with_reducible apply keepsO_none | with_reducible apply keeps_next | with_reducible apply keeps_fault
    | with_reducible apply keepsE_ok | with_reducible apply keepsE_error | with_reducible apply foldl_kept1
    | with_reducible apply keepsO_ite | with_reducible apply keeps_ite | with_reducible apply kept_ite | dsimp only
    | split | with_reducible apply keepsO_mapO | with_reducible apply keepsO_map
    | with_reducible (refine kept_of_pair ?_ (by assumption)) | with_reducible (refine kept_of_some ?_ (by assumption))
    | with_reducible (refine kept_of_ok ?_ (by assumption)) | with_reducible (refine kept_of_pair2 ?_ (by assumption))
    | intro _

theorem State.storeMigctl_kept (s : State) (p : Nat) (v : Word) (hs : Kept init s) :
    Kept init (State.storeMigctl s p v) := hs

theorem State.storeFqcfg_kept (s : State) (p : Nat) (v : Word) (hs : Kept init s) :
    KeepsO init (State.storeFqcfg s p v) := by
  replace hs : KeptAt init s.mem s.fuseVersion s.xmssIndex := hs
  unfold State.storeFqcfg
  try dsimp only
  repeat' first
    | with_reducible assumption | with_reducible apply State.putMasked_kept | with_reducible apply keepsO_some
    | with_reducible apply keepsO_none | with_reducible apply keepsO_ite | intro _

theorem State.storeRestore_kept (s : State) (p : Nat) (hs : Kept init s) :
    Kept init (State.storeRestore s p) := by
  replace hs : KeptAt init s.mem s.fuseVersion s.xmssIndex := hs
  unfold State.storeRestore
  repeat' first
    | with_reducible assumption | with_reducible apply State.setPart_kept | with_reducible apply kept_ite | intro _

theorem State.storePctl_kept (s : State) (p : Nat) (v : Word) (hs : Kept init s) :
    Kept init (State.storePctl s p v) := by
  replace hs : KeptAt init s.mem s.fuseVersion s.xmssIndex := hs
  unfold State.storePctl
  try dsimp only
  repeat' first
    | with_reducible assumption | with_reducible apply State.request_kept | with_reducible apply State.storeRestore_kept
    | with_reducible apply kept_ite | intro _

theorem State.redispatch_kept (s : State) (p : Nat) (hs : Kept init s) :
    Kept init (State.redispatch s p) := by
  replace hs : KeptAt init s.mem s.fuseVersion s.xmssIndex := hs
  unfold State.redispatch
  repeat' first
    | with_reducible assumption | with_reducible apply kept_ite | intro _

theorem State.storePkill_kept (s : State) (p : Nat) (v : Word) (hs : Kept init s) :
    Kept init (State.storePkill s p v) := by
  replace hs : KeptAt init s.mem s.fuseVersion s.xmssIndex := hs
  unfold State.storePkill
  try dsimp only
  repeat' first
    | with_reducible assumption | with_reducible apply State.killAll_kept | with_reducible apply State.killEnd_kept
    | with_reducible apply State.redispatch_kept | with_reducible apply kept_ite | intro _

theorem State.storePrb_kept (s : State) (p : Nat) (off : Nat) (v : Word) (hs : Kept init s) :
    KeepsO init (State.storePrb s p off v) := by
  replace hs : KeptAt init s.mem s.fuseVersion s.xmssIndex := hs
  unfold State.storePrb
  try dsimp only
  repeat' first
    | with_reducible assumption | with_reducible apply State.setW_kept | with_reducible apply State.putMasked_kept
    | with_reducible apply State.storeMigctl_kept | with_reducible apply State.storeFqcfg_kept
    | with_reducible apply State.storePctl_kept | with_reducible apply State.storePkill_kept
    | with_reducible apply keepsO_some | with_reducible apply keepsO_none | with_reducible apply keepsO_ite | intro _

theorem State.setChain_kept (s : State) (c : Nat) (x : Chain) (hs : Kept init s) :
    Kept init (State.setChain s c x) := hs

theorem State.chainResume_kept (s : State) (c : Nat) (hs : Kept init s) :
    Kept init (State.chainResume s c) := by
  replace hs : KeptAt init s.mem s.fuseVersion s.xmssIndex := hs
  unfold State.chainResume
  try dsimp only
  repeat' first
    | with_reducible assumption | with_reducible apply State.setChain_kept | with_reducible apply kept_ite | intro _

theorem State.chainSkip_kept (s : State) (c : Nat) (hs : Kept init s) :
    Kept init (State.chainSkip s c) := by
  replace hs : KeptAt init s.mem s.fuseVersion s.xmssIndex := hs
  unfold State.chainSkip
  try dsimp only
  repeat' first
    | with_reducible assumption | with_reducible apply State.setChain_kept | with_reducible apply kept_ite | split
    | intro _

theorem State.storeChainCtl_kept (s : State) (c : Nat) (v : Word) (hs : Kept init s) :
    Kept init (State.storeChainCtl s c v) := by
  replace hs : KeptAt init s.mem s.fuseVersion s.xmssIndex := hs
  unfold State.storeChainCtl
  repeat' first
    | with_reducible assumption | with_reducible apply State.chainResume_kept | with_reducible apply State.chainSkip_kept
    | with_reducible apply kept_ite | intro _

theorem State.setRunWin_kept (s : State) (p : Nat) (n : Nat) (x : Window) (hs : Kept init s) :
    Kept init (State.setRunWin s p n x) := hs

theorem State.armWindow_kept (s : State) (p : Nat) (n : Nat) (hs : Kept init s) :
    Kept init (State.armWindow s p n) := by
  replace hs : KeptAt init s.mem s.fuseVersion s.xmssIndex := hs
  unfold State.armWindow
  try dsimp only
  repeat' first
    | with_reducible assumption | with_reducible apply State.setW_kept | with_reducible apply State.setRunWin_kept
    | with_reducible apply kept_ite | intro _

theorem State.closeWindow_kept (s : State) (p : Nat) (n : Nat) (hs : Kept init s) :
    Kept init (State.closeWindow s p n) := by
  replace hs : KeptAt init s.mem s.fuseVersion s.xmssIndex := hs
  unfold State.closeWindow
  try dsimp only
  repeat' first
    | with_reducible assumption | with_reducible apply State.setWf_kept | with_reducible apply State.bumpDc_kept
    | with_reducible apply State.storeBytes_kept | with_reducible apply State.signal_kept
    | with_reducible apply State.setRunWin_kept | with_reducible apply foldl_kept | with_reducible apply kept_ite | split
    | intro _

theorem State.storeWindow_kept (s : State) (p : Nat) (n : Nat) (w : Nat) (v : Word) (hs : Kept init s) :
    KeepsO init (State.storeWindow s p n w v) := by
  replace hs : KeptAt init s.mem s.fuseVersion s.xmssIndex := hs
  unfold State.storeWindow
  try dsimp only
  repeat' first
    | with_reducible assumption | with_reducible apply State.setW_kept | with_reducible apply State.putMasked_kept
    | with_reducible apply State.armWindow_kept | with_reducible apply State.closeWindow_kept
    | with_reducible apply foldl_kept | with_reducible apply keepsO_some | with_reducible apply getD_kept
    | with_reducible apply keepsO_none | with_reducible apply keeps_next | with_reducible apply keeps_fault
    | with_reducible apply keepsE_ok | with_reducible apply keepsE_error | with_reducible apply foldl_kept1
    | with_reducible apply keepsO_ite | with_reducible apply keeps_ite | with_reducible apply kept_ite | dsimp only
    | split | with_reducible apply keepsO_mapO | with_reducible apply keepsO_map
    | with_reducible (refine kept_of_pair ?_ (by assumption)) | with_reducible (refine kept_of_some ?_ (by assumption))
    | with_reducible (refine kept_of_ok ?_ (by assumption)) | with_reducible (refine kept_of_pair2 ?_ (by assumption))
    | intro _

theorem State.setChan_kept (s : State) (c : Nat) (x : Chan) (hs : Kept init s) :
    Kept init (State.setChan s c x) := hs

theorem State.clearDegr_kept (s : State) (c : Nat) (hs : Kept init s) :
    Kept init (State.clearDegr s c) := hs

theorem State.storeDelay_kept (s : State) (t : Nat) (c : Nat) (off : Nat) (v : Word) (hs : Kept init s) :
    Kept init (State.storeDelay s t c off v) := by
  replace hs : KeptAt init s.mem s.fuseVersion s.xmssIndex := hs
  unfold State.storeDelay
  try dsimp only
  repeat' first
    | with_reducible assumption | with_reducible apply State.setW_kept | with_reducible apply State.setChan_kept
    | with_reducible apply kept_ite | intro _

theorem State.storeLrep_kept (s : State) (t : Nat) (c : Nat) (v : Word) (hs : Kept init s) :
    KeepsO init (State.storeLrep s t c v) := by
  replace hs : KeptAt init s.mem s.fuseVersion s.xmssIndex := hs
  unfold State.storeLrep
  repeat' first
    | with_reducible assumption | with_reducible apply State.storeDelay_kept | with_reducible apply keepsO_some
    | with_reducible apply keepsO_none | with_reducible apply keepsO_ite | intro _

theorem State.refuseGo_kept (s : State) (c : Nat) (hs : Kept init s) :
    Kept init (State.refuseGo s c) := hs

theorem State.startTest_kept (s : State) (c : Nat) (dir : Bool) (hs : Kept init s) :
    Kept init (State.startTest s c dir) := by
  replace hs : KeptAt init s.mem s.fuseVersion s.xmssIndex := hs
  unfold State.startTest
  try dsimp only
  repeat' first
    | with_reducible assumption | with_reducible apply State.choose_kept | with_reducible apply State.setW_kept
    | with_reducible apply State.setWf_kept | with_reducible apply State.bumpW_kept
    | with_reducible apply State.setChan_kept | with_reducible apply kept_ite | split
    | with_reducible (refine kept_of_pair ?_ (by assumption)) | intro _

theorem State.storeTrain_kept (s : State) (c : Nat) (v : Word) (hs : Kept init s) :
    Kept init (State.storeTrain s c v) := by
  replace hs : KeptAt init s.mem s.fuseVersion s.xmssIndex := hs
  unfold State.storeTrain
  try dsimp only
  repeat' first
    | with_reducible assumption | with_reducible apply State.putMasked_kept | with_reducible apply State.refuseGo_kept
    | with_reducible apply State.startTest_kept | with_reducible apply kept_ite | intro _

theorem State.storeHcb_kept (s : State) (t : Nat) (c : Nat) (off : Nat) (v : Word) (hs : Kept init s) :
    KeepsO init (State.storeHcb s t c off v) := by
  replace hs : KeptAt init s.mem s.fuseVersion s.xmssIndex := hs
  unfold State.storeHcb
  try dsimp only
  repeat' first
    | with_reducible assumption | with_reducible apply State.putMasked_kept | with_reducible apply State.w1c_kept
    | with_reducible apply State.clearDegr_kept | with_reducible apply State.storeDelay_kept
    | with_reducible apply State.storeLrep_kept | with_reducible apply State.storeTrain_kept
    | with_reducible apply foldl_kept | with_reducible apply keepsO_some | with_reducible apply getD_kept
    | with_reducible apply keepsO_none | with_reducible apply keeps_next | with_reducible apply keeps_fault
    | with_reducible apply keepsE_ok | with_reducible apply keepsE_error | with_reducible apply foldl_kept1
    | with_reducible apply keepsO_ite | with_reducible apply keeps_ite | with_reducible apply kept_ite | dsimp only
    | split | with_reducible apply keepsO_mapO | with_reducible apply keepsO_map
    | with_reducible (refine kept_of_pair ?_ (by assumption)) | with_reducible (refine kept_of_some ?_ (by assumption))
    | with_reducible (refine kept_of_ok ?_ (by assumption)) | with_reducible (refine kept_of_pair2 ?_ (by assumption))
    | intro _

theorem State.storeCmd_kept (s : State) (cmd : Nat) (hs : Kept init s) :
    Kept init (State.storeCmd s cmd) := by
  replace hs : KeptAt init s.mem s.fuseVersion s.xmssIndex := hs
  unfold State.storeCmd
  repeat' first
    | with_reducible assumption | with_reducible apply State.setW_kept | with_reducible apply kept_ite | intro _

theorem State.storeTrb_kept (s : State) (off : Nat) (v : Word) (hs : Kept init s) :
    Kept init (State.storeTrb s off v) := by
  replace hs : KeptAt init s.mem s.fuseVersion s.xmssIndex := hs
  unfold State.storeTrb
  repeat' first
    | with_reducible assumption | with_reducible apply State.putMasked_kept | with_reducible apply State.w1c_kept
    | with_reducible apply State.storeCmd_kept | with_reducible apply kept_ite | intro _

theorem State.storeRoute_kept (s : State) (d : Nat) (v : Word) (hs : Kept init s) :
    Kept init (s.storeRoute d v) := by
  have h1 : ∀ (t : State) l, Kept init t → Kept init { t with oldPort := l } := fun _ _ h => h
  have h2 : ∀ a v, Kept init (s.setW a v) := fun a v => State.setW_kept s a v hs
  unfold State.storeRoute
  dsimp only
  split
  · exact hs
  · split
    · with_reducible apply h1
      with_reducible apply h2
    · with_reducible apply h2

theorem State.storeRidx_kept (s : State) (q : Nat) (v : Nat) (hs : Kept init s) :
    KeepsO init (State.storeRidx s q v) := by
  replace hs : KeptAt init s.mem s.fuseVersion s.xmssIndex := hs
  unfold State.storeRidx
  try dsimp only
  repeat' first
    | with_reducible assumption | with_reducible apply State.setWf_kept | with_reducible apply keepsO_some
    | with_reducible apply keepsO_none | with_reducible apply keepsO_ite | intro _

theorem State.storeReqLimit_kept (s : State) (q : Nat) (v : Word) (hs : Kept init s) :
    KeepsO init (State.storeReqLimit s q v) := by
  replace hs : KeptAt init s.mem s.fuseVersion s.xmssIndex := hs
  unfold State.storeReqLimit
  try dsimp only
  repeat' first
    | with_reducible assumption | with_reducible apply State.setWf_kept | with_reducible apply keepsO_some
    | with_reducible apply keepsO_none | with_reducible apply keepsO_ite | intro _

theorem State.storeReq_kept (s : State) (q : Nat) (w : Nat) (v : Word) (hs : Kept init s) :
    KeepsO init (State.storeReq s q w v) := by
  replace hs : KeptAt init s.mem s.fuseVersion s.xmssIndex := hs
  unfold State.storeReq
  try dsimp only
  repeat' first
    | with_reducible assumption | with_reducible apply State.setW_kept | with_reducible apply State.putMasked_kept
    | with_reducible apply State.storeRidx_kept | with_reducible apply State.storeReqLimit_kept
    | with_reducible apply keepsO_some | with_reducible apply keepsO_none | with_reducible apply keepsO_ite | intro _

theorem State.storeQpool_kept (s : State) (q : Nat) (v : Word) (hs : Kept init s) :
    KeepsO init (State.storeQpool s q v) := by
  replace hs : KeptAt init s.mem s.fuseVersion s.xmssIndex := hs
  unfold State.storeQpool
  try dsimp only
  repeat' first
    | with_reducible assumption | with_reducible apply State.putMasked_kept | with_reducible apply keepsO_some
    | with_reducible apply keepsO_none | with_reducible apply keepsO_ite | intro _

theorem State.depReady_kept (s : State) (d : Nat) (hs : Kept init s) :
    Kept init (State.depReady s d) := by
  replace hs : KeptAt init s.mem s.fuseVersion s.xmssIndex := hs
  unfold State.depReady
  try dsimp only
  repeat' first
    | with_reducible assumption | with_reducible apply State.setTasks_kept | with_reducible apply kept_ite | intro _

theorem State.depSet_kept (s : State) (d : Nat) (v : BitVec 32) (hs : Kept init s) :
    Kept init (State.depSet s d v) := by
  replace hs : KeptAt init s.mem s.fuseVersion s.xmssIndex := hs
  unfold State.depSet
  try dsimp only
  repeat' first
    | with_reducible assumption | with_reducible apply State.setWf_kept | with_reducible apply State.depReady_kept
    | with_reducible apply kept_ite | split | intro _

theorem State.createTask_kept (s : State) (q : Nat) (i : Nat) (hs : Kept init s) :
    Kept init (State.createTask s q i) := by
  replace hs : KeptAt init s.mem s.fuseVersion s.xmssIndex := hs
  unfold State.createTask
  try dsimp only
  repeat' first
    | with_reducible assumption | with_reducible apply State.setWf_kept | with_reducible apply State.bumpRefs_kept
    | with_reducible apply State.depSet_kept | with_reducible apply kept_ite | split | intro _

theorem State.storeCons_kept (s : State) (q : Nat) (v : Nat) (hs : Kept init s) :
    Kept init (State.storeCons s q v) := by
  replace hs : KeptAt init s.mem s.fuseVersion s.xmssIndex := hs
  unfold State.storeCons
  try dsimp only
  repeat' first
    | with_reducible assumption | with_reducible apply State.setWf_kept | with_reducible apply State.bumpW_kept
    | with_reducible apply State.createTask_kept | with_reducible apply kept_ite | intro _

theorem State.storeQueue_kept (s : State) (q : Nat) (w : Nat) (v : Word) (hs : Kept init s) :
    Kept init (State.storeQueue s q w v) := by
  replace hs : KeptAt init s.mem s.fuseVersion s.xmssIndex := hs
  unfold State.storeQueue
  try dsimp only
  repeat' first
    | with_reducible assumption | with_reducible apply State.setW_kept | with_reducible apply State.putMasked_kept
    | with_reducible apply State.w1c_kept | with_reducible apply State.storeCons_kept | with_reducible apply kept_ite
    | intro _

theorem State.imageEdit_kept (s : State) (i : Nat) (ver : Nat) (pa : Nat) (hs : Kept init s) :
    KeepsO init (State.imageEdit s i ver pa) := by
  replace hs : KeptAt init s.mem s.fuseVersion s.xmssIndex := hs
  unfold State.imageEdit
  try dsimp only
  repeat' first
    | with_reducible assumption | with_reducible apply State.setW_kept | with_reducible apply State.setWf_kept
    | with_reducible apply keepsO_some | with_reducible apply keepsO_none | with_reducible apply keepsO_ite | intro _

theorem State.storeImage_kept (s : State) (i : Nat) (w : Nat) (v : Word) (hs : Kept init s) :
    KeepsO init (State.storeImage s i w v) := by
  replace hs : KeptAt init s.mem s.fuseVersion s.xmssIndex := hs
  unfold State.storeImage
  try dsimp only
  repeat' first
    | with_reducible assumption | with_reducible apply State.setWf_kept | with_reducible apply State.putMasked_kept
    | with_reducible apply State.imageEdit_kept | with_reducible apply keepsO_some | with_reducible apply keepsO_none
    | with_reducible apply keepsO_ite | with_reducible apply keepsO_mapO | with_reducible apply keepsO_map | intro _

theorem State.storeEndr_kept (s : State) (v : Nat) (hs : Kept init s) :
    Kept init (State.storeEndr s v) := hs

theorem State.kick_kept (s : State) (q : Nat) (hs : Kept init s) :
    Kept init (State.kick s q) := by
  replace hs : KeptAt init s.mem s.fuseVersion s.xmssIndex := hs
  unfold State.kick
  repeat' first
    | with_reducible assumption | with_reducible apply State.setKick_kept | with_reducible apply kept_ite | intro _

theorem State.hostKick_kept (s : State) (q : Nat) (hs : Kept init s) :
    Kept init (State.hostKick s q) := by
  replace hs : KeptAt init s.mem s.fuseVersion s.xmssIndex := hs
  unfold State.hostKick
  repeat' first
    | with_reducible assumption | with_reducible apply State.setKick_kept | with_reducible apply kept_ite | intro _

theorem State.storeCrb_kept (s : State) (off : Nat) (v : Word) (hs : Kept init s) :
    KeepsO init (State.storeCrb s off v) := by
  replace hs : KeptAt init s.mem s.fuseVersion s.xmssIndex := hs
  unfold State.storeCrb
  repeat' first
    | with_reducible assumption | with_reducible apply State.setWf_kept | with_reducible apply State.putMasked_kept
    | with_reducible apply State.storeQpool_kept | with_reducible apply State.storeQueue_kept
    | with_reducible apply State.storeImage_kept | with_reducible apply State.storeEndr_kept
    | with_reducible apply State.kick_kept | with_reducible apply keepsO_some | with_reducible apply keepsO_none
    | with_reducible apply keepsO_ite | intro _

theorem State.wregStore_kept (s : State) (t pa : Nat) (v : Word) (w : WReg) (hs : Kept init s) :
    KeepsO init (s.wregStore t pa v w) := by
  unfold State.wregStore
  have hm : ∀ m, KeepsO init (some (s.putMasked pa m v)) := fun m => keepsO_some (State.putMasked_kept _ _ _ _ hs)
  cases w with
  | range p n w => exact State.storeRange_kept _ _ _ _ _ hs
  | prb p off => exact State.storePrb_kept _ _ _ _ hs
  | chain p e w =>
    refine keepsO_some (kept_ite (fun _ => ?_) (fun _ => hs))
    exact State.storeChainCtl_kept _ _ _ hs
  | window p n w => exact State.storeWindow_kept _ _ _ _ _ hs
  | mat _ _ => exact hm _
  | hcb c off => exact State.storeHcb_kept _ _ _ _ _ hs
  | twb _ _ => exact keepsO_some hs
  | pool _ _ _ => exact keepsO_none
  | trb off => exact keepsO_some (State.storeTrb_kept _ _ _ hs)
  | brbPort _ _ => exact keepsO_some hs
  | brbRoute d => exact keepsO_some (State.storeRoute_kept _ _ _ hs)
  | brbQueue q w => exact State.storeReq_kept _ _ _ _ hs
  | crb off => exact State.storeCrb_kept _ _ _ hs
  | none => exact keepsO_some hs

theorem State.regStore_kept (s : State) (t pa : Nat) (v : Word) (hs : Kept init s) :
    KeepsO init (s.regStore t pa v) := State.wregStore_kept s t pa v (wreg pa) hs

theorem State.taskCompleted_kept (s : State) (pa : Nat) (serial : Nat) (hs : Kept init s) :
    Kept init (State.taskCompleted s pa serial) := by
  replace hs : KeptAt init s.mem s.fuseVersion s.xmssIndex := hs
  unfold State.taskCompleted
  try dsimp only
  repeat' first
    | with_reducible assumption | with_reducible apply State.releaseTask_kept | split

theorem State.ackOut_kept (s : State) (src : Nat) (seq : Nat) (hs : Kept init s) :
    Kept init (State.ackOut s src seq) := hs

theorem State.denyOut_kept (s : State) (src : Nat) (seq : Nat) (cause : Nat) (hs : Kept init s) :
    Kept init (State.denyOut s src seq cause) := hs

theorem State.hostAbort_kept (s : State) (link : Nat) (p : Nat) (pa : Nat) (hs : Kept init s) :
    Kept init (State.hostAbort s link p pa) := by
  replace hs : KeptAt init s.mem s.fuseVersion s.xmssIndex := hs
  unfold State.hostAbort
  repeat' first
    | with_reducible assumption | with_reducible apply State.out_kept

theorem State.onArcPond_kept (s : State) (p : Nat) (a : Nat) (f : Nat → Tile → Tile) (hs : Kept init s) :
    Kept init (State.onArcPond s p a f) := by
  replace hs : KeptAt init s.mem s.fuseVersion s.xmssIndex := hs
  unfold State.onArcPond
  repeat' first
    | with_reducible assumption | with_reducible apply State.mapTiles_kept | split

theorem State.arcArrive_kept (s : State) (l : LineIn) (a : Nat) (line : Nat) (v : Nat) (hs : Kept init s) :
    Kept init (State.arcArrive s l a line v) := by
  replace hs : KeptAt init s.mem s.fuseVersion s.xmssIndex := hs
  unfold State.arcArrive
  try dsimp only
  repeat' first
    | with_reducible assumption | with_reducible apply State.setTile_kept | with_reducible apply State.out_kept
    | with_reducible apply State.setWork_kept | with_reducible apply State.ackOut_kept | with_reducible apply getD_kept
    | with_reducible apply kept_ite | split | intro _

theorem State.arcDenied_kept (s : State) (p : Nat) (a : Nat) (cause : Nat) (hs : Kept init s) :
    Kept init (State.arcDenied s p a cause) := by
  replace hs : KeptAt init s.mem s.fuseVersion s.xmssIndex := hs
  unfold State.arcDenied
  try dsimp only
  repeat' first
    | with_reducible assumption | with_reducible apply State.freezeRegion_kept | split

theorem State.arcGone_kept (s : State) (p : Nat) (a : Nat) (hs : Kept init s) :
    Kept init (State.arcGone s p a) := by
  replace hs : KeptAt init s.mem s.fuseVersion s.xmssIndex := hs
  unfold State.arcGone
  try dsimp only
  repeat' first
    | with_reducible assumption | with_reducible apply kept_ite | split | intro _

theorem State.tagFailure_kept (s : State) (l : LineIn) (hs : Kept init s) :
    Kept init (State.tagFailure s l) := by
  replace hs : KeptAt init s.mem s.fuseVersion s.xmssIndex := hs
  unfold State.tagFailure
  try dsimp only
  repeat' first
    | with_reducible assumption | with_reducible apply State.bumpW_kept | with_reducible apply State.out_kept
    | with_reducible apply kept_ite | split | intro _

theorem State.noteCrc_kept (s : State) (i : Nat) (lane : Nat) (hs : Kept init s) :
    Kept init (State.noteCrc s i lane) := by
  replace hs : KeptAt init s.mem s.fuseVersion s.xmssIndex := hs
  unfold State.noteCrc
  try dsimp only
  repeat' first
    | with_reducible assumption | with_reducible apply State.bumpW_kept | with_reducible apply kept_ite | intro _

theorem State.crcFailure_kept (s : State) (l : LineIn) (hs : Kept init s) :
    Kept init (State.crcFailure s l) := by
  replace hs : KeptAt init s.mem s.fuseVersion s.xmssIndex := hs
  unfold State.crcFailure
  repeat' first
    | with_reducible assumption | with_reducible apply State.out_kept | with_reducible apply State.noteCrc_kept

theorem State.defer_kept (s : State) (i : Turn) (hs : Kept init s) :
    Kept init (State.defer s i) := hs

theorem State.rxNote_kept (s : State) (l : LineIn) (counted : Bool) (hs : Kept init s) :
    Kept init (State.rxNote s l counted) := by
  replace hs : KeptAt init s.mem s.fuseVersion s.xmssIndex := hs
  unfold State.rxNote
  try dsimp only
  repeat' first
    | with_reducible assumption | with_reducible apply getD_kept

theorem State.rxDone_kept (s : State) (l : LineIn) (hs : Kept init s) :
    Kept init (State.rxDone s l) := by
  replace hs : KeptAt init s.mem s.fuseVersion s.xmssIndex := hs
  unfold State.rxDone
  repeat' first
    | with_reducible assumption

theorem State.rxPass_kept (s : State) (l : LineIn) (key : BitVec 768) (hs : Kept init s) :
    Kept init (State.rxPass s l key) := by
  replace hs : KeptAt init s.mem s.fuseVersion s.xmssIndex := hs
  unfold State.rxPass
  try dsimp only
  repeat' first
    | with_reducible assumption | with_reducible apply State.rxDone_kept

theorem State.rxHold_kept (s : State) (l : LineIn) (again : Turn) (hs : Kept init s) :
    Kept init (State.rxHold s l again) := by
  replace hs : KeptAt init s.mem s.fuseVersion s.xmssIndex := hs
  unfold State.rxHold
  repeat' first
    | with_reducible assumption | with_reducible apply State.defer_kept | with_reducible apply State.rxNote_kept

theorem State.tagWait_kept (s : State) (l : LineIn) (hs : Kept init s) :
    Kept init (State.tagWait s l) := by
  replace hs : KeptAt init s.mem s.fuseVersion s.xmssIndex := hs
  unfold State.tagWait
  repeat' first
    | with_reducible assumption | with_reducible apply State.tagFailure_kept | with_reducible apply State.rxNote_kept
    | with_reducible apply State.rxDone_kept | with_reducible apply kept_ite | intro _

theorem State.forward_kept (s : State) (l : LineIn) (hs : Kept init s) :
    Kept init (State.forward s l) := by
  replace hs : KeptAt init s.mem s.fuseVersion s.xmssIndex := hs
  unfold State.forward
  try dsimp only
  repeat' first
    | with_reducible assumption | with_reducible apply State.bumpW_kept | with_reducible apply State.out_kept
    | with_reducible apply State.rxDone_kept | with_reducible apply State.rxHold_kept | with_reducible apply kept_ite
    | intro _

theorem State.admit_kept (s : State) (l : LineIn) (again : Turn) (hs : Kept init s) :
    Kept init (State.checkLine s l again).1 := by
  replace hs : KeptAt init s.mem s.fuseVersion s.xmssIndex := hs
  unfold State.checkLine
  try dsimp only
  repeat' first
    | with_reducible assumption | with_reducible apply State.ackOut_kept | with_reducible apply State.crcFailure_kept
    | with_reducible apply State.rxNote_kept | with_reducible apply State.rxHold_kept
    | with_reducible apply State.tagWait_kept | with_reducible apply State.forward_kept | split | intro _

theorem State.lineGate_kept (s : State) (l : LineIn) (hs : Kept init s) :
    Kept init (State.lineGate s l).1 := by
  replace hs : KeptAt init s.mem s.fuseVersion s.xmssIndex := hs
  unfold State.lineGate
  try dsimp only
  repeat' first
    | with_reducible assumption | with_reducible apply State.gateway_kept

theorem State.gateHold_kept (s : State) (l : LineIn) (again : Turn) (hs : Kept init s) :
    Kept init (State.gateHold s l again) := by
  replace hs : KeptAt init s.mem s.fuseVersion s.xmssIndex := hs
  unfold State.gateHold
  repeat' first
    | with_reducible assumption | with_reducible apply State.defer_kept | with_reducible apply State.rxNote_kept

theorem State.setCipher_kept (s : State) (a : Nat) (c : Cipher) (hs : Kept init s) :
    Kept init (State.setCipher s a c) := by
  replace hs : KeptAt init s.mem s.fuseVersion s.xmssIndex := hs
  unfold State.setCipher
  repeat' first
    | with_reducible assumption

theorem State.remoteWrite_kept (s : State) (l : LineIn) (key : BitVec 768) (hs : Kept init s) :
    Kept init (State.remoteWrite s l key) := by
  replace hs : KeptAt init s.mem s.fuseVersion s.xmssIndex := hs
  unfold State.remoteWrite
  try dsimp only
  repeat' first
    | with_reducible assumption | with_reducible apply State.storeBytes_kept | with_reducible apply State.remapVote_kept
    | with_reducible apply State.ackOut_kept | with_reducible apply State.denyOut_kept
    | with_reducible apply State.setCipher_kept | with_reducible apply kept_ite | split | intro _

theorem State.lineArrive_kept (s : State) (l : LineIn) (hs : Kept init s) :
    Kept init (State.lineArrive s l) := by
  replace hs : KeptAt init s.mem s.fuseVersion s.xmssIndex := hs
  unfold State.lineArrive
  try dsimp only
  repeat' first
    | with_reducible assumption | with_reducible apply State.out_kept | with_reducible apply State.denyOut_kept
    | with_reducible apply State.arcArrive_kept | with_reducible apply State.rxPass_kept
    | with_reducible apply State.rxHold_kept | with_reducible apply State.admit_kept
    | with_reducible apply State.lineGate_kept | with_reducible apply State.gateHold_kept
    | with_reducible apply State.remoteWrite_kept | with_reducible apply kept_ite | split | intro _

theorem State.arcCommit_kept (s : State) (p : Nat) (a : Nat) (hs : Kept init s) :
    Kept init (State.arcCommit s p a) := by
  replace hs : KeptAt init s.mem s.fuseVersion s.xmssIndex := hs
  unfold State.arcCommit
  repeat' first
    | with_reducible assumption | with_reducible apply State.onArcPond_kept | with_reducible apply kept_ite | intro _

theorem State.arcAbort_kept (s : State) (p : Nat) (a : Nat) (hs : Kept init s) :
    Kept init (State.arcAbort s p a) := by
  replace hs : KeptAt init s.mem s.fuseVersion s.xmssIndex := hs
  unfold State.arcAbort
  repeat' first
    | with_reducible assumption | with_reducible apply State.onArcPond_kept

theorem State.arcRecord_kept (s : State) (l : LineIn) (abort : Bool) (hs : Kept init s) :
    Kept init (State.arcRecord s l abort) := by
  replace hs : KeptAt init s.mem s.fuseVersion s.xmssIndex := hs
  unfold State.arcRecord
  try dsimp only
  repeat' first
    | with_reducible assumption | with_reducible apply State.ackOut_kept | with_reducible apply State.rxPass_kept
    | with_reducible apply State.admit_kept | with_reducible apply State.arcCommit_kept
    | with_reducible apply State.arcAbort_kept | with_reducible apply kept_ite | split | intro _

theorem State.creditArrive_kept (s : State) (l : LineIn) (hs : Kept init s) :
    Kept init (State.creditArrive s l) := by
  replace hs : KeptAt init s.mem s.fuseVersion s.xmssIndex := hs
  unfold State.creditArrive
  try dsimp only
  repeat' first
    | with_reducible assumption | with_reducible apply State.ackOut_kept | with_reducible apply State.rxPass_kept
    | with_reducible apply State.admit_kept | split

theorem State.runLost_kept (s : State) (port : Option Nat) (hs : Kept init s) :
    Kept init (State.runLost s port) := by
  replace hs : KeptAt init s.mem s.fuseVersion s.xmssIndex := hs
  unfold State.runLost
  repeat' first
    | with_reducible assumption | with_reducible apply State.bumpW_kept | split

theorem State.runoffPlace_kept (s : State) (m : Master) (port : Option Nat) (own : Option Nat) (owner : Nat) (a : Nat) (bs : List Byte) (cs : List Cipher) (hs : Kept init s) :
    Kept init (State.runoffPlace s m port own owner a bs cs) := by
  replace hs : KeptAt init s.mem s.fuseVersion s.xmssIndex := hs
  unfold State.runoffPlace
  try dsimp only
  repeat' first
    | with_reducible assumption | with_reducible apply State.setWf_kept | with_reducible apply State.bumpW_kept
    | with_reducible apply State.storeBytes_kept | with_reducible apply State.remapVote_kept
    | with_reducible apply State.gateway_kept | with_reducible apply State.setRunWin_kept
    | with_reducible apply State.closeWindow_kept | with_reducible apply State.setCipher_kept
    | with_reducible apply State.runLost_kept | with_reducible apply foldl_kept | with_reducible apply kept_ite | split
    | intro _

theorem State.noteBlock_kept (s : State) (b : BlockIn) (hs : Kept init s) :
    Kept init (State.noteBlock s b) := by
  replace hs : KeptAt init s.mem s.fuseVersion s.xmssIndex := hs
  unfold State.noteBlock
  repeat' first
    | with_reducible assumption | with_reducible apply State.bumpW_kept | with_reducible apply State.noteCrc_kept
    | with_reducible apply foldl_kept | with_reducible apply kept_ite | split | intro _

theorem State.forwardBlock_kept (s : State) (b : BlockIn) (hs : Kept init s) :
    Kept init (State.forwardBlock s b) := by
  replace hs : KeptAt init s.mem s.fuseVersion s.xmssIndex := hs
  unfold State.forwardBlock
  try dsimp only
  repeat' first
    | with_reducible assumption | with_reducible apply State.bumpW_kept | with_reducible apply State.out_kept
    | with_reducible apply State.noteCrc_kept | with_reducible apply State.runLost_kept | with_reducible apply foldl_kept
    | with_reducible apply kept_ite | split | intro _

theorem State.runoffArrive_kept (s : State) (b : BlockIn) (hs : Kept init s) :
    Kept init (State.runoffArrive s b) := by
  replace hs : KeptAt init s.mem s.fuseVersion s.xmssIndex := hs
  unfold State.runoffArrive
  try dsimp only
  repeat' first
    | with_reducible assumption | with_reducible apply State.defer_kept | with_reducible apply State.runLost_kept
    | with_reducible apply State.runoffPlace_kept | with_reducible apply State.noteBlock_kept
    | with_reducible apply State.forwardBlock_kept | with_reducible apply kept_ite | intro _

theorem State.placeRecord_kept (s : State) (q : Nat) (src : Nat) (part : Nat) (owner : Option Nat) (again : Bool) (payload : List Byte) (hs : Kept init s) :
    Kept init (State.placeRecord s q src part owner again payload).1 := by
  replace hs : KeptAt init s.mem s.fuseVersion s.xmssIndex := hs
  unfold State.placeRecord
  try dsimp only
  repeat' first
    | with_reducible assumption | with_reducible apply State.setWf_kept | with_reducible apply State.bumpW_kept
    | with_reducible apply State.storeBytes_kept | with_reducible apply State.remapVote_kept
    | with_reducible apply State.gateway_kept | with_reducible apply State.signal_kept | with_reducible apply getD_kept
    | split | intro _

theorem State.recordArrive_kept (s : State) (l : LineIn) (hs : Kept init s) :
    Kept init (State.recordArrive s l) := by
  replace hs : KeptAt init s.mem s.fuseVersion s.xmssIndex := hs
  unfold State.recordArrive
  try dsimp only
  repeat' first
    | with_reducible assumption | with_reducible apply State.out_kept | with_reducible apply State.request_kept
    | with_reducible apply State.ackOut_kept | with_reducible apply State.denyOut_kept
    | with_reducible apply State.rxPass_kept | with_reducible apply State.admit_kept
    | with_reducible apply State.gateHold_kept | with_reducible apply State.placeRecord_kept | split

theorem State.reportWatch_kept (s : State) (src : Nat) (queue : Nat) (a : Nat) (n : Nat) (hs : Kept init s) :
    Kept init (State.reportWatch s src queue a n) := by
  replace hs : KeptAt init s.mem s.fuseVersion s.xmssIndex := hs
  unfold State.reportWatch
  repeat' first
    | with_reducible assumption | with_reducible apply State.latchFreeze_kept | with_reducible apply foldl_kept | split
    | intro _

theorem State.remoteAtomic_kept (s : State) (l : LineIn) (queue : Nat) (sz : Nat) (op : Nat) (a : Nat) (operand : Nat) (expect : Nat) (hs : Kept init s) :
    Kept init (State.remoteAtomic s l queue sz op a operand expect) := by
  replace hs : KeptAt init s.mem s.fuseVersion s.xmssIndex := hs
  unfold State.remoteAtomic
  try dsimp only
  repeat' first
    | with_reducible assumption | with_reducible apply State.storeBytes_kept | with_reducible apply State.hbmServe_kept
    | with_reducible apply State.out_kept | with_reducible apply State.denyOut_kept
    | with_reducible apply State.reportWatch_kept | with_reducible apply kept_ite | intro _

theorem State.atomicArrive_kept (s : State) (l : LineIn) (queue : Nat) (sz : Nat) (op : Nat) (hs : Kept init s) :
    Kept init (State.atomicArrive s l queue sz op) := by
  replace hs : KeptAt init s.mem s.fuseVersion s.xmssIndex := hs
  unfold State.atomicArrive
  try dsimp only
  repeat' first
    | with_reducible assumption | with_reducible apply State.signal_kept | with_reducible apply State.ackOut_kept
    | with_reducible apply State.denyOut_kept | with_reducible apply State.rxPass_kept
    | with_reducible apply State.rxHold_kept | with_reducible apply State.admit_kept
    | with_reducible apply State.lineGate_kept | with_reducible apply State.gateHold_kept
    | with_reducible apply State.remoteAtomic_kept | with_reducible apply kept_ite | split | intro _

theorem State.flushPort_kept (s : State) (i : Nat) (hs : Kept init s) :
    Kept init (State.flushPort s i) := by
  replace hs : KeptAt init s.mem s.fuseVersion s.xmssIndex := hs
  unfold State.flushPort
  try dsimp only
  repeat' first
    | with_reducible assumption | with_reducible apply State.sendLine_kept | with_reducible apply State.flushLines_kept
    | with_reducible apply foldl_kept | with_reducible apply kept_ite | split | intro _

theorem State.repairStart_kept (s : State) (i : Nat) (lane : Nat) (hs : Kept init s) :
    Kept init (State.repairStart s i lane) := by
  replace hs : KeptAt init s.mem s.fuseVersion s.xmssIndex := hs
  unfold State.repairStart
  try dsimp only
  repeat' first
    | with_reducible assumption | with_reducible apply State.setWf_kept | with_reducible apply kept_ite | intro _

theorem State.repairDone_kept (s : State) (i : Nat) (hs : Kept init s) :
    Kept init (State.repairDone s i) := by
  replace hs : KeptAt init s.mem s.fuseVersion s.xmssIndex := hs
  unfold State.repairDone
  try dsimp only
  repeat' first
    | with_reducible assumption | with_reducible apply State.setWf_kept | with_reducible apply State.bumpW_kept
    | with_reducible apply State.irq_kept | with_reducible apply State.flushPort_kept | with_reducible apply kept_ite
    | split | intro _

theorem State.engineDest_kept (s : State) (p : Nat) (va : Nat) (x : Xlat) (hs : Kept init s) :
    Kept init (State.engineDest s p va x).1 := by
  replace hs : KeptAt init s.mem s.fuseVersion s.xmssIndex := hs
  unfold State.engineDest
  try dsimp only
  repeat' first
    | with_reducible assumption | with_reducible apply State.setWf_kept | with_reducible apply State.placeWrite_kept
    | split | intro _

theorem State.entryPlace_kept (s : State) (p : Nat) (e : ChainEntry) (hs : Kept init s) :
    Kept init (State.entryPlace s p e).1 := by
  replace hs : KeptAt init s.mem s.fuseVersion s.xmssIndex := hs
  unfold State.entryPlace
  try dsimp only
  repeat' first
    | with_reducible assumption | with_reducible apply State.placeWrite_kept | split | intro _

theorem State.countEntry_kept (s : State) (p : Nat) (e : ChainEntry) (pa : Nat) (hs : Kept init s) :
    Kept init (State.countEntry s p e pa) := by
  replace hs : KeptAt init s.mem s.fuseVersion s.xmssIndex := hs
  unfold State.countEntry
  repeat' first
    | with_reducible assumption | with_reducible apply State.countMig_kept | with_reducible apply kept_ite | intro _

theorem State.writeStatus_kept (s : State) (c : Nat) (e : ChainEntry) (v : Nat) (hs : Kept init s) :
    Kept init (State.writeStatus s c e v).1 := by
  replace hs : KeptAt init s.mem s.fuseVersion s.xmssIndex := hs
  unfold State.writeStatus
  try dsimp only
  repeat' first
    | with_reducible assumption | with_reducible apply State.hubStore_kept | with_reducible apply State.entryPlace_kept
    | with_reducible apply State.countEntry_kept | split | intro _

theorem State.endEntry_kept (s : State) (c : Nat) (hs : Kept init s) :
    Kept init (State.endEntry s c) := by
  replace hs : KeptAt init s.mem s.fuseVersion s.xmssIndex := hs
  unfold State.endEntry
  try dsimp only
  repeat' first
    | with_reducible assumption | with_reducible apply State.raiseP_kept | with_reducible apply State.irq_kept
    | with_reducible apply State.setChain_kept | with_reducible apply State.writeStatus_kept | with_reducible apply kept_ite
    | split | intro _

theorem State.haltChain_kept (s : State) (c : Nat) (status : Nat) (hs : Kept init s) :
    Kept init (State.haltChain s c status) := by
  replace hs : KeptAt init s.mem s.fuseVersion s.xmssIndex := hs
  unfold State.haltChain
  try dsimp only
  repeat' first
    | with_reducible assumption | with_reducible apply State.setChain_kept | with_reducible apply State.endEntry_kept
    | with_reducible apply getD_kept

theorem State.dropChain_kept (s : State) (c : Nat) (status : Nat) (hs : Kept init s) :
    Kept init (State.dropChain s c status) := by
  replace hs : KeptAt init s.mem s.fuseVersion s.xmssIndex := hs
  unfold State.dropChain
  try dsimp only
  repeat' first
    | with_reducible assumption | with_reducible apply State.haltChain_kept | with_reducible apply kept_ite | split
    | intro _

theorem State.freezeChain_kept (s : State) (c : Nat) (e : ChainEntry) (w : Word × Nat × Nat) (hs : Kept init s) :
    Kept init (State.freezeChain s c e w) := hs

theorem State.completeEntry_kept (s : State) (c : Nat) (hs : Kept init s) :
    Kept init (State.completeEntry s c) := by
  replace hs : KeptAt init s.mem s.fuseVersion s.xmssIndex := hs
  unfold State.completeEntry
  try dsimp only
  repeat' first
    | with_reducible assumption | with_reducible apply State.setChain_kept | with_reducible apply State.writeStatus_kept
    | with_reducible apply State.haltChain_kept | with_reducible apply State.freezeChain_kept
    | with_reducible apply kept_ite | split | intro _

theorem State.noteWatch_kept (s : State) (c : Nat) (va : Nat) (n : Nat) (hs : Kept init s) :
    Kept init (State.noteWatch s c va n) := by
  replace hs : KeptAt init s.mem s.fuseVersion s.xmssIndex := hs
  unfold State.noteWatch
  repeat' first
    | with_reducible assumption | with_reducible apply State.setChain_kept | with_reducible apply foldl_kept | split
    | intro _

theorem State.noteSplit_kept (s : State) (c : Nat) (n : Nat) (hs : Kept init s) :
    Kept init (State.noteSplit s c n) := by
  replace hs : KeptAt init s.mem s.fuseVersion s.xmssIndex := hs
  unfold State.noteSplit
  repeat' first
    | with_reducible assumption | with_reducible apply State.setChain_kept

theorem State.readParts_kept (s : State) (ps : List (Nat × Nat)) (hs : Kept init s) :
    Kept init (s.readParts ps).1 := by
  induction ps generalizing s with
  | nil => exact hs
  | cons q ps ih =>
    have hv := State.serveLine_kept s q.1 hs
    simp only [State.readParts]
    split
    · exact hv
    · exact ih _ hv

theorem State.sendRecord_kept (s : State) (c : Nat) (q : Nat) (pa : Nat) (va : Nat) (again : Bool) (bs : List Byte) (hs : Kept init s) :
    Kept init (State.sendRecord s c q pa va again bs).1 := by
  replace hs : KeptAt init s.mem s.fuseVersion s.xmssIndex := hs
  unfold State.sendRecord
  try dsimp only
  repeat' first
    | with_reducible assumption | with_reducible apply State.issue_kept | with_reducible apply State.placeRecord_kept
    | with_reducible apply State.store_kept | split | intro _

theorem State.issueLine_kept (s : State) (c : Nat) (pa : Nat) (dva : Nat) (n : Nat) (fill : Option (List Byte)) (parts : List (Nat × Nat)) (hs : Kept init s) :
    KeepsE init (State.issueLine s c pa dva n fill parts) := by
  replace hs : KeptAt init s.mem s.fuseVersion s.xmssIndex := hs
  unfold State.issueLine
  try dsimp only
  repeat' first
    | with_reducible assumption | with_reducible apply State.issueWrite_kept | with_reducible apply State.request_kept
    | with_reducible apply State.runoffPlace_kept | with_reducible apply State.readParts_kept
    | with_reducible apply State.sendRecord_kept | with_reducible apply State.store_kept | with_reducible apply foldl_kept
    | with_reducible apply keepsO_some | with_reducible apply getD_kept | with_reducible apply keepsO_none
    | with_reducible apply keeps_next | with_reducible apply keeps_fault | with_reducible apply keepsE_ok
    | with_reducible apply keepsE_error | with_reducible apply foldl_kept1 | with_reducible apply keepsO_ite
    | with_reducible apply keeps_ite | with_reducible apply kept_ite | dsimp only | split
    | with_reducible apply keepsO_mapO | with_reducible apply keepsO_map
    | with_reducible (refine kept_of_pair ?_ (by assumption)) | with_reducible (refine kept_of_some ?_ (by assumption))
    | with_reducible (refine kept_of_ok ?_ (by assumption)) | with_reducible (refine kept_of_pair2 ?_ (by assumption))
    | intro _

theorem State.countSource_kept (s : State) (p sva n : Nat) (snapshot : Bool) (hs : Kept init s) :
    Kept init (State.countSource s p sva n snapshot) := by
  unfold State.countSource
  refine foldl_kept (fun s k hs => ?_) hs
  split
  · exact State.countMig_kept _ _ _ _ hs
  · exact hs

theorem State.moveLine_kept (s : State) (c : Nat) (x : CopyEntry) (l : Nat × Nat × Nat) (hs : Kept init s) :
    KeepsE init (State.moveLine s c x l) := by
  replace hs : KeptAt init s.mem s.fuseVersion s.xmssIndex := hs
  unfold State.moveLine
  try dsimp only
  repeat' first
    | with_reducible assumption | with_reducible apply State.countMig_kept | with_reducible apply State.countSource_kept | with_reducible apply State.engineDest_kept
    | with_reducible apply State.noteWatch_kept | with_reducible apply State.noteSplit_kept
    | with_reducible apply State.issueLine_kept | with_reducible apply keepsE_ok | with_reducible apply keepsE_error
    | split | with_reducible (refine kept_of_pair ?_ (by assumption)) | intro _

theorem State.moveLines_kept (s : State) (c : Nat) (x : CopyEntry) (ls : List (Nat × Nat × Nat))
    (hs : Kept init s) : Kept init (s.moveLines c x ls).1 := by
  induction ls generalizing s with
  | nil => exact hs
  | cons l ls ih =>
    simp only [State.moveLines]
    split
    · exact hs
    · rename_i s1 e
      exact ih s1 (State.moveLine_kept s c x l hs s1 e)

theorem State.moveEntry_kept (s : State) (c : Nat) (x : CopyEntry) (hs : Kept init s) :
    Kept init (State.moveEntry s c x) := by
  replace hs : KeptAt init s.mem s.fuseVersion s.xmssIndex := hs
  unfold State.moveEntry
  try dsimp only
  repeat' first
    | with_reducible assumption | with_reducible apply State.setChain_kept | with_reducible apply State.haltChain_kept
    | with_reducible apply State.moveLines_kept | with_reducible apply kept_ite | split | intro _

theorem State.copyStart_kept (s : State) (p : Nat) (e : Nat) (hs : Kept init s) :
    Kept init (State.copyStart s p e) := by
  replace hs : KeptAt init s.mem s.fuseVersion s.xmssIndex := hs
  unfold State.copyStart
  try dsimp only
  repeat' first
    | with_reducible assumption | with_reducible apply State.serveLine_kept | with_reducible apply State.countEntry_kept
    | with_reducible apply State.haltChain_kept | with_reducible apply State.moveEntry_kept | with_reducible apply kept_ite
    | split | intro _

theorem State.copyDone_kept (s : State) (p : Nat) (e : Nat) (hs : Kept init s) :
    Kept init (State.copyDone s p e) := by
  replace hs : KeptAt init s.mem s.fuseVersion s.xmssIndex := hs
  unfold State.copyDone
  try dsimp only
  repeat' first
    | with_reducible assumption | with_reducible apply State.endEntry_kept | with_reducible apply State.completeEntry_kept
    | with_reducible apply kept_ite | intro _

theorem State.resend_kept (s : State) (id : Nat) (hs : Kept init s) :
    Kept init (State.resend s id) := by
  replace hs : KeptAt init s.mem s.fuseVersion s.xmssIndex := hs
  unfold State.resend
  try dsimp only
  repeat' first
    | with_reducible assumption | with_reducible apply State.flushLines_kept | with_reducible apply State.request_kept
    | with_reducible apply State.dropChain_kept | with_reducible apply State.sendRecord_kept | with_reducible apply kept_ite
    | split | intro _

theorem State.stepOn_kept (s : State) (t : Nat) (hs : Kept init s) :
    Kept init (State.stepOn s t) := hs

theorem State.retryNext_kept (s : State) (t : Nat) (hs : Kept init s) :
    Kept init (State.retryNext s t) := by
  replace hs : KeptAt init s.mem s.fuseVersion s.xmssIndex := hs
  unfold State.retryNext
  repeat' first
    | with_reducible assumption | with_reducible apply State.setThread_kept

theorem State.waitFor_kept (s : State) (t : Nat) (w : Wait) (hs : Kept init s) :
    Kept init (State.waitFor s t w) := hs

theorem State.stepWith_kept (s : State) (t : Nat) (d : Nat) (v : Word) (hs : Kept init s) :
    Kept init (State.stepWith s t d v) := hs

theorem State.freezeAccess_kept (s : State) (t : Nat) (cause : Nat) (ea : Word) (size : Nat) (hs : Kept init s) :
    Kept init (State.freezeAccess s t cause ea size) := by
  replace hs : KeptAt init s.mem s.fuseVersion s.xmssIndex := hs
  unfold State.freezeAccess
  try dsimp only
  repeat' first
    | with_reducible assumption | with_reducible apply State.freezeThreadT_kept | with_reducible apply kept_ite | split
    | intro _

theorem State.withAccess_kept (s : State) (t : Nat) (T : Thread) (ea : Word) (size : Nat) (k : AccKind) (f : Xlat → State) (hs : Kept init s) (hf : ∀ v0, Kept init (f v0)) :
    Kept init (State.withAccess s t T ea size k f) := by
  replace hs : KeptAt init s.mem s.fuseVersion s.xmssIndex := hs
  unfold State.withAccess
  repeat' first
    | with_reducible assumption | with_reducible apply hf | with_reducible apply State.freezeAccess_kept | split

theorem State.freezeDenied_kept (s : State) (t : Nat) (d : Nat × Word) (hs : Kept init s) :
    Kept init (State.freezeDenied s t d) := by
  replace hs : KeptAt init s.mem s.fuseVersion s.xmssIndex := hs
  unfold State.freezeDenied
  try dsimp only
  repeat' first
    | with_reducible assumption | with_reducible apply State.setThread_kept
    | with_reducible apply State.freezeThreadT_kept

theorem State.afterRelease_kept (s : State) (t : Nat) (scope : Nat) (k : State → State) (hs : Kept init s) (hk : ∀ v0, Kept init v0 → Kept init (k v0)) :
    Kept init (State.afterRelease s t scope k) := by
  replace hs : KeptAt init s.mem s.fuseVersion s.xmssIndex := hs
  unfold State.afterRelease
  repeat' first
    | with_reducible assumption | with_reducible apply hk | with_reducible apply State.retryNext_kept
    | with_reducible apply State.freezeDenied_kept | with_reducible apply kept_ite | split | intro _

theorem State.sendLoad_kept (s : State) (t : Nat) (m : MemArgs) (signed : Bool) (ea : Word) (pa : Nat) (hs : Kept init s) :
    Kept init (State.sendLoad s t m signed ea pa) := by
  replace hs : KeptAt init s.mem s.fuseVersion s.xmssIndex := hs
  unfold State.sendLoad
  try dsimp only
  repeat' first
    | with_reducible assumption | with_reducible apply State.setThread_kept

theorem State.load_kept (s : State) (t : Nat) (T : Thread) (m : MemArgs) (signed : Bool) (hs : Kept init s) :
    Kept init (State.load s t T m signed) := by
  replace hs : KeptAt init s.mem s.fuseVersion s.xmssIndex := hs
  unfold State.load
  try dsimp only
  repeat' first
    | with_reducible assumption | with_reducible apply State.countMig_kept | with_reducible apply State.withAccess_kept
    | with_reducible apply State.sendLoad_kept | with_reducible apply kept_ite | intro _

theorem State.drainLoads_kept (s : State) (t n : Nat) (hs : Kept init s) :
    Kept init (s.drainLoads t n) := by
  induction n generalizing s with
  | zero => exact hs
  | succ n ih =>
    simp only [State.drainLoads]
    repeat' first
      | with_reducible assumption | with_reducible apply ih | with_reducible apply State.setThread_kept
      | with_reducible apply State.freezeThreadT_kept | split

theorem State.reply_kept (s : State) (t : Nat) (id : Nat) (r : Reply) (hs : Kept init s) :
    Kept init (State.reply s t id r) := by
  replace hs : KeptAt init s.mem s.fuseVersion s.xmssIndex := hs
  unfold State.reply
  try dsimp only
  repeat' first
    | with_reducible assumption | with_reducible apply State.setThread_kept | with_reducible apply kept_ite | intro _

theorem State.serveLoad_kept (s : State) (t : Nat) (l : PLoad) (hs : Kept init s) :
    Kept init (State.serveLoad s t l) := by
  replace hs : KeptAt init s.mem s.fuseVersion s.xmssIndex := hs
  unfold State.serveLoad
  try dsimp only
  repeat' first
    | with_reducible assumption | with_reducible apply State.choose_kept | with_reducible apply State.reply_kept
    | with_reducible apply State.serveLine_kept | with_reducible apply kept_ite | split
    | with_reducible (refine kept_of_pair ?_ (by assumption)) | intro _

theorem State.clearLoad_kept (s : State) (t : Nat) (id : Nat) (hs : Kept init s) :
    Kept init (State.clearLoad s t id) := by
  replace hs : KeptAt init s.mem s.fuseVersion s.xmssIndex := hs
  unfold State.clearLoad
  try dsimp only
  repeat' first
    | with_reducible assumption | with_reducible apply State.setThread_kept | with_reducible apply State.serveLine_kept
    | with_reducible apply kept_ite | split | intro _

theorem State.memoryReply_kept (s : State) (t : Nat) (id : Nat) (ext : BitVec 128) (hs : Kept init s) :
    Kept init (State.memoryReply s t id ext) := by
  replace hs : KeptAt init s.mem s.fuseVersion s.xmssIndex := hs
  unfold State.memoryReply
  try dsimp only
  repeat' first
    | with_reducible assumption | with_reducible apply State.drainLoads_kept | with_reducible apply State.reply_kept
    | with_reducible apply State.serveLoad_kept | with_reducible apply kept_ite | split | intro _

theorem State.holdAccess_kept (s : State) (w : PWrite) (hs : Kept init s) :
    Kept init (State.holdAccess s w) := by
  replace hs : KeptAt init s.mem s.fuseVersion s.xmssIndex := hs
  unfold State.holdAccess
  repeat' first
    | with_reducible assumption

theorem State.storeAt_kept (s : State) (t : Nat) (T : Thread) (m : MemArgs) (ea : Word) (x : Xlat) (hs : Kept init s) :
    Kept init (State.storeAt s t T m ea x) := by
  replace hs : KeptAt init s.mem s.fuseVersion s.xmssIndex := hs
  unfold State.storeAt
  try dsimp only
  repeat' first
    | with_reducible assumption | with_reducible apply State.placeWrite_kept | with_reducible apply State.countMig_kept
    | with_reducible apply State.regStore_kept | with_reducible apply State.issueWrite_kept
    | with_reducible apply State.stepOn_kept | with_reducible apply State.retryNext_kept
    | with_reducible apply State.freezeAccess_kept | with_reducible apply State.store_kept | with_reducible apply foldl_kept
    | with_reducible apply keepsO_some | with_reducible apply getD_kept | with_reducible apply keepsO_none
    | with_reducible apply keeps_next | with_reducible apply keeps_fault | with_reducible apply keepsE_ok
    | with_reducible apply keepsE_error | with_reducible apply foldl_kept1 | with_reducible apply keepsO_ite
    | with_reducible apply keeps_ite | with_reducible apply kept_ite | dsimp only | split
    | with_reducible apply keepsO_mapO | with_reducible apply keepsO_map
    | with_reducible (refine kept_of_pair ?_ (by assumption)) | with_reducible (refine kept_of_some ?_ (by assumption))
    | with_reducible (refine kept_of_ok ?_ (by assumption)) | with_reducible (refine kept_of_pair2 ?_ (by assumption))
    | intro _

theorem State.store_kept (s : State) (t : Nat) (T : Thread) (m : MemArgs) (hs : Kept init s) :
    Kept init (State.store s t T m) := by
  replace hs : KeptAt init s.mem s.fuseVersion s.xmssIndex := hs
  unfold State.store
  try dsimp only
  repeat' first
    | with_reducible assumption | with_reducible apply State.stepOn_kept | with_reducible apply State.withAccess_kept
    | with_reducible apply State.afterRelease_kept | with_reducible apply State.holdAccess_kept
    | with_reducible apply State.storeAt_kept | with_reducible apply kept_ite | intro _

theorem State.atomicAt_kept (s : State) (t : Nat) (T : Thread) (m : MemArgs) (ea : Word) (x : Xlat) (data : List Byte) (kind : Nat → WKind) (acq : Bool) (hs : Kept init s) :
    Kept init (State.atomicAt s t T m ea x data kind acq) := by
  replace hs : KeptAt init s.mem s.fuseVersion s.xmssIndex := hs
  unfold State.atomicAt
  try dsimp only
  repeat' first
    | with_reducible assumption | with_reducible apply State.setThread_kept | with_reducible apply State.placeWrite_kept
    | with_reducible apply State.countMig_kept | with_reducible apply State.issueWrite_kept
    | with_reducible apply State.retryNext_kept | with_reducible apply kept_ite | split
    | with_reducible (refine kept_of_pair ?_ (by assumption)) | intro _

theorem State.amo_kept (s : State) (t : Nat) (T : Thread) (m : MemArgs) (hs : Kept init s) :
    Kept init (State.amo s t T m) := by
  replace hs : KeptAt init s.mem s.fuseVersion s.xmssIndex := hs
  unfold State.amo
  try dsimp only
  repeat' first
    | with_reducible assumption | with_reducible apply State.withAccess_kept
    | with_reducible apply State.afterRelease_kept | with_reducible apply State.atomicAt_kept
    | with_reducible apply foldl_kept | with_reducible apply keepsO_some | with_reducible apply getD_kept
    | with_reducible apply keepsO_none | with_reducible apply keeps_next | with_reducible apply keeps_fault
    | with_reducible apply keepsE_ok | with_reducible apply keepsE_error | with_reducible apply foldl_kept1
    | with_reducible apply keepsO_ite | with_reducible apply keeps_ite | with_reducible apply kept_ite | dsimp only
    | split | with_reducible apply keepsO_mapO | with_reducible apply keepsO_map
    | with_reducible (refine kept_of_pair ?_ (by assumption)) | with_reducible (refine kept_of_some ?_ (by assumption))
    | with_reducible (refine kept_of_ok ?_ (by assumption)) | with_reducible (refine kept_of_pair2 ?_ (by assumption))
    | intro _

theorem State.cas_kept (s : State) (t : Nat) (T : Thread) (m : MemArgs) (hs : Kept init s) :
    Kept init (State.cas s t T m) := by
  replace hs : KeptAt init s.mem s.fuseVersion s.xmssIndex := hs
  unfold State.cas
  try dsimp only
  repeat' first
    | with_reducible assumption | with_reducible apply State.withAccess_kept
    | with_reducible apply State.afterRelease_kept | with_reducible apply State.atomicAt_kept
    | with_reducible apply foldl_kept | with_reducible apply keepsO_some | with_reducible apply getD_kept
    | with_reducible apply keepsO_none | with_reducible apply keeps_next | with_reducible apply keeps_fault
    | with_reducible apply keepsE_ok | with_reducible apply keepsE_error | with_reducible apply foldl_kept1
    | with_reducible apply keepsO_ite | with_reducible apply keeps_ite | with_reducible apply kept_ite | dsimp only
    | split | with_reducible apply keepsO_mapO | with_reducible apply keepsO_map
    | with_reducible (refine kept_of_pair ?_ (by assumption)) | with_reducible (refine kept_of_some ?_ (by assumption))
    | with_reducible (refine kept_of_ok ?_ (by assumption)) | with_reducible (refine kept_of_pair2 ?_ (by assumption))
    | intro _

theorem State.answerAtomic_kept (s : State) (w : PWrite) (old : Nat) (hs : Kept init s) :
    Kept init (State.answerAtomic s w old) := by
  replace hs : KeptAt init s.mem s.fuseVersion s.xmssIndex := hs
  unfold State.answerAtomic
  try dsimp only
  repeat' first
    | with_reducible assumption | with_reducible apply State.setThread_kept | with_reducible apply State.amo_kept
    | with_reducible apply State.cas_kept | with_reducible apply kept_ite | split | intro _

theorem State.failAtomic_kept (s : State) (w : PWrite) (cause : Nat) (hs : Kept init s) :
    Kept init (State.failAtomic s w cause) := by
  replace hs : KeptAt init s.mem s.fuseVersion s.xmssIndex := hs
  unfold State.failAtomic
  repeat' first
    | with_reducible assumption | with_reducible apply State.reply_kept | with_reducible apply State.amo_kept
    | with_reducible apply State.cas_kept | split

theorem State.dropWrite_kept (s : State) (id : Nat) (hs : Kept init s) :
    Kept init (State.dropWrite s id) := hs

theorem State.markWrite_kept (s : State) (id : Nat) (deny : Nat) (hs : Kept init s) :
    Kept init (State.markWrite s id deny) := by
  replace hs : KeptAt init s.mem s.fuseVersion s.xmssIndex := hs
  unfold State.markWrite
  repeat' first
    | with_reducible assumption | with_reducible apply kept_ite | intro _

theorem State.noteCompletion_kept (s : State) (w : PWrite) (hs : Kept init s) :
    Kept init (State.noteCompletion s w) := by
  replace hs : KeptAt init s.mem s.fuseVersion s.xmssIndex := hs
  unfold State.noteCompletion
  repeat' first
    | with_reducible assumption | with_reducible apply State.taskCompleted_kept | with_reducible apply kept_ite | split
    | intro _

theorem State.noteAtomic_kept (s : State) (id : Nat) (bs : List Byte) (hs : Kept init s) :
    Kept init (State.noteAtomic s id bs) := by
  replace hs : KeptAt init s.mem s.fuseVersion s.xmssIndex := hs
  unfold State.noteAtomic
  repeat' first
    | with_reducible assumption | with_reducible apply kept_ite | intro _

theorem State.performAtomic_kept (s : State) (w : PWrite) (hs : Kept init s) :
    Kept init (State.performAtomic s w) := by
  replace hs : KeptAt init s.mem s.fuseVersion s.xmssIndex := hs
  unfold State.performAtomic
  try dsimp only
  repeat' first
    | with_reducible assumption | with_reducible apply State.storeBytes_kept | with_reducible apply State.serveLine_kept
    | with_reducible apply State.amo_kept | with_reducible apply State.cas_kept
    | with_reducible apply State.answerAtomic_kept | with_reducible apply State.failAtomic_kept
    | with_reducible apply State.dropWrite_kept | with_reducible apply State.markWrite_kept
    | with_reducible apply State.noteAtomic_kept | with_reducible apply kept_ite | split | intro _

theorem State.perform_kept (s : State) (w : PWrite) (hs : Kept init s) :
    Kept init (State.perform s w) := by
  replace hs : KeptAt init s.mem s.fuseVersion s.xmssIndex := hs
  unfold State.perform
  try dsimp only
  repeat' first
    | with_reducible assumption | with_reducible apply State.storeBytes_kept | with_reducible apply State.serveLine_kept
    | with_reducible apply State.voteLine_kept | with_reducible apply State.signal_kept
    | with_reducible apply State.dropChain_kept | with_reducible apply State.store_kept
    | with_reducible apply State.amo_kept | with_reducible apply State.cas_kept | with_reducible apply State.dropWrite_kept
    | with_reducible apply State.markWrite_kept | with_reducible apply State.noteCompletion_kept
    | with_reducible apply State.performAtomic_kept | with_reducible apply State.tlsig_kept | with_reducible apply kept_ite
    | split | intro _

theorem State.homePerform_kept (s : State) (id : Nat) (hs : Kept init s) :
    Kept init (State.homePerform s id) := by
  replace hs : KeptAt init s.mem s.fuseVersion s.xmssIndex := hs
  unfold State.homePerform
  repeat' first
    | with_reducible assumption | with_reducible apply State.perform_kept | with_reducible apply kept_ite | split
    | intro _

theorem State.hearDenial_kept (s : State) (w : PWrite) (cause : Nat) (hs : Kept init s) :
    Kept init (State.hearDenial s w cause) := by
  replace hs : KeptAt init s.mem s.fuseVersion s.xmssIndex := hs
  unfold State.hearDenial
  repeat' first
    | with_reducible assumption | with_reducible apply State.denyThread_kept | with_reducible apply State.hostAbort_kept
    | with_reducible apply State.arcDenied_kept | with_reducible apply State.arcGone_kept
    | with_reducible apply State.dropChain_kept | with_reducible apply State.drainLoads_kept
    | with_reducible apply State.amo_kept | with_reducible apply State.cas_kept | with_reducible apply State.failAtomic_kept
    | with_reducible apply kept_ite | split | intro _

theorem State.acknowledge_kept (s : State) (w : PWrite) (denied : Bool) (ext : BitVec 128) (hs : Kept init s) :
    Kept init (State.acknowledge s w denied ext) := by
  replace hs : KeptAt init s.mem s.fuseVersion s.xmssIndex := hs
  unfold State.acknowledge
  try dsimp only
  repeat' first
    | with_reducible assumption | with_reducible apply State.answerAtomic_kept | with_reducible apply State.dropWrite_kept
    | with_reducible apply State.noteCompletion_kept | with_reducible apply State.hearDenial_kept
    | with_reducible apply kept_ite | intro _

theorem State.writeAck_kept (s : State) (id : Nat) (denied : Bool) (ext : BitVec 128) (hs : Kept init s) :
    Kept init (State.writeAck s id denied ext) := by
  replace hs : KeptAt init s.mem s.fuseVersion s.xmssIndex := hs
  unfold State.writeAck
  try dsimp only
  repeat' first
    | with_reducible assumption | with_reducible apply State.settleRoute_kept
    | with_reducible apply State.acknowledge_kept | with_reducible apply kept_ite | split | intro _

theorem State.issueSignal_kept (s : State) (w : PWrite) (hs : Kept init s) :
    Kept init (State.issueSignal s w) := by
  replace hs : KeptAt init s.mem s.fuseVersion s.xmssIndex := hs
  unfold State.issueSignal
  repeat' first
    | with_reducible assumption | with_reducible apply State.issue_kept | with_reducible apply State.issueWrite_kept
    | with_reducible apply kept_ite | split | intro _

theorem State.sendAgain_kept (s : State) (id : Nat) (hs : Kept init s) :
    Kept init (State.sendAgain s id) := by
  replace hs : KeptAt init s.mem s.fuseVersion s.xmssIndex := hs
  unfold State.sendAgain
  try dsimp only
  repeat' first
    | with_reducible assumption | with_reducible apply State.flushLines_kept | with_reducible apply State.resend_kept
    | with_reducible apply State.tlsig_kept | with_reducible apply kept_ite | split | intro _

theorem State.fenceComplete_kept (s : State) (t : Nat) (hs : Kept init s) :
    Kept init (State.fenceComplete s t) := by
  replace hs : KeptAt init s.mem s.fuseVersion s.xmssIndex := hs
  unfold State.fenceComplete
  try dsimp only
  repeat' first
    | with_reducible assumption | with_reducible apply State.setThread_kept | with_reducible apply State.acquireNow_kept
    | with_reducible apply State.freezeDenied_kept | with_reducible apply kept_ite | split | intro _

theorem State.writeNext_kept (s : State) (p : Nat) (e : ChainEntry) (v : Nat) (hs : Kept init s) :
    Kept init (State.writeNext s p e v) := by
  replace hs : KeptAt init s.mem s.fuseVersion s.xmssIndex := hs
  unfold State.writeNext
  try dsimp only
  repeat' first
    | with_reducible assumption | with_reducible apply State.hubStore_kept | with_reducible apply State.issueWrite_kept
    | with_reducible apply State.entryPlace_kept | with_reducible apply State.countEntry_kept
    | with_reducible apply State.store_kept | split

theorem State.linkEntry_kept (s : State) (c : Nat) (t : Nat) (ea : Word) (hs : Kept init s) :
    Kept init (State.linkEntry s c t ea) := by
  replace hs : KeptAt init s.mem s.fuseVersion s.xmssIndex := hs
  unfold State.linkEntry
  try dsimp only
  repeat' first
    | with_reducible assumption | with_reducible apply State.setChain_kept | with_reducible apply State.writeNext_kept
    | split

theorem State.enq_kept (s : State) (t : Nat) (T : Thread) (m : MemArgs) (hs : Kept init s) :
    Kept init (State.enq s t T m) := by
  replace hs : KeptAt init s.mem s.fuseVersion s.xmssIndex := hs
  unfold State.enq
  try dsimp only
  repeat' first
    | with_reducible assumption | with_reducible apply State.freezeThread_kept | with_reducible apply State.retryNext_kept
    | with_reducible apply State.stepWith_kept | with_reducible apply State.withAccess_kept
    | with_reducible apply State.afterRelease_kept | with_reducible apply State.linkEntry_kept
    | with_reducible apply foldl_kept | with_reducible apply keepsO_some | with_reducible apply getD_kept
    | with_reducible apply keepsO_none | with_reducible apply keeps_next | with_reducible apply keeps_fault
    | with_reducible apply keepsE_ok | with_reducible apply keepsE_error | with_reducible apply foldl_kept1
    | with_reducible apply keepsO_ite | with_reducible apply keeps_ite | with_reducible apply kept_ite | dsimp only
    | split | with_reducible apply keepsO_mapO | with_reducible apply keepsO_map
    | with_reducible (refine kept_of_pair ?_ (by assumption)) | with_reducible (refine kept_of_some ?_ (by assumption))
    | with_reducible (refine kept_of_ok ?_ (by assumption)) | with_reducible (refine kept_of_pair2 ?_ (by assumption))
    | intro _

theorem State.seqw_kept (s : State) (t : Nat) (T : Thread) (m : MemArgs) (hs : Kept init s) :
    Kept init (State.seqw s t T m) := by
  replace hs : KeptAt init s.mem s.fuseVersion s.xmssIndex := hs
  unfold State.seqw
  try dsimp only
  repeat' first
    | with_reducible assumption | with_reducible apply State.freezeThread_kept | with_reducible apply State.waitFor_kept
    | with_reducible apply State.release_kept | with_reducible apply State.acquireNow_kept | with_reducible apply kept_ite
    | split | intro _

theorem State.seqwRelease_kept (s : State) (t : Nat) (hs : Kept init s) :
    Kept init (State.seqwRelease s t) := by
  replace hs : KeptAt init s.mem s.fuseVersion s.xmssIndex := hs
  unfold State.seqwRelease
  try dsimp only
  repeat' first
    | with_reducible assumption | with_reducible apply State.release_kept | with_reducible apply State.acquireNow_kept
    | with_reducible apply State.seqw_kept | with_reducible apply kept_ite | split | intro _

theorem State.seqwTimeout_kept (s : State) (t : Nat) (hs : Kept init s) :
    Kept init (State.seqwTimeout s t) := by
  replace hs : KeptAt init s.mem s.fuseVersion s.xmssIndex := hs
  unfold State.seqwTimeout
  try dsimp only
  repeat' first
    | with_reducible assumption | with_reducible apply State.release_kept | with_reducible apply State.seqw_kept
    | with_reducible apply kept_ite | split | intro _

theorem State.loadTimeline_kept (s : State) (p : Nat) (t : TimelineDecl) (hs : Kept init s) :
    Kept init (State.loadTimeline s p t) := by
  replace hs : KeptAt init s.mem s.fuseVersion s.xmssIndex := hs
  unfold State.loadTimeline
  try dsimp only
  repeat' first
    | with_reducible assumption | with_reducible apply State.setWf_kept | with_reducible apply State.setChan_kept
    | with_reducible apply kept_ite | intro _

theorem State.loadTimelines_kept (s : State) (p : Nat) (hs : Kept init s) :
    Kept init (State.loadTimelines s p) := by
  replace hs : KeptAt init s.mem s.fuseVersion s.xmssIndex := hs
  unfold State.loadTimelines
  repeat' first
    | with_reducible assumption | with_reducible apply State.loadTimeline_kept | with_reducible apply foldl_kept | intro _

theorem State.chooseTimeline_kept (s : State) (c : Nat) (hs : Kept init s) :
    Kept init (State.chooseTimeline s c) := by
  replace hs : KeptAt init s.mem s.fuseVersion s.xmssIndex := hs
  unfold State.chooseTimeline
  try dsimp only
  repeat' first
    | with_reducible assumption | with_reducible apply State.setWf_kept | with_reducible apply State.setChan_kept
    | with_reducible apply kept_ite | intro _

theorem State.timelineRef_kept (s : State) (c : Nat) (hs : Kept init s) :
    Kept init (State.timelineRef s c) := by
  replace hs : KeptAt init s.mem s.fuseVersion s.xmssIndex := hs
  unfold State.timelineRef
  try dsimp only
  repeat' first
    | with_reducible assumption | with_reducible apply State.setChan_kept | with_reducible apply kept_ite | split
    | intro _

theorem State.lockFrame_kept (s : State) (p : Nat) (hs : Kept init s) :
    Kept init (State.lockFrame s p) := hs

theorem State.recordBytes_kept (s : State) (p : Nat) (us : List Nat) (va : Nat) (hs : Kept init s) :
    Kept init (State.recordBytes s p us va).1 := by
  replace hs : KeptAt init s.mem s.fuseVersion s.xmssIndex := hs
  unfold State.recordBytes
  try dsimp only
  repeat' first
    | with_reducible assumption | with_reducible apply State.serveLine_kept | with_reducible apply foldl_kept
    | with_reducible apply foldl_kept1 | split | intro _

theorem State.useRecord_kept (s : State) (p : Nat) (n : Nat) (va : Nat) (drain : Bool) (hs : Kept init s) :
    Kept init (State.useRecord s p n va drain).1 := by
  replace hs : KeptAt init s.mem s.fuseVersion s.xmssIndex := hs
  unfold State.useRecord
  try dsimp only
  repeat' first
    | with_reducible assumption | with_reducible apply State.setTwe_kept | with_reducible apply State.recordBytes_kept
    | split | with_reducible apply keepsO_mapO | with_reducible apply keepsO_map

theorem State.countViol_kept (s : State) (c : Nat) (hs : Kept init s) :
    Kept init (State.countViol s c) := hs

theorem State.takePermit_kept (s : State) (n : Nat) (dest : Option Nat) (pond : Nat) (drain : Bool) (home : Nat) (hs : Kept init s) :
    Kept init (State.takePermit s n dest pond drain home).1 := by
  replace hs : KeptAt init s.mem s.fuseVersion s.xmssIndex := hs
  unfold State.takePermit
  try dsimp only
  repeat' first
    | with_reducible assumption | with_reducible apply State.bumpW_kept | with_reducible apply State.setPermits_kept
    | split | intro _

theorem State.deliverTile_kept (s : State) (r : Nat) (n : Nat) (u : Nat) (x : Shape) (image : List Line) (hs : Kept init s) :
    Kept init (State.deliverTile s r n u x image) := by
  replace hs : KeptAt init s.mem s.fuseVersion s.xmssIndex := hs
  unfold State.deliverTile
  try dsimp only
  repeat' first
    | with_reducible assumption | with_reducible apply State.setRegion_kept | with_reducible apply State.takePermit_kept
    | with_reducible apply step_kept | with_reducible apply foldl_kept | with_reducible apply keepsO_some
    | with_reducible apply getD_kept | with_reducible apply keepsO_none | with_reducible apply keeps_next
    | with_reducible apply keeps_fault | with_reducible apply keepsE_ok | with_reducible apply keepsE_error
    | with_reducible apply foldl_kept1 | with_reducible apply keepsO_ite | with_reducible apply keeps_ite
    | with_reducible apply kept_ite | dsimp only | split | with_reducible apply keepsO_mapO
    | with_reducible apply keepsO_map | with_reducible (refine kept_of_pair ?_ (by assumption))
    | with_reducible (refine kept_of_some ?_ (by assumption)) | with_reducible (refine kept_of_ok ?_ (by assumption))
    | with_reducible (refine kept_of_pair2 ?_ (by assumption)) | intro _

theorem State.jobLine_kept (s : State) (r : Nat) (j : TweJob) (d : Nat × Nat × Nat) (hs : Kept init s) :
    Kept init (State.jobLine s r j d) := by
  replace hs : KeptAt init s.mem s.fuseVersion s.xmssIndex := hs
  unfold State.jobLine
  try dsimp only
  repeat' first
    | with_reducible assumption | with_reducible apply State.setTile_kept | with_reducible apply State.setRegion_kept
    | with_reducible apply getD_kept | with_reducible apply kept_ite | intro _

theorem State.jobsStep_kept (s : State) (r : Nat) (hs : Kept init s) :
    Kept init (State.jobsStep s r) := by
  replace hs : KeptAt init s.mem s.fuseVersion s.xmssIndex := hs
  unfold State.jobsStep
  try dsimp only
  repeat' first
    | with_reducible assumption | with_reducible apply State.setRegion_kept | with_reducible apply State.jobLine_kept
    | with_reducible apply foldl_kept | with_reducible apply kept_ite | split | intro _

theorem State.setAsm_kept (s : State) (u : Nat) (a : AsmTile) (hs : Kept init s) :
    Kept init (State.setAsm s u a) := hs

theorem State.dropAsm_kept (s : State) (u : Nat) (shape : Nat) (hs : Kept init s) :
    Kept init (State.dropAsm s u shape) := hs

theorem State.fillCache_kept (s : State) (p : Nat) (u : Nat) (slot : Nat) (x : Shape) (image : List Line) (hs : Kept init s) :
    Kept init (State.fillCache s p u slot x image) := by
  replace hs : KeptAt init s.mem s.fuseVersion s.xmssIndex := hs
  unfold State.fillCache
  try dsimp only
  repeat' first
    | with_reducible assumption | with_reducible apply State.setTwe_kept | with_reducible apply foldl_kept | intro _

theorem State.finishTile_kept (s : State) (p : Nat) (r : Nat) (t : Nat) (u : Nat) (x : Shape) (e : BitVec 128) (hs : Kept init s) :
    Kept init (State.finishTile s p r t u x e) := by
  replace hs : KeptAt init s.mem s.fuseVersion s.xmssIndex := hs
  unfold State.finishTile
  try dsimp only
  repeat' first
    | with_reducible assumption | with_reducible apply State.deliverTile_kept | with_reducible apply State.setAsm_kept
    | with_reducible apply State.dropAsm_kept | with_reducible apply State.fillCache_kept | with_reducible apply kept_ite
    | intro _

theorem State.putPiece_kept (s : State) (p : Nat) (r : Nat) (t : Nat) (u : Nat) (x : Shape) (e : BitVec 128) (l : Line) (hs : Kept init s) :
    Kept init (State.putPiece s p r t u x e l) := by
  replace hs : KeptAt init s.mem s.fuseVersion s.xmssIndex := hs
  unfold State.putPiece
  try dsimp only
  repeat' first
    | with_reducible assumption | with_reducible apply State.setAsm_kept | with_reducible apply State.finishTile_kept
    | with_reducible apply kept_ite | split | intro _

theorem State.clearMiss_kept (s : State) (c : Nat) (hs : Kept init s) :
    Kept init (State.clearMiss s c) := by
  replace hs : KeptAt init s.mem s.fuseVersion s.xmssIndex := hs
  unfold State.clearMiss
  repeat' first
    | with_reducible assumption | with_reducible apply State.setChan_kept

theorem State.voteAll_kept (s : State) (y0 : List Nat) (hs : Kept init s) :
    Kept init (State.voteAll s y0).1 := by
  induction y0 generalizing s with
  | nil => exact hs
  | cons q qs ih =>
    have hv := State.voteLine_kept s q hs
    simp only [State.voteAll]
    split
    · exact ih _ hv
    · exact hv

theorem State.tweSplit_kept (s : State) (u : Nat) (ps : List (Nat × Nat)) (hs : Kept init s) :
    Kept init (State.tweSplit s u ps) := by
  replace hs : KeptAt init s.mem s.fuseVersion s.xmssIndex := hs
  unfold State.tweSplit
  repeat' first
    | with_reducible assumption | with_reducible apply State.bumpW_kept | with_reducible apply kept_ite | intro _

theorem State.timelineRead_kept (s0 : State) (c : Nat) (bank : Nat) (col : Nat) (step : Nat) (hs0 : Kept init s0) :
    Kept init (State.timelineRead s0 c bank col step) := by
  replace hs0 : KeptAt init s0.mem s0.fuseVersion s0.xmssIndex := hs0
  unfold State.timelineRead
  try dsimp only
  repeat' first
    | with_reducible assumption | with_reducible apply State.bumpW_kept | with_reducible apply State.setChan_kept
    | with_reducible apply State.useRecord_kept | with_reducible apply State.countViol_kept
    | with_reducible apply State.finishTile_kept | with_reducible apply State.putPiece_kept
    | with_reducible apply State.clearMiss_kept | with_reducible apply State.voteAll_kept
    | with_reducible apply State.tweSplit_kept | with_reducible apply step_kept | with_reducible apply kept_ite | split
    | intro _

theorem State.timelineCache_kept (s : State) (c : Nat) (step : Nat) (hs : Kept init s) :
    Kept init (State.timelineCache s c step) := by
  replace hs : KeptAt init s.mem s.fuseVersion s.xmssIndex := hs
  unfold State.timelineCache
  try dsimp only
  repeat' first
    | with_reducible assumption | with_reducible apply State.bumpW_kept | with_reducible apply State.useRecord_kept
    | with_reducible apply State.deliverTile_kept | with_reducible apply step_kept | with_reducible apply getD_kept
    | with_reducible apply kept_ite | split | intro _

theorem State.startDrain_kept (s : State) (p : Nat) (r : Nat) (u : Nat) (n : Nat) (x : Shape) (shape : Nat) (hs : Kept init s) :
    Kept init (State.startDrain s p r u n x shape).1 := by
  replace hs : KeptAt init s.mem s.fuseVersion s.xmssIndex := hs
  unfold State.startDrain
  try dsimp only
  repeat' first
    | with_reducible assumption | with_reducible apply State.setTile_kept | with_reducible apply State.bumpW_kept
    | with_reducible apply State.takePermit_kept | with_reducible apply foldl_kept | with_reducible apply foldl_kept1
    | split | intro _

theorem State.hbmSink_kept (s : State) (p : Nat) (r : Nat) (t : Nat) (org : Word) (hs : Kept init s) :
    Kept init (State.hbmSink s p r t org) := hs

theorem State.putParts_kept (s : State) (u : Nat) (r : Nat) (y0 : List (Nat × Nat × Nat)) (y1 : List Byte)
    (hs : Kept init s) : Kept init (State.putParts s u r y0 y1) := by
  induction y0 generalizing s y1 with
  | nil => exact hs
  | cons q qs ih => exact ih _ _ (State.setRegion_kept _ _ _ (State.storeBytes_kept _ _ _ _ hs))

theorem State.drainPiece_kept (s : State) (c : Nat) (p : Nat) (r : Nat) (t : Nat) (u : Nat) (x : Shape) (e : BitVec 128) (l : Line) (hs : Kept init s) :
    Kept init (State.drainPiece s c p r t u x e l) := by
  replace hs : KeptAt init s.mem s.fuseVersion s.xmssIndex := hs
  unfold State.drainPiece
  try dsimp only
  repeat' first
    | with_reducible assumption | with_reducible apply State.countViol_kept | with_reducible apply State.voteAll_kept
    | with_reducible apply State.tweSplit_kept | with_reducible apply State.hbmSink_kept
    | with_reducible apply State.putParts_kept | with_reducible apply kept_ite | split | intro _

theorem State.timelineWrite_kept (s : State) (c : Nat) (e : BitVec 128) (hs : Kept init s) :
    Kept init (State.timelineWrite s c e) := by
  replace hs : KeptAt init s.mem s.fuseVersion s.xmssIndex := hs
  unfold State.timelineWrite
  try dsimp only
  repeat' first
    | with_reducible assumption | with_reducible apply State.setRegion_kept | with_reducible apply State.useRecord_kept
    | with_reducible apply State.startDrain_kept | with_reducible apply State.drainPiece_kept
    | with_reducible apply getD_kept | with_reducible apply kept_ite | split | intro _

theorem State.heldWrites_kept (s : State) (r : Nat) (hs : Kept init s) :
    Kept init (State.heldWrites s r) := by
  replace hs : KeptAt init s.mem s.fuseVersion s.xmssIndex := hs
  unfold State.heldWrites
  try dsimp only
  repeat' first
    | with_reducible assumption | with_reducible apply State.setRegion_kept
    | with_reducible apply State.timelineWrite_kept | with_reducible apply foldl_kept | with_reducible apply kept_ite
    | split | intro _

theorem State.timelineAct_kept (s : State) (c : Nat) (bank : Nat) (row : Nat) (hs : Kept init s) :
    Kept init (State.timelineAct s c bank row) := by
  replace hs : KeptAt init s.mem s.fuseVersion s.xmssIndex := hs
  unfold State.timelineAct
  repeat' first
    | with_reducible assumption | with_reducible apply State.setChan_kept | with_reducible apply kept_ite | intro _

theorem State.timelinePre_kept (s : State) (c : Nat) (bank : Nat) (hs : Kept init s) :
    Kept init (State.timelinePre s c bank) := by
  replace hs : KeptAt init s.mem s.fuseVersion s.xmssIndex := hs
  unfold State.timelinePre
  repeat' first
    | with_reducible assumption | with_reducible apply State.setChan_kept | with_reducible apply kept_ite | intro _

theorem State.timelinePrea_kept (s : State) (c : Nat) (hs : Kept init s) :
    Kept init (State.timelinePrea s c) := by
  replace hs : KeptAt init s.mem s.fuseVersion s.xmssIndex := hs
  unfold State.timelinePrea
  repeat' first
    | with_reducible assumption | with_reducible apply State.setChan_kept | with_reducible apply kept_ite | intro _

theorem State.timelineOpen_kept (s : State) (c : Nat) (len : Nat) (hs : Kept init s) :
    Kept init (State.timelineOpen s c len) := hs

theorem State.timelineEnd_kept (s : State) (c : Nat) (hs : Kept init s) :
    Kept init (State.timelineEnd s c) := hs

theorem State.timelineRepair_kept (s : State) (c : Nat) (hs : Kept init s) :
    Kept init (State.timelineRepair s c) := by
  replace hs : KeptAt init s.mem s.fuseVersion s.xmssIndex := hs
  unfold State.timelineRepair
  try dsimp only
  repeat' first
    | with_reducible assumption | with_reducible apply State.setPart_kept | with_reducible apply State.bumpW_kept
    | with_reducible apply State.bumpDc_kept | with_reducible apply State.setChan_kept
    | with_reducible apply State.useRecord_kept | with_reducible apply State.putPiece_kept | with_reducible apply step_kept
    | with_reducible apply foldl_kept | with_reducible apply kept_ite | split | intro _

theorem State.issueRecord_kept (s : State) (c : Nat) (hs : Kept init s) :
    Kept init (State.issueRecord s c) := by
  replace hs : KeptAt init s.mem s.fuseVersion s.xmssIndex := hs
  unfold State.issueRecord
  try dsimp only
  repeat' first
    | with_reducible assumption | with_reducible apply State.setChan_kept | with_reducible apply State.timelineRef_kept
    | with_reducible apply State.timelineRead_kept | with_reducible apply State.timelineCache_kept
    | with_reducible apply State.timelineWrite_kept | with_reducible apply State.timelineAct_kept
    | with_reducible apply State.timelinePre_kept | with_reducible apply State.timelinePrea_kept
    | with_reducible apply State.timelineOpen_kept | with_reducible apply State.timelineEnd_kept
    | with_reducible apply State.timelineRepair_kept | with_reducible apply step_kept | split

theorem State.refreshDynamic_kept (s : State) (c : Nat) (hs : Kept init s) :
    Kept init (s.refreshDynamic c) := hs

theorem State.crWrite_kept (s : State) (t : Nat) (T : Thread) (cr : Nat) (v : Word) (hs : Kept init s) :
    KeepsE init (State.crWrite s t T cr v) := by
  replace hs : KeptAt init s.mem s.fuseVersion s.xmssIndex := hs
  unfold State.crWrite
  repeat' first
    | with_reducible assumption | with_reducible apply State.setThread_kept | with_reducible apply State.setW_kept
    | with_reducible apply keepsE_ok | with_reducible apply keepsE_error | split | intro _

theorem State.trap_kept (s : State) (t : Nat) (cause : Nat) (code : Nat) (hs : Kept init s) :
    Kept init (State.trap s t cause code) := by
  replace hs : KeptAt init s.mem s.fuseVersion s.xmssIndex := hs
  unfold State.trap
  try dsimp only
  repeat' first
    | with_reducible assumption | with_reducible apply State.freezeThreadT_kept

theorem State.endTakeover_kept (s : State) (t : Nat) (hs : Kept init s) :
    Kept init (State.endTakeover s t) := by
  replace hs : KeptAt init s.mem s.fuseVersion s.xmssIndex := hs
  unfold State.endTakeover
  try dsimp only
  repeat' first
    | with_reducible assumption | with_reducible apply State.setThread_kept | with_reducible apply State.endHandler_kept
    | with_reducible apply State.stopPair_kept | with_reducible apply kept_ite | split | intro _

theorem State.hend_kept (s : State) (t : Nat) (T : Thread) (hs : Kept init s) :
    Kept init (State.hend s t T) := by
  replace hs : KeptAt init s.mem s.fuseVersion s.xmssIndex := hs
  unfold State.hend
  repeat' first
    | with_reducible assumption | with_reducible apply State.endHandler_kept | with_reducible apply State.endTakeover_kept
    | with_reducible apply State.takeover_kept | with_reducible apply kept_ite | intro _

theorem State.haltThread_kept (s : State) (t : Nat) (T : Thread) (hs : Kept init s) :
    Kept init (State.haltThread s t T) := by
  replace hs : KeptAt init s.mem s.fuseVersion s.xmssIndex := hs
  unfold State.haltThread
  repeat' first
    | with_reducible assumption | with_reducible apply State.haltCellar_kept | with_reducible apply State.endThread_kept
    | with_reducible apply State.takeover_kept | with_reducible apply kept_ite | intro _

theorem State.takeEvents_kept (s : State) (t : Nat) (d : Nat) (mask : Nat) (until_ : Word) (hs : Kept init s) :
    Kept init (State.takeEvents s t d mask until_) := hs

theorem State.waitev_kept (s : State) (t : Nat) (T : Thread) (d : Nat) (mask : Nat) (until_ : Word) (hs : Kept init s) :
    Kept init (State.waitev s t T d mask until_) := by
  replace hs : KeptAt init s.mem s.fuseVersion s.xmssIndex := hs
  unfold State.waitev
  repeat' first
    | with_reducible assumption | with_reducible apply State.freezeThread_kept | with_reducible apply State.waitFor_kept
    | with_reducible apply State.takeEvents_kept | with_reducible apply kept_ite | intro _

theorem State.waitevRelease_kept (s : State) (t : Nat) (hs : Kept init s) :
    Kept init (State.waitevRelease s t) := by
  replace hs : KeptAt init s.mem s.fuseVersion s.xmssIndex := hs
  unfold State.waitevRelease
  try dsimp only
  repeat' first
    | with_reducible assumption | with_reducible apply State.takeEvents_kept | with_reducible apply State.waitev_kept
    | with_reducible apply kept_ite | split | intro _

theorem State.tlsig_kept (s : State) (t : Nat) (T : Thread) (h : Word) (v : Word) (add : Bool) (hs : Kept init s) :
    Kept init (State.tlsig s t T h v add) := by
  replace hs : KeptAt init s.mem s.fuseVersion s.xmssIndex := hs
  unfold State.tlsig
  try dsimp only
  repeat' first
    | with_reducible assumption | with_reducible apply State.freezeThread_kept | with_reducible apply State.stepOn_kept
    | with_reducible apply State.freezeDenied_kept | with_reducible apply State.holdAccess_kept
    | with_reducible apply State.issueSignal_kept | with_reducible apply kept_ite | split | intro _

theorem State.tlwt_kept (s : State) (t : Nat) (T : Thread) (d : Nat) (h : Word) (v : Word) (n : Nat) (hs : Kept init s) :
    Kept init (State.tlwt s t T d h v n) := by
  replace hs : KeptAt init s.mem s.fuseVersion s.xmssIndex := hs
  unfold State.tlwt
  repeat' first
    | with_reducible assumption | with_reducible apply State.freezeThread_kept | with_reducible apply State.waitFor_kept
    | with_reducible apply State.release_kept | with_reducible apply State.acquireNow_kept | with_reducible apply kept_ite
    | split | intro _

theorem State.tlwtRelease_kept (s : State) (t : Nat) (hs : Kept init s) :
    Kept init (State.tlwtRelease s t) := by
  replace hs : KeptAt init s.mem s.fuseVersion s.xmssIndex := hs
  unfold State.tlwtRelease
  repeat' first
    | with_reducible assumption | with_reducible apply State.release_kept | with_reducible apply State.acquireNow_kept
    | with_reducible apply State.tlwt_kept | with_reducible apply kept_ite | split | intro _

theorem State.tlwtTimeout_kept (s : State) (t : Nat) (hs : Kept init s) :
    Kept init (State.tlwtTimeout s t) := by
  replace hs : KeptAt init s.mem s.fuseVersion s.xmssIndex := hs
  unfold State.tlwtTimeout
  repeat' first
    | with_reducible assumption | with_reducible apply State.release_kept | with_reducible apply State.tlwt_kept
    | with_reducible apply kept_ite | split | intro _

theorem State.tlset_kept (s : State) (t : Nat) (T : Thread) (h : Word) (v : Word) (hs : Kept init s) :
    Kept init (State.tlset s t T h v) := by
  replace hs : KeptAt init s.mem s.fuseVersion s.xmssIndex := hs
  unfold State.tlset
  repeat' first
    | with_reducible assumption | with_reducible apply State.freezeThread_kept
    | with_reducible apply State.setCounter_kept | with_reducible apply State.stepOn_kept
    | with_reducible apply State.retryNext_kept | with_reducible apply kept_ite | split | intro _

theorem State.depDec_kept (s : State) (i : Nat) (hs : Kept init s) :
    Kept init (State.depDec s i) := by
  replace hs : KeptAt init s.mem s.fuseVersion s.xmssIndex := hs
  unfold State.depDec
  try dsimp only
  repeat' first
    | with_reducible assumption | with_reducible apply State.setWf_kept | with_reducible apply State.raise_kept
    | with_reducible apply State.depReady_kept | with_reducible apply kept_ite | split | intro _

theorem State.depdec_kept (s : State) (t : Nat) (T : Thread) (d : Nat) (h : Word) (hs : Kept init s) :
    Kept init (State.depdec s t T d h) := by
  replace hs : KeptAt init s.mem s.fuseVersion s.xmssIndex := hs
  unfold State.depdec
  try dsimp only
  repeat' first
    | with_reducible assumption | with_reducible apply State.freezeThread_kept | with_reducible apply State.stepWith_kept
    | with_reducible apply State.afterRelease_kept | with_reducible apply State.depDec_kept | with_reducible apply kept_ite
    | intro _

theorem State.depset_kept (s : State) (t : Nat) (h : Word) (v : Word) (hs : Kept init s) :
    Kept init (State.depset s t h v) := by
  replace hs : KeptAt init s.mem s.fuseVersion s.xmssIndex := hs
  unfold State.depset
  repeat' first
    | with_reducible assumption | with_reducible apply State.freezeThread_kept | with_reducible apply State.depSet_kept
    | with_reducible apply State.stepOn_kept | with_reducible apply kept_ite | intro _

theorem State.publ_kept (s : State) (p : Nat) (a : Word) (hs : Kept init s) :
    Kept init (State.publ s p a).1 := by
  replace hs : KeptAt init s.mem s.fuseVersion s.xmssIndex := hs
  unfold State.publ
  try dsimp only
  repeat' first
    | with_reducible assumption | with_reducible apply State.publish_kept | split | intro _

theorem State.clearCow_kept (s : State) (p : Nat) (n : Nat) (hs : Kept init s) :
    Kept init (State.clearCow s p n) := by
  replace hs : KeptAt init s.mem s.fuseVersion s.xmssIndex := hs
  unfold State.clearCow
  try dsimp only
  repeat' first
    | with_reducible assumption | with_reducible apply State.storeBytes_kept

theorem State.snap_kept (s : State) (t : Nat) (d : Nat) (p : Nat) (a : Word) (hs : Kept init s) :
    Kept init (State.snap s t d p a) := by
  replace hs : KeptAt init s.mem s.fuseVersion s.xmssIndex := hs
  unfold State.snap
  try dsimp only
  repeat' first
    | with_reducible assumption | with_reducible apply State.setWf_kept | with_reducible apply State.acquireNow_kept
    | with_reducible apply State.retryNext_kept | with_reducible apply State.stepWith_kept
    | with_reducible apply State.clearCow_kept | with_reducible apply kept_ite | split | intro _

theorem State.unsnap_kept (s : State) (t : Nat) (d : Nat) (p : Nat) (a : Word) (hs : Kept init s) :
    Kept init (State.unsnap s t d p a) := by
  replace hs : KeptAt init s.mem s.fuseVersion s.xmssIndex := hs
  unfold State.unsnap
  try dsimp only
  repeat' first
    | with_reducible assumption | with_reducible apply State.setWf_kept | with_reducible apply State.retryNext_kept
    | with_reducible apply State.acquireNow_kept | with_reducible apply State.stepWith_kept | with_reducible apply kept_ite
    | intro _

theorem State.copyRest_kept (s : State) (p : Nat) (n : Nat) (chunks : Nat) (hs : Kept init s) :
    Kept init (State.copyRest s p n chunks) := by
  replace hs : KeptAt init s.mem s.fuseVersion s.xmssIndex := hs
  unfold State.copyRest
  repeat' first
    | with_reducible assumption | with_reducible apply State.cowCopy_kept | with_reducible apply foldl_kept
    | with_reducible apply kept_ite | split | intro _

theorem State.relock_kept (s : State) (p : Nat) (n : Nat) (hs : Kept init s) :
    Kept init (State.relock s p n) := by
  replace hs : KeptAt init s.mem s.fuseVersion s.xmssIndex := hs
  unfold State.relock
  try dsimp only
  repeat' first
    | with_reducible assumption | with_reducible apply State.setPart_kept | with_reducible apply kept_ite | intro _

theorem State.foldComplete_kept (s : State) (p n : Nat) (hs : Kept init s) :
    Kept init (s.foldComplete p n) := by
  have h1 : ∀ (t : State) l, Kept init t → Kept init { t with folds := l } := fun _ _ h => h
  unfold State.foldComplete
  split
  · exact State.relock_kept _ _ _ (h1 _ _ (State.publish_kept _ _ _ (State.copyRest_kept _ _ _ _ hs)))
  · exact hs

theorem State.kickClear_kept (s : State) (j : Nat) (hs : Kept init s) :
    Kept init (State.kickClear s j) := by
  replace hs : KeptAt init s.mem s.fuseVersion s.xmssIndex := hs
  unfold State.kickClear
  try dsimp only
  repeat' first
    | with_reducible assumption | with_reducible apply State.setWf_kept | with_reducible apply State.bumpW_kept
    | with_reducible apply kept_ite | intro _

theorem State.journalEnd_kept (s : State) (hs : Kept init s) :
    Kept init (State.journalEnd s) := by
  replace hs : KeptAt init s.mem s.fuseVersion s.xmssIndex := hs
  unfold State.journalEnd
  try dsimp only
  repeat' first
    | with_reducible assumption | with_reducible apply State.setW_kept | with_reducible apply kept_ite | intro _

theorem State.journal_kept (s : State) (a : Word) (b : Word) (tag : Nat) (hs : Kept init s) :
    Kept init (State.journal s a b tag) := by
  replace hs : KeptAt init s.mem s.fuseVersion s.xmssIndex := hs
  unfold State.journal
  try dsimp only
  repeat' first
    | with_reducible assumption | with_reducible apply State.setW_kept | with_reducible apply State.journalEnd_kept
    | with_reducible apply kept_ite | intro _

theorem State.sluiceOf_kept (s : State) (T : Thread) (a : Word) (b : Word) (hs : Kept init s) :
    Kept init (State.sluiceOf s T a b).1 := by
  replace hs : KeptAt init s.mem s.fuseVersion s.xmssIndex := hs
  unfold State.sluiceOf
  try dsimp only
  repeat' first
    | with_reducible assumption | with_reducible apply State.setPart_kept | split | intro _

theorem State.dropRecords_kept (s : State) (p : Nat) (va : Option Nat) (hs : Kept init s) :
    Kept init (State.dropRecords s p va) := by
  replace hs : KeptAt init s.mem s.fuseVersion s.xmssIndex := hs
  unfold State.dropRecords
  try dsimp only
  repeat' first
    | with_reducible assumption | with_reducible apply State.setTwe_kept | with_reducible apply foldl_kept | split
    | intro _

theorem State.shpfence_kept (s : State) (t : Nat) (T : Thread) (a : Word) (all : Bool) (hs : Kept init s) :
    Kept init (State.shpfence s t T a all) := by
  replace hs : KeptAt init s.mem s.fuseVersion s.xmssIndex := hs
  unfold State.shpfence
  try dsimp only
  repeat' first
    | with_reducible assumption | with_reducible apply State.freezeThread_kept | with_reducible apply State.stepOn_kept
    | with_reducible apply State.afterRelease_kept | with_reducible apply State.dropRecords_kept
    | with_reducible apply foldl_kept | with_reducible apply kept_ite | split | intro _

theorem State.launchGraph_kept (s : State) (rec_ : Nat) (hs : Kept init s) :
    Kept init (State.launchGraph s rec_).1 := by
  replace hs : KeptAt init s.mem s.fuseVersion s.xmssIndex := hs
  unfold State.launchGraph
  try dsimp only
  repeat' first
    | with_reducible assumption | with_reducible apply State.setPart_kept | with_reducible apply State.launch_kept
    | with_reducible apply State.loadTimelines_kept | split | intro _

theorem State.pagepl_kept (s : State) (t : Nat) (d : Nat) (a : Word) (b : Word) (hs : Kept init s) :
    Kept init (State.pagepl s t d a b) := by
  replace hs : KeptAt init s.mem s.fuseVersion s.xmssIndex := hs
  unfold State.pagepl
  try dsimp only
  repeat' first
    | with_reducible assumption | with_reducible apply State.freezeThread_kept | with_reducible apply State.pagePlace_kept
    | with_reducible apply State.stepWith_kept | with_reducible apply kept_ite | intro _

theorem State.condset_kept (s : State) (t : Nat) (v : Bool) (hs : Kept init s) :
    Kept init (State.condset s t v) := by
  replace hs : KeptAt init s.mem s.fuseVersion s.xmssIndex := hs
  unfold State.condset
  try dsimp only
  repeat' first
    | with_reducible assumption | with_reducible apply State.deliverCond_kept | with_reducible apply State.stepOn_kept
    | with_reducible apply State.waitFor_kept | with_reducible apply foldl_kept | with_reducible apply keepsO_some
    | with_reducible apply getD_kept | with_reducible apply keepsO_none | with_reducible apply keeps_next
    | with_reducible apply keeps_fault | with_reducible apply keepsE_ok | with_reducible apply keepsE_error
    | with_reducible apply foldl_kept1 | with_reducible apply keepsO_ite | with_reducible apply keeps_ite
    | with_reducible apply kept_ite | dsimp only | split | with_reducible apply keepsO_mapO
    | with_reducible apply keepsO_map | with_reducible (refine kept_of_pair ?_ (by assumption))
    | with_reducible (refine kept_of_some ?_ (by assumption)) | with_reducible (refine kept_of_ok ?_ (by assumption))
    | with_reducible (refine kept_of_pair2 ?_ (by assumption)) | intro _

theorem State.condsetRelease_kept (s : State) (t : Nat) (hs : Kept init s) :
    Kept init (State.condsetRelease s t) := by
  replace hs : KeptAt init s.mem s.fuseVersion s.xmssIndex := hs
  unfold State.condsetRelease
  try dsimp only
  repeat' first
    | with_reducible assumption | with_reducible apply State.setThread_kept | with_reducible apply State.deliverCond_kept
    | with_reducible apply State.condset_kept | with_reducible apply foldl_kept | with_reducible apply keepsO_some
    | with_reducible apply getD_kept | with_reducible apply keepsO_none | with_reducible apply keeps_next
    | with_reducible apply keeps_fault | with_reducible apply keepsE_ok | with_reducible apply keepsE_error
    | with_reducible apply foldl_kept1 | with_reducible apply keepsO_ite | with_reducible apply keeps_ite
    | with_reducible apply kept_ite | dsimp only | split | with_reducible apply keepsO_mapO
    | with_reducible apply keepsO_map | with_reducible (refine kept_of_pair ?_ (by assumption))
    | with_reducible (refine kept_of_some ?_ (by assumption)) | with_reducible (refine kept_of_ok ?_ (by assumption))
    | with_reducible (refine kept_of_pair2 ?_ (by assumption)) | intro _

theorem State.iterwt_kept (s : State) (t : Nat) (d : Nat) (a : Word) (hs : Kept init s) :
    Kept init (State.iterwt s t d a) := by
  replace hs : KeptAt init s.mem s.fuseVersion s.xmssIndex := hs
  unfold State.iterwt
  try dsimp only
  repeat' first
    | with_reducible assumption | with_reducible apply State.setThread_kept | with_reducible apply State.release_kept
    | with_reducible apply State.acquireNow_kept | with_reducible apply kept_ite | intro _

theorem State.iterwtRelease_kept (s : State) (t : Nat) (hs : Kept init s) :
    Kept init (State.iterwtRelease s t) := by
  replace hs : KeptAt init s.mem s.fuseVersion s.xmssIndex := hs
  unfold State.iterwtRelease
  try dsimp only
  repeat' first
    | with_reducible assumption | with_reducible apply State.release_kept | with_reducible apply State.acquireNow_kept
    | with_reducible apply State.iterwt_kept | with_reducible apply kept_ite | split | intro _

theorem releaseOp_kept (s : State) (ks : List Kind) (d : BitVec 6) (scope : Nat) (f : State → Thread → State × Word) (hs : Kept init s) (hf : ∀ v0 v1, Kept init v0 → Kept init (f v0 v1).1) :
    Keeps init (releaseOp s ks d scope f) := by
  replace hs : KeptAt init s.mem s.fuseVersion s.xmssIndex := hs
  unfold releaseOp
  try dsimp only
  repeat' first
    | with_reducible assumption | with_reducible apply hf | with_reducible apply onThread_kept
    | with_reducible apply State.stepWith_kept | with_reducible apply State.afterRelease_kept
    | with_reducible apply foldl_kept | with_reducible apply keepsO_some | with_reducible apply getD_kept
    | with_reducible apply keepsO_none | with_reducible apply keeps_next | with_reducible apply keeps_fault
    | with_reducible apply keepsE_ok | with_reducible apply keepsE_error | with_reducible apply foldl_kept1
    | with_reducible apply keepsO_ite | with_reducible apply keeps_ite | with_reducible apply kept_ite | dsimp only
    | split | with_reducible apply keepsO_mapO | with_reducible apply keepsO_map
    | with_reducible (refine kept_of_pair ?_ (by assumption)) | with_reducible (refine kept_of_some ?_ (by assumption))
    | with_reducible (refine kept_of_ok ?_ (by assumption)) | with_reducible (refine kept_of_pair2 ?_ (by assumption))
    | intro _

theorem State.issueHeld_kept (s : State) (t : Nat) (w : PWrite) (hs : Kept init s) :
    Kept init (State.issueHeld s t w) := by
  have hr := State.regStore_kept s t w.pa (BitVec.ofNat 64 (bytesNat w.data)) hs
  unfold State.issueHeld
  split
  · exact State.issueSignal_kept _ _ hs
  · split
    · split
      · exact hr _ (by assumption)
      · exact State.denyThread_kept _ _ _ _ _ hs
    · exact State.issueWrite_kept _ _ hs

theorem State.afterHeld_kept (s : State) (t : Nat) (k : State → State) (hs : Kept init s) (hk : ∀ v0, Kept init v0 → Kept init (k v0)) :
    Kept init (State.afterHeld s t k) := by
  replace hs : KeptAt init s.mem s.fuseVersion s.xmssIndex := hs
  unfold State.afterHeld
  repeat' first
    | with_reducible assumption | with_reducible apply hk | with_reducible apply State.retryNext_kept
    | with_reducible apply State.freezeDenied_kept | with_reducible apply State.issueHeld_kept
    | with_reducible apply kept_ite | split | intro _

theorem State.finishTakeover_kept (s : State) (t : Nat) (f : Freeze) (hs : Kept init s) :
    Kept init (State.finishTakeover s t f) :=
  State.afterHeld_kept _ _ _ hs fun _ h =>
    State.stepOn_kept _ _ (State.setWf_kept _ _ _ _ _ (State.spend_kept _ _ (State.stopCellar_kept _ _ h)))

theorem State.fstep_kept (s : State) (t : Nat) (d : Nat) (u : Nat) (hs : Kept init s) :
    Kept init (State.fstep s t d u) := hs

theorem onTag_kept (s : State) (a : BitVec 6) (f : Nat → Thread → State) (hs : Kept init s) (hf : ∀ v0 v1, Kept init (f v0 v1)) :
    Keeps init (onTag s a f) := by
  replace hs : KeptAt init s.mem s.fuseVersion s.xmssIndex := hs
  unfold onTag
  try dsimp only
  repeat' first
    | with_reducible assumption | with_reducible apply hf | with_reducible apply onThread_kept
    | with_reducible apply State.freezeCap_kept | with_reducible apply foldl_kept | with_reducible apply keepsO_some
    | with_reducible apply getD_kept | with_reducible apply keepsO_none | with_reducible apply keeps_next
    | with_reducible apply keeps_fault | with_reducible apply keepsE_ok | with_reducible apply keepsE_error
    | with_reducible apply foldl_kept1 | with_reducible apply keepsO_ite | with_reducible apply keeps_ite
    | with_reducible apply kept_ite | dsimp only | split | with_reducible apply keepsO_mapO
    | with_reducible apply keepsO_map | with_reducible (refine kept_of_pair ?_ (by assumption))
    | with_reducible (refine kept_of_some ?_ (by assumption)) | with_reducible (refine kept_of_ok ?_ (by assumption))
    | with_reducible (refine kept_of_pair2 ?_ (by assumption)) | intro _

theorem State.dropFreeze_kept (s : State) (t : Nat) (n : Nat) (hs : Kept init s) :
    Kept init (State.dropFreeze s t n) := by
  replace hs : KeptAt init s.mem s.fuseVersion s.xmssIndex := hs
  unfold State.dropFreeze
  try dsimp only
  repeat' first
    | with_reducible assumption | with_reducible apply kept_ite | intro _

theorem State.setStage_kept (s : State) (p : Nat) (x : PStage) (hs : Kept init s) :
    Kept init (State.setStage s p x) := hs

theorem State.commStart_kept (s : State) (p : Nat) (hs : Kept init s) :
    Kept init (State.commStart s p) := by
  replace hs : KeptAt init s.mem s.fuseVersion s.xmssIndex := hs
  unfold State.commStart
  repeat' first
    | with_reducible assumption | with_reducible apply State.setStage_kept | split

theorem State.partTick_kept (s : State) (p : Nat) (hs : Kept init s) :
    Kept init (State.partTick s p) := by
  replace hs : KeptAt init s.mem s.fuseVersion s.xmssIndex := hs
  unfold State.partTick
  try dsimp only
  repeat' first
    | with_reducible assumption | with_reducible apply State.setPart_kept | with_reducible apply State.commStart_kept
    | with_reducible apply kept_ite | split | intro _

theorem State.weirFire_kept (s : State) (p : Nat) (hs : Kept init s) :
    Kept init (State.weirFire s p) := by
  replace hs : KeptAt init s.mem s.fuseVersion s.xmssIndex := hs
  unfold State.weirFire
  try dsimp only
  repeat' first
    | with_reducible assumption | with_reducible apply State.passGrants_kept | with_reducible apply State.setStage_kept
    | with_reducible apply foldl_kept | with_reducible apply kept_ite | split | intro _

theorem State.commStep_kept (s : State) (p : Nat) (hs : Kept init s) :
    Kept init (State.commStep s p) := by
  replace hs : KeptAt init s.mem s.fuseVersion s.xmssIndex := hs
  unfold State.commStep
  try dsimp only
  repeat' first
    | with_reducible assumption | with_reducible apply State.setRegion_kept | with_reducible apply State.routesStep_kept
    | with_reducible apply State.jobsStep_kept | with_reducible apply State.heldWrites_kept
    | with_reducible apply foldl_kept | with_reducible apply kept_ite | split | intro _

theorem State.firingDone_kept (s : State) (r : Nat) (hs : Kept init s) :
    Kept init (State.firingDone s r) := by
  replace hs : KeptAt init s.mem s.fuseVersion s.xmssIndex := hs
  unfold State.firingDone
  try dsimp only
  repeat' first
    | with_reducible assumption | with_reducible apply State.setRegion_kept | with_reducible apply State.freezeFrame_kept
    | with_reducible apply kept_ite | split | intro _

theorem State.dueEdges_kept (s : State) (r cyc : Nat) (hs : Kept init s) : Kept init (s.dueEdges r cyc) := by
  unfold State.dueEdges
  exact foldl_kept (fun t x h => getD_kept (State.deliverCond_kept t r _ _ h) h) hs

theorem State.popCondition_kept (s : State) (r : Nat) (hs : Kept init s) :
    Kept init (State.popCondition s r) := by
  have hd := State.dueEdges_kept s r ((s.region r).rcyc + 1) hs
  unfold State.popCondition
  dsimp only
  split
  · exact hs
  · split
    · exact hd
    · split
      · exact State.setRegion_kept _ _ _ hd
      · exact State.freezeFrame_kept _ _ _ _ _ _ hd

theorem State.frameEnd_kept (s : State) (p : Nat) (sealed : Bool) (hs : Kept init s) :
    Kept init (State.frameEnd s p sealed) := by
  replace hs : KeptAt init s.mem s.fuseVersion s.xmssIndex := hs
  unfold State.frameEnd
  try dsimp only
  repeat' first
    | with_reducible assumption | with_reducible apply State.setPart_kept | with_reducible apply State.quiescence_kept
    | with_reducible apply State.endGraph_kept | with_reducible apply State.setStage_kept | with_reducible apply kept_ite
    | split | intro _

theorem State.retirement_kept (s : State) (p : Nat) (hs : Kept init s) :
    Kept init (State.retirement s p) := by
  replace hs : KeptAt init s.mem s.fuseVersion s.xmssIndex := hs
  unfold State.retirement
  try dsimp only
  repeat' first
    | with_reducible assumption | with_reducible apply State.setPart_kept | with_reducible apply State.bumpDc_kept
    | with_reducible apply State.retireRegion_kept | with_reducible apply State.frameEnd_kept
    | with_reducible apply foldl_kept | with_reducible apply kept_ite | split | intro _

theorem State.openFrame_kept (s : State) (p : Nat) (hs : Kept init s) :
    Kept init (State.openFrame s p) := by
  replace hs : KeptAt init s.mem s.fuseVersion s.xmssIndex := hs
  unfold State.openFrame
  try dsimp only
  repeat' first
    | with_reducible assumption | with_reducible apply State.setPart_kept | with_reducible apply State.injectSluice_kept
    | with_reducible apply State.chooseTimeline_kept | with_reducible apply State.lockFrame_kept
    | with_reducible apply foldl_kept | with_reducible apply kept_ite | split | intro _

theorem State.arcHold_kept (s : State) (p : Nat) (hs : Kept init s) :
    Kept init (State.arcHold s p) := by
  replace hs : KeptAt init s.mem s.fuseVersion s.xmssIndex := hs
  unfold State.arcHold
  try dsimp only
  repeat' first
    | with_reducible assumption | with_reducible apply State.setPart_kept | with_reducible apply State.bumpDc_kept
    | with_reducible apply kept_ite | intro _

theorem State.tryFrame_kept (s : State) (p : Nat) (hs : Kept init s) :
    Kept init (State.tryFrame s p) := by
  replace hs : KeptAt init s.mem s.fuseVersion s.xmssIndex := hs
  unfold State.tryFrame
  try dsimp only
  repeat' first
    | with_reducible assumption | with_reducible apply State.setPart_kept | with_reducible apply State.beginRegion_kept
    | with_reducible apply State.setStage_kept | with_reducible apply State.arcHold_kept | with_reducible apply foldl_kept
    | with_reducible apply kept_ite | split | intro _

theorem State.recheckRegions_kept (s : State) (p : Nat) (hs : Kept init s) :
    Kept init (State.recheckRegions s p) := by
  replace hs : KeptAt init s.mem s.fuseVersion s.xmssIndex := hs
  unfold State.recheckRegions
  try dsimp only
  repeat' first
    | with_reducible assumption | with_reducible apply State.setPart_kept | with_reducible apply State.beginRegion_kept
    | with_reducible apply State.arcHold_kept | with_reducible apply foldl_kept | with_reducible apply kept_ite | split
    | intro _

theorem State.frameStart_kept (s : State) (p : Nat) (hs : Kept init s) :
    Kept init (State.frameStart s p) := by
  replace hs : KeptAt init s.mem s.fuseVersion s.xmssIndex := hs
  unfold State.frameStart
  try dsimp only
  repeat' first
    | with_reducible assumption | with_reducible apply State.openFrame_kept | with_reducible apply State.tryFrame_kept
    | with_reducible apply State.recheckRegions_kept | with_reducible apply kept_ite | split | intro _

theorem State.arcTimeout_kept (s : State) (p : Nat) (hs : Kept init s) :
    Kept init (State.arcTimeout s p) := by
  replace hs : KeptAt init s.mem s.fuseVersion s.xmssIndex := hs
  unfold State.arcTimeout
  try dsimp only
  repeat' first
    | with_reducible assumption | with_reducible apply State.setPart_kept | with_reducible apply State.freezeFrame_kept
    | with_reducible apply State.holdStart_kept | with_reducible apply State.beginRegion_kept
    | with_reducible apply foldl_kept | with_reducible apply kept_ite | split | intro _

theorem State.drainlim_kept (s : State) (p : Nat) (hs : Kept init s) :
    Kept init (State.drainlim s p) := by
  replace hs : KeptAt init s.mem s.fuseVersion s.xmssIndex := hs
  unfold State.drainlim
  try dsimp only
  repeat' first
    | with_reducible assumption | with_reducible apply State.setPart_kept | with_reducible apply kept_ite | split
    | intro _

theorem State.evalTurn_kept (s : State) (p : Nat) (hs : Kept init s) :
    Kept init (State.evalTurn s p) := by
  unfold State.evalTurn
  split
  · exact State.pctlChoose_kept s p _ hs
  · exact hs

theorem State.preemptKill_kept (s : State) (p : Nat) (hs : Kept init s) :
    Kept init (State.preemptKill s p) := by
  unfold State.preemptKill
  dsimp only
  split
  · exact State.preemptNow_kept _ p (State.evalTurn_kept s p hs)
  · exact State.evalTurn_kept s p hs

theorem State.swapOut_kept (s : State) (p : Nat) (hs : Kept init s) :
    Kept init (State.swapOut s p) := by
  replace hs : KeptAt init s.mem s.fuseVersion s.xmssIndex := hs
  unfold State.swapOut
  try dsimp only
  repeat' first
    | with_reducible assumption | with_reducible apply State.setThread_kept | with_reducible apply State.setRegion_kept
    | with_reducible apply State.setPart_kept | with_reducible apply State.mapTiles_kept
    | with_reducible apply State.bumpDc_kept | with_reducible apply State.setTwe_kept
    | with_reducible apply State.stopGraph_kept | with_reducible apply foldl_kept | intro _

theorem State.writeSwap_kept (s : State) (p : Nat) (hs : Kept init s) : Kept init (State.writeSwap s p) := by
  unfold State.writeSwap
  split
  · exact State.storeBytes_kept _ _ _ _ hs
  · exact hs

theorem State.checkpoint_kept (s : State) (p : Nat) (hs : Kept init s) :
    Kept init (State.checkpoint s p) := by
  replace hs : KeptAt init s.mem s.fuseVersion s.xmssIndex := hs
  unfold State.checkpoint
  repeat' first
    | with_reducible assumption | with_reducible apply State.preemptNow_kept | with_reducible apply State.swapOut_kept
    | with_reducible apply State.writeSwap_kept
    | with_reducible apply kept_ite | intro _

theorem State.restoreNow_kept (s : State) (p : Nat) (hs : Kept init s) :
    Kept init (State.restoreNow s p) := by
  replace hs : KeptAt init s.mem s.fuseVersion s.xmssIndex := hs
  unfold State.restoreNow
  try dsimp only
  repeat' first
    | with_reducible assumption | with_reducible apply State.setThread_kept | with_reducible apply State.setTile_kept
    | with_reducible apply State.setRegion_kept | with_reducible apply State.setPart_kept
    | with_reducible apply State.setTwe_kept | with_reducible apply State.loadTimelines_kept
    | with_reducible apply foldl_kept | with_reducible apply getD_kept | with_reducible apply kept_ite | split | intro _

theorem State.thermalFreeze_kept (s : State) (p : Nat) (hs : Kept init s) :
    Kept init (State.thermalFreeze s p) := by
  replace hs : KeptAt init s.mem s.fuseVersion s.xmssIndex := hs
  unfold State.thermalFreeze
  try dsimp only
  repeat' first
    | with_reducible assumption | with_reducible apply State.setPart_kept | with_reducible apply State.freezeFrame_kept
    | with_reducible apply foldl_kept | with_reducible apply kept_ite | split | intro _

theorem State.wake_kept (s : State) (hs : Kept init s) :
    Kept init (State.wake s) := hs

theorem State.writePattern_kept (s : State) (c bank row : Nat) (mis : BitVec 72) (k : Nat) (bs : List Nat)
    (hs : Kept init s) : Kept init (s.writePattern c bank row mis k bs) := by
  induction bs generalizing s k with
  | nil => exact hs
  | cons b bs ih =>
    simp only [State.writePattern]
    apply ih
    exact State.storeBytes_kept _ .hub _ _ hs

theorem State.performDeferred_kept (s : State) (c : Nat) (hs : Kept init s) :
    Kept init (State.performDeferred s c) := by
  replace hs : KeptAt init s.mem s.fuseVersion s.xmssIndex := hs
  unfold State.performDeferred
  try dsimp only
  repeat' first
    | with_reducible assumption | with_reducible apply State.setW_kept | with_reducible apply State.setChan_kept
    | with_reducible apply foldl_kept | intro _

theorem State.testMis_kept (s : State) (c : Nat) (hs : Kept init s) :
    Kept init (State.testMis s c).1 := by
  replace hs : KeptAt init s.mem s.fuseVersion s.xmssIndex := hs
  unfold State.testMis
  try dsimp only
  repeat' first
    | with_reducible assumption | with_reducible apply State.setChan_kept | split

theorem State.addMis_kept (s : State) (c : Nat) (mis : BitVec 72) (hs : Kept init s) :
    Kept init (State.addMis s c mis) := by
  replace hs : KeptAt init s.mem s.fuseVersion s.xmssIndex := hs
  unfold State.addMis
  repeat' first
    | with_reducible assumption | with_reducible apply State.setW_kept | split

theorem State.testDone_kept (s : State) (c : Nat) (hs : Kept init s) :
    Kept init (State.testDone s c) := by
  replace hs : KeptAt init s.mem s.fuseVersion s.xmssIndex := hs
  unfold State.testDone
  try dsimp only
  repeat' first
    | with_reducible assumption | with_reducible apply State.setWf_kept | with_reducible apply State.setChan_kept
    | with_reducible apply State.writePattern_kept | with_reducible apply State.performDeferred_kept
    | with_reducible apply State.testMis_kept | with_reducible apply State.addMis_kept | with_reducible apply getD_kept
    | with_reducible apply kept_ite | split | with_reducible (refine kept_of_pair ?_ (by assumption)) | intro _

theorem State.loseHbm_kept (s : State) (hs : Kept init s) : Kept init s.loseHbm :=
  ⟨twf_filter _ hs.1, hs.2⟩

theorem State.railsOff_kept (s : State) (hs : Kept init s) :
    Kept init (State.railsOff s) := by
  replace hs : KeptAt init s.mem s.fuseVersion s.xmssIndex := hs
  unfold State.railsOff
  repeat' first
    | with_reducible assumption

theorem State.powerLoss_kept (s : State) (hs : Kept init s) :
    Kept init (State.powerLoss s) := by
  replace hs : KeptAt init s.mem s.fuseVersion s.xmssIndex := hs
  unfold State.powerLoss
  repeat' first
    | with_reducible assumption | with_reducible apply State.loseHbm_kept | with_reducible apply State.railsOff_kept
    | with_reducible apply kept_ite | intro _

theorem State.flashWrite_kept (s : State) (bytes : List Byte) (hs : Kept init s) :
    Kept init (State.flashWrite s bytes) := hs

theorem State.senseOne_kept (s : State) (n : Nat) (x : BitVec 16 × Bool) (hs : Kept init s) :
    Kept init (State.senseOne s n x) := by
  replace hs : KeptAt init s.mem s.fuseVersion s.xmssIndex := hs
  unfold State.senseOne
  repeat' first
    | with_reducible assumption | with_reducible apply State.setW_kept | with_reducible apply State.setWf_kept
    | with_reducible apply kept_ite | intro _

theorem State.senseAll_kept (s : State) (xs : List (BitVec 16 × Bool)) (hs : Kept init s) :
    Kept init (State.senseAll s xs) := by
  replace hs : KeptAt init s.mem s.fuseVersion s.xmssIndex := hs
  unfold State.senseAll
  repeat' first
    | with_reducible assumption | with_reducible apply State.senseOne_kept | with_reducible apply foldl_kept | intro _

theorem State.setTstate_kept (s : State) (n : Nat) (hs : Kept init s) :
    Kept init (State.setTstate s n) := hs

theorem State.putSettle_kept (s : State) (n : Nat) (hs : Kept init s) :
    Kept init (State.putSettle s n) := hs

theorem State.settleDone_kept (s : State) (hs : Kept init s) :
    Kept init (State.settleDone s) := by
  replace hs : KeptAt init s.mem s.fuseVersion s.xmssIndex := hs
  unfold State.settleDone
  repeat' first
    | with_reducible assumption | with_reducible apply State.setTstate_kept | with_reducible apply kept_ite | intro _

theorem State.killRunning_kept (s : State) (hs : Kept init s) :
    Kept init (State.killRunning s) := by
  replace hs : KeptAt init s.mem s.fuseVersion s.xmssIndex := hs
  unfold State.killRunning
  try dsimp only
  repeat' first
    | with_reducible assumption | with_reducible apply State.setTasks_kept | with_reducible apply State.request_kept
    | with_reducible apply foldl_kept | with_reducible apply kept_ite | split | intro _

theorem State.beginExcursion_kept (s : State) (hs : Kept init s) :
    Kept init (State.beginExcursion s) := by
  replace hs : KeptAt init s.mem s.fuseVersion s.xmssIndex := hs
  unfold State.beginExcursion
  repeat' first
    | with_reducible assumption | with_reducible apply State.setPart_kept | with_reducible apply State.setTstate_kept
    | with_reducible apply foldl_kept | intro _

theorem State.transition_kept (s : State) (cmd : Nat) (hs : Kept init s) :
    Kept init (s.transition cmd).1 := by
  have h1 : ∀ b v, Kept init ({ s with booting := b }.setTstate v) := fun b v => State.setTstate_kept _ v hs
  unfold State.transition
  dsimp only
  have e : ∀ {c : Prop} [Decidable c] {a b : State × Bool}, (c → Kept init a.1) →
      (¬ c → Kept init b.1) → Kept init (if c then a else b).1 := by
    intro c _ a b ha hb
    by_cases h : c
    · rw [if_pos h]; exact ha h
    · rw [if_neg h]; exact hb h
  repeat' first
    | with_reducible assumption | with_reducible apply h1 | with_reducible apply e | with_reducible apply State.setTstate_kept | with_reducible apply State.irq_kept
    | with_reducible apply State.railsOff_kept | with_reducible apply State.loseHbm_kept | with_reducible apply State.putSettle_kept
    | with_reducible apply State.killRunning_kept | with_reducible apply State.beginExcursion_kept | with_reducible apply State.settleDone_kept | intro _ | dsimp only

theorem State.cdrateWindow_kept (s : State) (hs : Kept init s) :
    Kept init (State.cdrateWindow s) := by
  replace hs : KeptAt init s.mem s.fuseVersion s.xmssIndex := hs
  unfold State.cdrateWindow
  try dsimp only
  repeat' first
    | with_reducible assumption | with_reducible apply State.setWf_kept | with_reducible apply State.irq_kept
    | with_reducible apply kept_ite | intro _

theorem State.countSample_kept (s0 : State) (hs0 : Kept init s0) :
    Kept init (State.countSample s0) := by
  replace hs0 : KeptAt init s0.mem s0.fuseVersion s0.xmssIndex := hs0
  unfold State.countSample
  try dsimp only
  repeat' first
    | with_reducible assumption | with_reducible apply State.cdrateWindow_kept | with_reducible apply kept_ite | intro _

theorem State.thermalSample_kept (s : State) (xs : List (BitVec 16 × Bool)) (hs : Kept init s) :
    Kept init (State.thermalSample s xs) := by
  replace hs : KeptAt init s.mem s.fuseVersion s.xmssIndex := hs
  unfold State.thermalSample
  try dsimp only
  repeat' first
    | with_reducible assumption | with_reducible apply State.countSample_kept | with_reducible apply State.setW_kept | with_reducible apply State.setWf_kept
    | with_reducible apply State.raise_kept | with_reducible apply State.wake_kept
    | with_reducible apply State.senseAll_kept | with_reducible apply State.transition_kept | with_reducible apply kept_ite
    | intro _

theorem State.startFirmware_kept (s : State) (bs : List Byte) (hs : Kept init s) :
    Kept init (State.startFirmware s bs) := hs

theorem State.bootImage_kept (s : State) (bs : List Byte) (hs : Kept init s) :
    Kept init (State.bootImage s bs) := by
  replace hs : KeptAt init s.mem s.fuseVersion s.xmssIndex := hs
  unfold State.bootImage
  repeat' first
    | with_reducible assumption | with_reducible apply State.startFirmware_kept | with_reducible apply kept_ite | intro _

theorem State.powerOn_kept (s : State) (hs : Kept init s) :
    Kept init (State.powerOn s) := by
  replace hs : KeptAt init s.mem s.fuseVersion s.xmssIndex := hs
  unfold State.powerOn
  try dsimp only
  repeat' first
    | with_reducible assumption | with_reducible apply State.reset_kept | with_reducible apply State.bootImage_kept
    | with_reducible apply foldl_kept | intro _

theorem State.recgo_kept (s : State) (len : Nat) (hs : Kept init s) :
    Kept init (State.recgo s len) := by
  replace hs : KeptAt init s.mem s.fuseVersion s.xmssIndex := hs
  unfold State.recgo
  repeat' first
    | with_reducible assumption | with_reducible apply State.bootImage_kept | with_reducible apply kept_ite | intro _

theorem State.blowFuses_kept (s : State) (hs : Kept init s) : Kept init s.blowFuses := by
  unfold State.blowFuses
  split
  · exact hs
  · exact ⟨hs.1, Nat.le_trans hs.2.1 (Nat.le_max_left _ _), hs.2.2⟩

theorem State.quote_kept (s : State) (nonce : BitVec 256) (hs : Kept init s) : Kept init (s.quote nonce) := by
  unfold State.quote
  split
  · exact State.out_kept _ _ hs
  · exact State.out_kept _ _ ⟨hs.1, hs.2.1, Nat.le_succ_of_le hs.2.2⟩

theorem State.keyload_kept (s : State) (k : Nat) (wrapped : BitVec 832) (hs : Kept init s) :
    Kept init (State.keyload s k wrapped) := by
  replace hs : KeptAt init s.mem s.fuseVersion s.xmssIndex := hs
  unfold State.keyload
  repeat' first
    | with_reducible assumption | with_reducible apply State.setKey_kept | split

theorem State.keyclr_kept (s : State) (k : Nat) (hs : Kept init s) :
    Kept init (State.keyclr s k) := hs

theorem State.watchdogExpire_kept (s : State) (c : Nat) (hs : Kept init s) :
    Kept init (State.watchdogExpire s c) := by
  replace hs : KeptAt init s.mem s.fuseVersion s.xmssIndex := hs
  unfold State.watchdogExpire
  try dsimp only
  repeat' first
    | with_reducible assumption | with_reducible apply State.freezeThreadT_kept | with_reducible apply State.bumpW_kept
    | with_reducible apply kept_ite | split | intro _

theorem State.spawnTakeover_kept (s : State) (f : Freeze) (hs : Kept init s) :
    Kept init (State.spawnTakeover s f) := by
  replace hs : KeptAt init s.mem s.fuseVersion s.xmssIndex := hs
  unfold State.spawnTakeover
  try dsimp only
  repeat' first
    | with_reducible assumption | with_reducible apply State.setThread_kept | with_reducible apply State.setWf_kept
    | with_reducible apply State.mapFreeze_kept | with_reducible apply State.takeover_kept | with_reducible apply getD_kept

theorem State.takeover_kept (s : State) (hs : Kept init s) :
    Kept init (State.takeover s) := by
  replace hs : KeptAt init s.mem s.fuseVersion s.xmssIndex := hs
  unfold State.takeover
  try dsimp only
  repeat' first
    | with_reducible assumption | with_reducible apply State.stopPair_kept | with_reducible apply State.spawnTakeover_kept
    | with_reducible apply kept_ite | split | intro _

theorem State.markBank_kept (s : State) (t : Nat) (k : Nat) (hs : Kept init s) :
    Kept init (State.markBank s t k) := by
  replace hs : KeptAt init s.mem s.fuseVersion s.xmssIndex := hs
  unfold State.markBank
  try dsimp only
  repeat' first
    | with_reducible assumption | with_reducible apply State.setTile_kept | with_reducible apply State.bumpW_kept
    | with_reducible apply kept_ite | intro _

theorem State.markShadow_kept (s : State) (t : Nat) (k : Nat) (hs : Kept init s) :
    Kept init (State.markShadow s t k) := by
  replace hs : KeptAt init s.mem s.fuseVersion s.xmssIndex := hs
  unfold State.markShadow
  try dsimp only
  repeat' first
    | with_reducible assumption | with_reducible apply State.setTile_kept | with_reducible apply State.bumpW_kept
    | with_reducible apply kept_ite | intro _

theorem State.scrubMark_kept (s : State) (m : Nat × Nat) (hs : Kept init s) :
    Kept init (State.scrubMark s m) := by
  replace hs : KeptAt init s.mem s.fuseVersion s.xmssIndex := hs
  unfold State.scrubMark
  try dsimp only
  repeat' first
    | with_reducible assumption | with_reducible apply State.setThread_kept | with_reducible apply State.setRegion_kept
    | with_reducible apply State.markBank_kept | with_reducible apply State.markShadow_kept | with_reducible apply kept_ite
    | intro _

theorem State.scrubCorrect_kept (s : State) (hs : Kept init s) :
    Kept init (State.scrubCorrect s) := by
  replace hs : KeptAt init s.mem s.fuseVersion s.xmssIndex := hs
  unfold State.scrubCorrect
  try dsimp only
  repeat' first
    | with_reducible assumption | with_reducible apply State.setThread_kept | with_reducible apply State.setTile_kept
    | with_reducible apply State.setRegion_kept | with_reducible apply State.bumpW_kept | with_reducible apply foldl_kept
    | intro _

theorem State.scrubStandby_kept (s : State) (hs : Kept init s) :
    Kept init (State.scrubStandby s) := by
  replace hs : KeptAt init s.mem s.fuseVersion s.xmssIndex := hs
  unfold State.scrubStandby
  try dsimp only
  repeat' first
    | with_reducible assumption | with_reducible apply State.setWf_kept | with_reducible apply State.irq_kept
    | with_reducible apply kept_ite | intro _

theorem State.scrub_kept (s : State) (ms : List (Nat × Nat)) (hs : Kept init s) :
    Kept init (State.scrub s ms) := by
  replace hs : KeptAt init s.mem s.fuseVersion s.xmssIndex := hs
  unfold State.scrub
  repeat' first
    | with_reducible assumption | with_reducible apply State.scrubMark_kept | with_reducible apply State.scrubCorrect_kept
    | with_reducible apply State.scrubStandby_kept | with_reducible apply foldl_kept | intro _

theorem State.reloadRemap_kept (s : State) (st : Nat) (hs : Kept init s) :
    Kept init (State.reloadRemap s st) := hs

theorem State.writeRepair_kept (s : State) (c : Nat) (v : Word) (hs : Kept init s) :
    Kept init (State.writeRepair s c v) := hs

theorem State.enterPower_kept (s : State) (hs : Kept init s) :
    Kept init (State.enterPower s) := by
  replace hs : KeptAt init s.mem s.fuseVersion s.xmssIndex := hs
  unfold State.enterPower
  try dsimp only
  repeat' first
    | with_reducible assumption | with_reducible apply foldl_kept | intro _

theorem State.mailbox_kept (s : State) (p : Nat) (hs : Kept init s) :
    Kept init (State.mailbox s p) := by
  replace hs : KeptAt init s.mem s.fuseVersion s.xmssIndex := hs
  unfold State.mailbox
  repeat' first
    | with_reducible assumption | with_reducible apply State.raiseP_kept | with_reducible apply State.wake_kept
    | with_reducible apply kept_ite | intro _

theorem State.bringUp_kept (s : State) (i : Nat) (hs : Kept init s) :
    Kept init (State.bringUp s i) := by
  replace hs : KeptAt init s.mem s.fuseVersion s.xmssIndex := hs
  unfold State.bringUp
  try dsimp only
  repeat' first
    | with_reducible assumption | with_reducible apply State.setWf_kept | with_reducible apply State.flushPort_kept
    | with_reducible apply kept_ite | intro _

theorem State.nestedKill_kept (s : State) (f : Freeze) (t : Nat) (hs : Kept init s) :
    Kept init (State.nestedKill s f t) := by
  replace hs : KeptAt init s.mem s.fuseVersion s.xmssIndex := hs
  unfold State.nestedKill
  try dsimp only
  repeat' first
    | with_reducible assumption | with_reducible apply State.mapFreeze_kept | with_reducible apply State.report_kept
    | with_reducible apply State.countFailure_kept | with_reducible apply State.killPartition_kept

theorem State.grantRecord_kept (s : State) (serial : Nat) (hs : Kept init s) :
    Kept init (State.grantRecord s serial) := by
  replace hs : KeptAt init s.mem s.fuseVersion s.xmssIndex := hs
  unfold State.grantRecord
  repeat' first
    | with_reducible assumption | with_reducible apply State.mapFreeze_kept | with_reducible apply State.nestedKill_kept
    | with_reducible apply kept_ite | split | intro _

theorem State.stopCtx_kept (s : State) (t : Nat) (hs : Kept init s) :
    Kept init (State.stopCtx s t) := by
  replace hs : KeptAt init s.mem s.fuseVersion s.xmssIndex := hs
  unfold State.stopCtx
  try dsimp only
  repeat' first
    | with_reducible assumption | with_reducible apply State.setThread_kept | split

theorem State.poolIsFull_kept (s : State) (serial : Nat) (hs : Kept init s) :
    Kept init (State.poolIsFull s serial) := by
  replace hs : KeptAt init s.mem s.fuseVersion s.xmssIndex := hs
  unfold State.poolIsFull
  try dsimp only
  repeat' first
    | with_reducible assumption | with_reducible apply State.latchFreeze_kept | with_reducible apply State.stopRegion_kept
    | with_reducible apply State.irq_kept | with_reducible apply State.stopCtx_kept | with_reducible apply foldl_kept
    | with_reducible apply kept_ite | split | intro _

theorem State.spawnHandler_kept (s : State) (d : Nat) (hs : Kept init s) :
    Kept init (State.spawnHandler s d) := by
  replace hs : KeptAt init s.mem s.fuseVersion s.xmssIndex := hs
  unfold State.spawnHandler
  repeat' first
    | with_reducible assumption | with_reducible apply State.setThread_kept | with_reducible apply State.mapFreeze_kept
    | with_reducible apply State.report_kept | split

theorem State.deadlineReport_kept (s : State) (serial : Nat) (hs : Kept init s) :
    Kept init (State.deadlineReport s serial) := by
  replace hs : KeptAt init s.mem s.fuseVersion s.xmssIndex := hs
  unfold State.deadlineReport
  repeat' first
    | with_reducible assumption | with_reducible apply State.raise_kept | with_reducible apply State.report_kept
    | with_reducible apply kept_ite | split | intro _

theorem State.spawnService_kept (s : State) (id : Nat) (hs : Kept init s) :
    Kept init (State.spawnService s id) := by
  replace hs : KeptAt init s.mem s.fuseVersion s.xmssIndex := hs
  unfold State.spawnService
  try dsimp only
  repeat' first
    | with_reducible assumption | with_reducible apply State.setThread_kept | with_reducible apply State.setWf_kept
    | with_reducible apply State.taskStarts_kept | with_reducible apply kept_ite | split | intro _

theorem State.arcDenial_kept (s : State) (id : Nat) (gateway : Bool) (hs : Kept init s) :
    Kept init (State.arcDenial s id gateway) := by
  replace hs : KeptAt init s.mem s.fuseVersion s.xmssIndex := hs
  unfold State.arcDenial
  repeat' first
    | with_reducible assumption | with_reducible apply State.gateway_kept | with_reducible apply State.settleRoute_kept
    | with_reducible apply State.arcDenied_kept | with_reducible apply State.dropWrite_kept | with_reducible apply kept_ite
    | split | intro _

theorem State.lineLost_kept (s : State) (d : Nat) (w : PWrite) (cause : Nat) (hs : Kept init s) :
    Kept init (State.lineLost s d w cause) := by
  replace hs : KeptAt init s.mem s.fuseVersion s.xmssIndex := hs
  unfold State.lineLost
  repeat' first
    | with_reducible assumption | with_reducible apply State.settleRoute_kept | with_reducible apply State.dropWrite_kept
    | with_reducible apply State.hearDenial_kept

theorem State.giveUp_kept (s : State) (id : Nat) (why : LineTrouble) (hs : Kept init s) :
    Kept init (State.giveUp s id why) := by
  replace hs : KeptAt init s.mem s.fuseVersion s.xmssIndex := hs
  unfold State.giveUp
  try dsimp only
  repeat' first
    | with_reducible assumption | with_reducible apply State.out_kept | with_reducible apply State.replay_kept
    | with_reducible apply State.lineLost_kept | with_reducible apply kept_ite | split | intro _

theorem State.putImage_kept (s : State) (pa : Nat) (d : ImageDecl) (hs : Kept init s) :
    Kept init (State.putImage s pa d) := by
  replace hs : KeptAt init s.mem s.fuseVersion s.xmssIndex := hs
  unfold State.putImage
  repeat' first
    | with_reducible assumption | with_reducible apply State.storeBytes_kept

theorem State.reportRefusal_kept (s : State) (index : Nat) (y0 : List Finding) (hs : Kept init s) :
    Kept init (State.reportRefusal s index y0) := by
  induction y0 generalizing s with
  | nil => exact hs
  | cons f fs ih => exact ih _ (State.out_kept _ _ hs)

theorem State.loadImage_kept (s : State) (index : Nat) (pa : Nat) (d : ImageDecl) (hs : Kept init s) :
    Kept init (State.loadImage s index pa d) := by
  replace hs : KeptAt init s.mem s.fuseVersion s.xmssIndex := hs
  unfold State.loadImage
  try dsimp only
  repeat' first
    | with_reducible assumption | with_reducible apply State.putImage_kept | with_reducible apply State.reportRefusal_kept
    | split

theorem storeRow_kept (s : State) (pa : Nat) (r : Option State) (hr : KeepsO init r) (hs : Kept init s) :
    Keeps init (storeRow s pa r) := by
  unfold storeRow
  split
  · exact keeps_next (hr _ rfl)
  · exact keeps_next (State.freezeThread_kept _ _ _ _ hs)
  · exact keeps_next hs

theorem unitRow_kept (s : State) (ok : Bool) (f : State) (hs : Kept init s) (hf : Kept init f) :
    Keeps init (unitRow s ok f) := by
  replace hs : KeptAt init s.mem s.fuseVersion s.xmssIndex := hs
  replace hf : KeptAt init f.mem f.fuseVersion f.xmssIndex := hf
  unfold unitRow
  try dsimp only
  repeat' first
    | with_reducible assumption | with_reducible apply foldl_kept | with_reducible apply keepsO_some
    | with_reducible apply getD_kept | with_reducible apply keepsO_none | with_reducible apply keeps_next
    | with_reducible apply keeps_fault | with_reducible apply keepsE_ok | with_reducible apply keepsE_error
    | with_reducible apply foldl_kept1 | with_reducible apply keepsO_ite | with_reducible apply keeps_ite
    | with_reducible apply kept_ite | dsimp only | split | with_reducible apply keepsO_mapO
    | with_reducible apply keepsO_map | with_reducible (refine kept_of_pair ?_ (by assumption))
    | with_reducible (refine kept_of_some ?_ (by assumption)) | with_reducible (refine kept_of_ok ?_ (by assumption))
    | with_reducible (refine kept_of_pair2 ?_ (by assumption)) | intro _

theorem checkedRow_kept (s : State) (pa : Nat) (c : Option Nat) (r : Option State) (hr : KeepsO init r)
    (hs : Kept init s) : Keeps init (checkedRow s pa c r) := by
  unfold checkedRow
  split
  · exact keeps_next (State.freezeThread_kept _ _ _ _ hs)
  · exact storeRow_kept _ _ _ hr hs

theorem windowRow_kept (s : State) (pa : Nat) (v : Word) (hs : Kept init s) : Keeps init (windowRow s pa v) :=
  checkedRow_kept s pa (s.rowCause pa) _ (State.regStore_kept _ _ _ _ hs) hs

theorem State.windowDeadline_kept (s : State) (p : Nat) (n : Nat) (hs : Kept init s) :
    Kept init (State.windowDeadline s p n) := by
  replace hs : KeptAt init s.mem s.fuseVersion s.xmssIndex := hs
  unfold State.windowDeadline
  repeat' first
    | with_reducible assumption | with_reducible apply State.closeWindow_kept | with_reducible apply kept_ite | split
    | intro _

theorem State.goTest_kept (s : State) (c : Nat) (dir : Bool) (hs : Kept init s) :
    Kept init (State.goTest s c dir) := by
  replace hs : KeptAt init s.mem s.fuseVersion s.xmssIndex := hs
  unfold State.goTest
  repeat' first
    | with_reducible assumption | with_reducible apply State.setWf_kept | with_reducible apply State.refuseGo_kept
    | with_reducible apply State.startTest_kept | with_reducible apply kept_ite | intro _

theorem State.freezeFetch_kept (s : State) (t : Nat) (cause : Nat) (hs : Kept init s) :
    Kept init (State.freezeFetch s t cause) := by
  replace hs : KeptAt init s.mem s.fuseVersion s.xmssIndex := hs
  unfold State.freezeFetch
  repeat' first
    | with_reducible assumption | with_reducible apply State.freezeThread_kept | with_reducible apply State.bumpW_kept
    | with_reducible apply kept_ite | intro _

theorem State.healReg_kept (s : State) (t : Nat) (i : Instr) (hs : Kept init s) :
    Kept init (State.healReg s t i) := by
  replace hs : KeptAt init s.mem s.fuseVersion s.xmssIndex := hs
  unfold State.healReg
  try dsimp only
  repeat' first
    | with_reducible assumption | with_reducible apply State.setThread_kept | with_reducible apply kept_ite | intro _

theorem State.refreeze_kept (s : State) (t : Nat) (h : Nat) (v : Word) (hs : Kept init s) :
    Kept init (State.refreeze s t h v) := by
  replace hs : KeptAt init s.mem s.fuseVersion s.xmssIndex := hs
  unfold State.refreeze
  try dsimp only
  repeat' first
    | with_reducible assumption | with_reducible apply State.setThread_kept | with_reducible apply State.stepResult_kept
    | with_reducible apply State.spend_kept | with_reducible apply foldl_kept | split | intro _

theorem State.stepFinish_kept (s : State) (t : Nat) (by_ : Option Nat) (hs : Kept init s) :
    Kept init (State.stepFinish s t by_) := by
  replace hs : KeptAt init s.mem s.fuseVersion s.xmssIndex := hs
  unfold State.stepFinish
  try dsimp only
  repeat' first
    | with_reducible assumption | with_reducible apply State.setThread_kept | with_reducible apply State.fstep_kept
    | with_reducible apply State.refreeze_kept | with_reducible apply kept_ite | split | intro _

theorem State.markStep_kept (s0 : State) (t : Nat) (hs0 : Kept init s0) :
    Kept init (State.markStep s0 t) := by
  replace hs0 : KeptAt init s0.mem s0.fuseVersion s0.xmssIndex := hs0
  unfold State.markStep
  try dsimp only
  repeat' first
    | with_reducible assumption | with_reducible apply State.setThread_kept | with_reducible apply State.bumpW_kept
    | with_reducible apply kept_ite | intro _

theorem State.afterInstr_kept (s : State) (t : Nat) (i : Instr) (by_ : Option Nat) (hs : Kept init s) :
    Kept init (State.afterInstr s t i by_) := by
  replace hs : KeptAt init s.mem s.fuseVersion s.xmssIndex := hs
  unfold State.afterInstr
  repeat' first
    | with_reducible assumption | with_reducible apply State.healReg_kept | with_reducible apply State.stepFinish_kept

theorem State.takeReplies_kept (s : State) (t : Nat) (hs : Kept init s) :
    Kept init (State.takeReplies s t) := by
  replace hs : KeptAt init s.mem s.fuseVersion s.xmssIndex := hs
  unfold State.takeReplies
  repeat' first
    | with_reducible assumption | with_reducible apply State.drainLoads_kept

theorem State.threadTurn_kept (s : State) (t : Nat)
    (hx : ∀ i u, Kept init u → Keeps init (exec i u)) (hs : Kept init s) : Keeps init (s.threadTurn t) := by
  have hd := State.drainLoads_kept s t (s.thread t).loads.length hs
  have hr : ∀ h, Kept init ((s.drainLoads t (s.thread t).loads.length).refreeze t h 0) :=
    fun h => State.refreeze_kept _ _ _ _ hd
  unfold State.threadTurn
  dsimp only
  split
  · exact keeps_next hd
  · split
    · split
      · split
        · exact keeps_next (hr _)
        · exact keeps_next hd
      · exact keeps_next hd
    · split
      · exact keeps_next hd
      · exact keeps_next (State.freezeFetch_kept _ _ _ hd)
      · have hm := State.markStep_kept { s.drainLoads t (s.thread t).loads.length with cur := .thread t } t hd
        split
        · rename_i u e
          exact keeps_next (kept_ite (fun _ => hd) fun _ => State.afterInstr_kept u _ _ _ (hx _ _ hm u e))
        · exact keeps_fault _
        · exact keeps_refused _

theorem State.badWord_kept (s : State) (r : Nat) (t : Nat) (row : Nat) (iter : Nat) (cause : Nat) (hs : Kept init s) :
    Kept init (State.badWord s r t row iter cause) := hs

theorem State.badMask_kept (s : State) (r : Nat) (t : Nat) (row : Nat) (iter : Nat) (slot : Nat) (hs : Kept init s) :
    Kept init (State.badMask s r t row iter slot) := by
  replace hs : KeptAt init s.mem s.fuseVersion s.xmssIndex := hs
  unfold State.badMask
  repeat' first
    | with_reducible assumption | with_reducible apply State.bumpW_kept | with_reducible apply State.sendTokens_kept

theorem State.slotTurn_kept (s : State) (r t row iter which : Nat)
    (hx : ∀ i u, Kept init u → Keeps init (exec i u)) (hs : Kept init s) :
    Keeps init (s.slotTurn r t row iter which) := by
  unfold State.slotTurn
  split
  · exact keeps_next hs
  · split
    · exact keeps_next hs
    · exact keeps_next (State.badWord_kept _ _ _ _ _ _ hs)
    · exact keeps_next (State.badMask_kept _ _ _ _ _ _ hs)
    · exact hx _ _ hs

theorem State.clearLatches_kept (s : State) (r : Nat) (hs : Kept init s) :
    Kept init (State.clearLatches s r) := by
  replace hs : KeptAt init s.mem s.fuseVersion s.xmssIndex := hs
  unfold State.clearLatches
  try dsimp only
  repeat' first
    | with_reducible assumption | with_reducible apply State.mapTiles_kept | with_reducible apply getD_kept | split

theorem State.regionSelect_kept (s : State) (r : Nat) (hs : Kept init s) :
    Kept init (State.regionSelect s r) := by
  replace hs : KeptAt init s.mem s.fuseVersion s.xmssIndex := hs
  unfold State.regionSelect
  try dsimp only
  repeat' first
    | with_reducible assumption | with_reducible apply State.setRegion_kept | with_reducible apply State.bumpW_kept
    | with_reducible apply State.clearLatches_kept | with_reducible apply kept_ite | split | intro _

theorem State.genSteps_kept (s : State) (r : Nat) (t : Nat) (hs : Kept init s) :
    Kept init (State.genSteps s r t) := by
  replace hs : KeptAt init s.mem s.fuseVersion s.xmssIndex := hs
  unfold State.genSteps
  try dsimp only
  repeat' first
    | with_reducible assumption | with_reducible apply State.setTile_kept | with_reducible apply State.sendTokens_kept
    | with_reducible apply foldl_kept | intro _

theorem State.countCorrected_kept (s : State) (ts : List Nat) (hs : Kept init s) :
    Kept init (State.countCorrected s ts) := by
  replace hs : KeptAt init s.mem s.fuseVersion s.xmssIndex := hs
  unfold State.countCorrected
  try dsimp only
  repeat' first
    | with_reducible assumption | with_reducible apply State.setTile_kept | with_reducible apply State.bumpW_kept
    | with_reducible apply foldl_kept | with_reducible apply kept_ite | split | intro _

theorem State.regionTick_kept (s : State) (r : Nat) (hs : Kept init s) :
    Kept init (State.regionTick s r) := by
  replace hs : KeptAt init s.mem s.fuseVersion s.xmssIndex := hs
  unfold State.regionTick
  try dsimp only
  repeat' first
    | with_reducible assumption | with_reducible apply State.setRegion_kept | with_reducible apply State.mapTiles_kept
    | with_reducible apply State.sendTokens_kept | with_reducible apply State.genSteps_kept
    | with_reducible apply State.countCorrected_kept | with_reducible apply foldl_kept | with_reducible apply kept_ite
    | split | intro _

theorem State.hostWrite_kept (s : State) (link : Nat) (p : Nat) (pa : Nat) (data : List Byte) (hs : Kept init s) :
    Kept init (State.hostWrite s link p pa data) := by
  replace hs : KeptAt init s.mem s.fuseVersion s.xmssIndex := hs
  unfold State.hostWrite
  repeat' first
    | with_reducible assumption | with_reducible apply State.storeBytes_kept | with_reducible apply State.issue_kept
    | with_reducible apply State.hostAbort_kept | with_reducible apply State.store_kept | with_reducible apply kept_ite
    | split | intro _

theorem State.hostRead_kept (s : State) (link : Nat) (p : Nat) (pa : Nat) (n : Nat) (hs : Kept init s) :
    Kept init (State.hostRead s link p pa n) := by
  replace hs : KeptAt init s.mem s.fuseVersion s.xmssIndex := hs
  unfold State.hostRead
  try dsimp only
  repeat' first
    | with_reducible assumption | with_reducible apply State.out_kept | with_reducible apply State.hostAbort_kept
    | with_reducible apply State.defer_kept | with_reducible apply State.serveLine_kept | with_reducible apply kept_ite
    | intro _

theorem State.recWrite_kept (s : State) (off : Nat) (data : List Byte) (hs : Kept init s) :
    Kept init (State.recWrite s off data) := by
  replace hs : KeptAt init s.mem s.fuseVersion s.xmssIndex := hs
  unfold State.recWrite
  try dsimp only
  repeat' first
    | with_reducible assumption | with_reducible apply kept_ite | intro _

theorem State.barWrite_kept (s : State) (link : Nat) (off : Nat) (v : Word) (hs : Kept init s) :
    Kept init (State.barWrite s link off v) := by
  replace hs : KeptAt init s.mem s.fuseVersion s.xmssIndex := hs
  unfold State.barWrite
  repeat' first
    | with_reducible assumption | with_reducible apply State.hostKick_kept | with_reducible apply State.defer_kept
    | with_reducible apply State.wake_kept | with_reducible apply State.recgo_kept
    | with_reducible apply State.recWrite_kept | with_reducible apply kept_ite | intro _

theorem State.barRead_kept (s : State) (link off : Nat) (hs : Kept init s) : Kept init (State.barRead s link off) :=
  State.out_kept _ _ hs

theorem State.upsetLatch_kept (s : State) (t : Nat) (i : Nat) (k : Nat) (hs : Kept init s) :
    Kept init (State.upsetLatch s t i k) := by
  replace hs : KeptAt init s.mem s.fuseVersion s.xmssIndex := hs
  unfold State.upsetLatch
  try dsimp only
  repeat' first
    | with_reducible assumption | with_reducible apply State.setTile_kept | with_reducible apply kept_ite | split
    | intro _

theorem State.upset_kept (s : State) (kind : Nat) (unit : Nat) (key : Nat) (hs : Kept init s) :
    Kept init (State.upset s kind unit key) := by
  replace hs : KeptAt init s.mem s.fuseVersion s.xmssIndex := hs
  unfold State.upset
  try dsimp only
  repeat' first
    | with_reducible assumption | with_reducible apply State.setThread_kept | with_reducible apply State.setTile_kept
    | with_reducible apply State.setRegion_kept | with_reducible apply State.setW_kept
    | with_reducible apply State.bumpW_kept | with_reducible apply State.journalEnd_kept
    | with_reducible apply State.markBank_kept | with_reducible apply State.markShadow_kept
    | with_reducible apply State.upsetLatch_kept | with_reducible apply kept_ite | split | intro _

theorem State.pick_kept (s : State) (xs : List Turn) (hs : Kept init s) :
    Kept init (s.pick xs).1 := by
  induction xs generalizing s with
  | nil => exact hs
  | cons x xs ih => exact ih _ hs

theorem State.coreTurn_kept (s : State) (k : Nat) (hs : Kept init s) :
    Kept init (State.coreTurn s k).1 := by
  replace hs : KeptAt init s.mem s.fuseVersion s.xmssIndex := hs
  unfold State.coreTurn
  try dsimp only
  repeat' first
    | with_reducible assumption | split

theorem State.threadTurns_kept (s : State) (hs : Kept init s) :
    Kept init (State.threadTurns s).1 := by
  replace hs : KeptAt init s.mem s.fuseVersion s.xmssIndex := hs
  unfold State.threadTurns
  try dsimp only
  repeat' first
    | with_reducible assumption | with_reducible apply State.coreTurn_kept | with_reducible apply foldl_kept
    | with_reducible apply foldl_kept1 | intro _

theorem State.engineTurn_kept (s : State) (e : Nat) (hs : Kept init s) :
    Kept init (State.engineTurn s e).1 := by
  replace hs : KeptAt init s.mem s.fuseVersion s.xmssIndex := hs
  unfold State.engineTurn
  try dsimp only
  repeat' first
    | with_reducible assumption | with_reducible apply State.copyStart_kept | split | intro _

theorem State.copyTurns_kept (s : State) (hs : Kept init s) :
    Kept init (State.copyTurns s).1 := by
  replace hs : KeptAt init s.mem s.fuseVersion s.xmssIndex := hs
  unfold State.copyTurns
  try dsimp only
  repeat' first
    | with_reducible assumption | with_reducible apply State.copyDone_kept | with_reducible apply State.engineTurn_kept
    | with_reducible apply foldl_kept | with_reducible apply foldl_kept1 | split | intro _

theorem State.newCycle_kept (s0 : State) (hs0 : Kept init s0) :
    Kept init (State.newCycle s0) := by
  replace hs0 : KeptAt init s0.mem s0.fuseVersion s0.xmssIndex := hs0
  unfold State.newCycle
  try dsimp only
  repeat' first
    | with_reducible assumption | with_reducible apply State.pick_kept | with_reducible apply State.threadTurns_kept
    | with_reducible apply State.copyTurns_kept | with_reducible apply kept_ite | intro _

theorem State.hubTurn_kept (s : State) (y0 : Turn) (hs : Kept init s) :
    Kept init (State.hubTurn s y0) := by
  replace hs : KeptAt init s.mem s.fuseVersion s.xmssIndex := hs
  unfold State.hubTurn
  repeat' first
    | with_reducible assumption | with_reducible apply State.regionTokens_kept
    | with_reducible apply State.gatewayRefill_kept | with_reducible apply State.report_kept
    | with_reducible apply State.request_kept | with_reducible apply State.lineArrive_kept
    | with_reducible apply State.arcRecord_kept | with_reducible apply State.creditArrive_kept
    | with_reducible apply State.runoffArrive_kept | with_reducible apply State.recordArrive_kept
    | with_reducible apply State.atomicArrive_kept | with_reducible apply State.repairStart_kept
    | with_reducible apply State.repairDone_kept | with_reducible apply State.copyStart_kept
    | with_reducible apply State.copyDone_kept | with_reducible apply State.resend_kept
    | with_reducible apply State.reply_kept | with_reducible apply State.clearLoad_kept
    | with_reducible apply State.memoryReply_kept | with_reducible apply State.homePerform_kept
    | with_reducible apply State.writeAck_kept | with_reducible apply State.sendAgain_kept
    | with_reducible apply State.fenceComplete_kept | with_reducible apply State.seqw_kept
    | with_reducible apply State.seqwRelease_kept | with_reducible apply State.seqwTimeout_kept
    | with_reducible apply State.issueRecord_kept | with_reducible apply State.refreshDynamic_kept
    | with_reducible apply State.waitev_kept | with_reducible apply State.waitevRelease_kept
    | with_reducible apply State.tlwt_kept | with_reducible apply State.tlwtRelease_kept
    | with_reducible apply State.tlwtTimeout_kept | with_reducible apply State.foldComplete_kept
    | with_reducible apply State.condset_kept | with_reducible apply State.condsetRelease_kept
    | with_reducible apply State.iterwt_kept | with_reducible apply State.iterwtRelease_kept
    | with_reducible apply State.partTick_kept | with_reducible apply State.weirFire_kept
    | with_reducible apply State.commStep_kept | with_reducible apply State.firingDone_kept
    | with_reducible apply State.popCondition_kept | with_reducible apply State.retirement_kept
    | with_reducible apply State.frameStart_kept | with_reducible apply State.arcTimeout_kept
    | with_reducible apply State.drainlim_kept | with_reducible apply State.preemptKill_kept
    | with_reducible apply State.checkpoint_kept | with_reducible apply State.restoreNow_kept
    | with_reducible apply State.thermalFreeze_kept | with_reducible apply State.wake_kept
    | with_reducible apply State.testDone_kept | with_reducible apply State.watchdogExpire_kept
    | with_reducible apply State.takeover_kept | with_reducible apply State.grantRecord_kept
    | with_reducible apply State.poolIsFull_kept | with_reducible apply State.spawnHandler_kept
    | with_reducible apply State.deadlineReport_kept | with_reducible apply State.spawnService_kept
    | with_reducible apply State.giveUp_kept | with_reducible apply State.windowDeadline_kept
    | with_reducible apply State.takeReplies_kept | with_reducible apply State.regionSelect_kept
    | with_reducible apply State.regionTick_kept | with_reducible apply State.hostWrite_kept
    | with_reducible apply State.hostRead_kept | with_reducible apply State.recWrite_kept
    | with_reducible apply State.barWrite_kept | with_reducible apply State.barRead_kept
    | with_reducible apply State.upset_kept | with_reducible apply foldl_kept | split | intro _

theorem State.placeCode_kept (s : State) (t : Nat) (k : Kind) (w : Nat) (hs : Kept init s) :
    Kept init (State.placeCode s t k w) := by
  replace hs : KeptAt init s.mem s.fuseVersion s.xmssIndex := hs
  unfold State.placeCode
  try dsimp only
  repeat' first
    | with_reducible assumption | with_reducible apply State.setThread_kept | with_reducible apply State.setWf_kept
    | with_reducible apply State.takeover_kept | with_reducible apply kept_ite | intro _

theorem State.placeRow_kept (s : State) (w : Nat) (which : Nat) (hs : Kept init s) :
    Kept init (State.placeRow s w which) := hs

theorem State.placeWord_kept (s : State) (w : Nat) (hs : Kept init s) :
    Kept init (State.placeWord s w) := by
  replace hs : KeptAt init s.mem s.fuseVersion s.xmssIndex := hs
  unfold State.placeWord
  try dsimp only
  repeat' first
    | with_reducible assumption | with_reducible apply State.placeCode_kept | with_reducible apply State.placeRow_kept
    | with_reducible apply kept_ite | split | intro _

theorem State.withFetchWord_kept (s : State) (_nbits : Nat) (w : Nat) (hs : Kept init s) :
    Kept init (State.withFetchWord s _nbits w) := by
  replace hs : KeptAt init s.mem s.fuseVersion s.xmssIndex := hs
  unfold State.withFetchWord
  repeat' first
    | with_reducible assumption | with_reducible apply State.placeWord_kept

end Sys2Proof.Machine
end

