-- ==== Sys2Proof/Laws/State.lean ====
section
/-! SUPPORT. What each update of State leaves as it was, field by field, and what the accessors read after it. -/

namespace Sys2Proof.Machine

/-! ## setThread -/

@[simp] theorem State.free_setThread (s : State) (t : Nat) (T : Thread) : (s.setThread t T).free = s.free := rfl
@[simp] theorem State.cur_setThread (s : State) (t : Nat) (T : Thread) : (s.setThread t T).cur = s.cur := rfl
@[simp] theorem State.agenda_setThread (s : State) (t : Nat) (T : Thread) : (s.setThread t T).agenda = s.agenda := rfl
@[simp] theorem State.inbox_setThread (s : State) (t : Nat) (T : Thread) : (s.setThread t T).inbox = s.inbox := rfl
@[simp] theorem State.outbox_setThread (s : State) (t : Nat) (T : Thread) : (s.setThread t T).outbox = s.outbox := rfl
@[simp] theorem State.irqs_setThread (s : State) (t : Nat) (T : Thread) : (s.setThread t T).irqs = s.irqs := rfl
@[simp] theorem State.hist_setThread (s : State) (t : Nat) (T : Thread) : (s.setThread t T).hist = s.hist := rfl
@[simp] theorem State.nextId_setThread (s : State) (t : Nat) (T : Thread) : (s.setThread t T).nextId = s.nextId := rfl
@[simp] theorem State.now_setThread (s : State) (t : Nat) (T : Thread) : (s.setThread t T).now = s.now := rfl
@[simp] theorem State.mem_setThread (s : State) (t : Nat) (T : Thread) : (s.setThread t T).mem = s.mem := rfl
@[simp] theorem State.win_setThread (s : State) (t : Nat) (T : Thread) : (s.setThread t T).win = s.win := rfl
@[simp] theorem State.writes_setThread (s : State) (t : Nat) (T : Thread) : (s.setThread t T).writes = s.writes := rfl
@[simp] theorem State.cipher_setThread (s : State) (t : Nat) (T : Thread) : (s.setThread t T).cipher = s.cipher := rfl
@[simp] theorem State.hbmErr_setThread (s : State) (t : Nat) (T : Thread) : (s.setThread t T).hbmErr = s.hbmErr := rfl
@[simp] theorem State.rr_setThread (s : State) (t : Nat) (T : Thread) : (s.setThread t T).rr = s.rr := rfl
@[simp] theorem State.tiles_setThread (s : State) (t : Nat) (T : Thread) : (s.setThread t T).tiles = s.tiles := rfl
@[simp] theorem State.regions_setThread (s : State) (t : Nat) (T : Thread) :
    (s.setThread t T).regions = s.regions := rfl
@[simp] theorem State.parts_setThread (s : State) (t : Nat) (T : Thread) : (s.setThread t T).parts = s.parts := rfl
@[simp] theorem State.chains_setThread (s : State) (t : Nat) (T : Thread) : (s.setThread t T).chains = s.chains := rfl
@[simp] theorem State.twes_setThread (s : State) (t : Nat) (T : Thread) : (s.setThread t T).twes = s.twes := rfl
@[simp] theorem State.chans_setThread (s : State) (t : Nat) (T : Thread) : (s.setThread t T).chans = s.chans := rfl
@[simp] theorem State.windows_setThread (s : State) (t : Nat) (T : Thread) :
    (s.setThread t T).windows = s.windows := rfl
@[simp] theorem State.ports_setThread (s : State) (t : Nat) (T : Thread) : (s.setThread t T).ports = s.ports := rfl
@[simp] theorem State.keys_setThread (s : State) (t : Nat) (T : Thread) : (s.setThread t T).keys = s.keys := rfl
@[simp] theorem State.gwAllow_setThread (s : State) (t : Nat) (T : Thread) :
    (s.setThread t T).gwAllow = s.gwAllow := rfl
@[simp] theorem State.credits_setThread (s : State) (t : Nat) (T : Thread) :
    (s.setThread t T).credits = s.credits := rfl
@[simp] theorem State.tagFails_setThread (s : State) (t : Nat) (T : Thread) :
    (s.setThread t T).tagFails = s.tagFails := rfl
@[simp] theorem State.rx_setThread (s : State) (t : Nat) (T : Thread) : (s.setThread t T).rx = s.rx := rfl
@[simp] theorem State.rxSeq_setThread (s : State) (t : Nat) (T : Thread) : (s.setThread t T).rxSeq = s.rxSeq := rfl
@[simp] theorem State.arcBad_setThread (s : State) (t : Nat) (T : Thread) : (s.setThread t T).arcBad = s.arcBad := rfl
@[simp] theorem State.arcLost_setThread (s : State) (t : Nat) (T : Thread) :
    (s.setThread t T).arcLost = s.arcLost := rfl
@[simp] theorem State.oldPort_setThread (s : State) (t : Nat) (T : Thread) :
    (s.setThread t T).oldPort = s.oldPort := rfl
@[simp] theorem State.counters_setThread (s : State) (t : Nat) (T : Thread) :
    (s.setThread t T).counters = s.counters := rfl
@[simp] theorem State.deps_setThread (s : State) (t : Nat) (T : Thread) : (s.setThread t T).deps = s.deps := rfl
@[simp] theorem State.depTask_setThread (s : State) (t : Nat) (T : Thread) :
    (s.setThread t T).depTask = s.depTask := rfl
@[simp] theorem State.tasks_setThread (s : State) (t : Nat) (T : Thread) : (s.setThread t T).tasks = s.tasks := rfl
@[simp] theorem State.qread_setThread (s : State) (t : Nat) (T : Thread) : (s.setThread t T).qread = s.qread := rfl
@[simp] theorem State.kicked_setThread (s : State) (t : Nat) (T : Thread) : (s.setThread t T).kicked = s.kicked := rfl
@[simp] theorem State.events_setThread (s : State) (t : Nat) (T : Thread) : (s.setThread t T).events = s.events := rfl
@[simp] theorem State.fresh_setThread (s : State) (t : Nat) (T : Thread) : (s.setThread t T).fresh = s.fresh := rfl
@[simp] theorem State.launchSerial_setThread (s : State) (t : Nat) (T : Thread) :
    (s.setThread t T).launchSerial = s.launchSerial := rfl
@[simp] theorem State.freezeSerial_setThread (s : State) (t : Nat) (T : Thread) :
    (s.setThread t T).freezeSerial = s.freezeSerial := rfl
@[simp] theorem State.taskSerial_setThread (s : State) (t : Nat) (T : Thread) :
    (s.setThread t T).taskSerial = s.taskSerial := rfl
@[simp] theorem State.journalSerial_setThread (s : State) (t : Nat) (T : Thread) :
    (s.setThread t T).journalSerial = s.journalSerial := rfl
@[simp] theorem State.watchdog_setThread (s : State) (t : Nat) (T : Thread) :
    (s.setThread t T).watchdog = s.watchdog := rfl
@[simp] theorem State.freezes_setThread (s : State) (t : Nat) (T : Thread) :
    (s.setThread t T).freezes = s.freezes := rfl
@[simp] theorem State.heldAcc_setThread (s : State) (t : Nat) (T : Thread) :
    (s.setThread t T).heldAcc = s.heldAcc := rfl
@[simp] theorem State.images_setThread (s : State) (t : Nat) (T : Thread) : (s.setThread t T).images = s.images := rfl
@[simp] theorem State.stagedPa_setThread (s : State) (t : Nat) (T : Thread) :
    (s.setThread t T).stagedPa = s.stagedPa := rfl
@[simp] theorem State.folds_setThread (s : State) (t : Nat) (T : Thread) : (s.setThread t T).folds = s.folds := rfl
@[simp] theorem State.snaps_setThread (s : State) (t : Nat) (T : Thread) : (s.setThread t T).snaps = s.snaps := rfl
@[simp] theorem State.snapAt_setThread (s : State) (t : Nat) (T : Thread) : (s.setThread t T).snapAt = s.snapAt := rfl
@[simp] theorem State.remap_setThread (s : State) (t : Nat) (T : Thread) : (s.setThread t T).remap = s.remap := rfl
@[simp] theorem State.repairRec_setThread (s : State) (t : Nat) (T : Thread) :
    (s.setThread t T).repairRec = s.repairRec := rfl
@[simp] theorem State.settle_setThread (s : State) (t : Nat) (T : Thread) : (s.setThread t T).settle = s.settle := rfl
@[simp] theorem State.powerState_setThread (s : State) (t : Nat) (T : Thread) :
    (s.setThread t T).powerState = s.powerState := rfl
@[simp] theorem State.powered_setThread (s : State) (t : Nat) (T : Thread) :
    (s.setThread t T).powered = s.powered := rfl
@[simp] theorem State.flash_setThread (s : State) (t : Nat) (T : Thread) : (s.setThread t T).flash = s.flash := rfl
@[simp] theorem State.recovery_setThread (s : State) (t : Nat) (T : Thread) :
    (s.setThread t T).recovery = s.recovery := rfl
@[simp] theorem State.recoveryWait_setThread (s : State) (t : Nat) (T : Thread) :
    (s.setThread t T).recoveryWait = s.recoveryWait := rfl
@[simp] theorem State.hostAborts_setThread (s : State) (t : Nat) (T : Thread) :
    (s.setThread t T).hostAborts = s.hostAborts := rfl
@[simp] theorem State.fuseVersion_setThread (s : State) (t : Nat) (T : Thread) :
    (s.setThread t T).fuseVersion = s.fuseVersion := rfl
@[simp] theorem State.xmssIndex_setThread (s : State) (t : Nat) (T : Thread) :
    (s.setThread t T).xmssIndex = s.xmssIndex := rfl
@[simp] theorem State.measLog_setThread (s : State) (t : Nat) (T : Thread) :
    (s.setThread t T).measLog = s.measLog := rfl
@[simp] theorem State.booting_setThread (s : State) (t : Nat) (T : Thread) :
    (s.setThread t T).booting = s.booting := rfl
@[simp] theorem State.svn_setThread (s : State) (t : Nat) (T : Thread) : (s.setThread t T).svn = s.svn := rfl
@[simp] theorem State.cdHot_setThread (s : State) (t : Nat) (T : Thread) : (s.setThread t T).cdHot = s.cdHot := rfl
@[simp] theorem State.cdSamples_setThread (s : State) (t : Nat) (T : Thread) :
    (s.setThread t T).cdSamples = s.cdSamples := rfl
@[simp] theorem State.flashEnd_setThread (s : State) (t : Nat) (T : Thread) :
    (s.setThread t T).flashEnd = s.flashEnd := rfl

/-! ## setTile -/

@[simp] theorem State.free_setTile (s : State) (t : Nat) (T : Tile) : (s.setTile t T).free = s.free := rfl
@[simp] theorem State.cur_setTile (s : State) (t : Nat) (T : Tile) : (s.setTile t T).cur = s.cur := rfl
@[simp] theorem State.agenda_setTile (s : State) (t : Nat) (T : Tile) : (s.setTile t T).agenda = s.agenda := rfl
@[simp] theorem State.inbox_setTile (s : State) (t : Nat) (T : Tile) : (s.setTile t T).inbox = s.inbox := rfl
@[simp] theorem State.outbox_setTile (s : State) (t : Nat) (T : Tile) : (s.setTile t T).outbox = s.outbox := rfl
@[simp] theorem State.irqs_setTile (s : State) (t : Nat) (T : Tile) : (s.setTile t T).irqs = s.irqs := rfl
@[simp] theorem State.hist_setTile (s : State) (t : Nat) (T : Tile) : (s.setTile t T).hist = s.hist := rfl
@[simp] theorem State.nextId_setTile (s : State) (t : Nat) (T : Tile) : (s.setTile t T).nextId = s.nextId := rfl
@[simp] theorem State.now_setTile (s : State) (t : Nat) (T : Tile) : (s.setTile t T).now = s.now := rfl
@[simp] theorem State.mem_setTile (s : State) (t : Nat) (T : Tile) : (s.setTile t T).mem = s.mem := rfl
@[simp] theorem State.win_setTile (s : State) (t : Nat) (T : Tile) : (s.setTile t T).win = s.win := rfl
@[simp] theorem State.writes_setTile (s : State) (t : Nat) (T : Tile) : (s.setTile t T).writes = s.writes := rfl
@[simp] theorem State.cipher_setTile (s : State) (t : Nat) (T : Tile) : (s.setTile t T).cipher = s.cipher := rfl
@[simp] theorem State.hbmErr_setTile (s : State) (t : Nat) (T : Tile) : (s.setTile t T).hbmErr = s.hbmErr := rfl
@[simp] theorem State.threads_setTile (s : State) (t : Nat) (T : Tile) : (s.setTile t T).threads = s.threads := rfl
@[simp] theorem State.rr_setTile (s : State) (t : Nat) (T : Tile) : (s.setTile t T).rr = s.rr := rfl
@[simp] theorem State.regions_setTile (s : State) (t : Nat) (T : Tile) : (s.setTile t T).regions = s.regions := rfl
@[simp] theorem State.parts_setTile (s : State) (t : Nat) (T : Tile) : (s.setTile t T).parts = s.parts := rfl
@[simp] theorem State.chains_setTile (s : State) (t : Nat) (T : Tile) : (s.setTile t T).chains = s.chains := rfl
@[simp] theorem State.twes_setTile (s : State) (t : Nat) (T : Tile) : (s.setTile t T).twes = s.twes := rfl
@[simp] theorem State.chans_setTile (s : State) (t : Nat) (T : Tile) : (s.setTile t T).chans = s.chans := rfl
@[simp] theorem State.windows_setTile (s : State) (t : Nat) (T : Tile) : (s.setTile t T).windows = s.windows := rfl
@[simp] theorem State.ports_setTile (s : State) (t : Nat) (T : Tile) : (s.setTile t T).ports = s.ports := rfl
@[simp] theorem State.keys_setTile (s : State) (t : Nat) (T : Tile) : (s.setTile t T).keys = s.keys := rfl
@[simp] theorem State.gwAllow_setTile (s : State) (t : Nat) (T : Tile) : (s.setTile t T).gwAllow = s.gwAllow := rfl
@[simp] theorem State.credits_setTile (s : State) (t : Nat) (T : Tile) : (s.setTile t T).credits = s.credits := rfl
@[simp] theorem State.tagFails_setTile (s : State) (t : Nat) (T : Tile) : (s.setTile t T).tagFails = s.tagFails := rfl
@[simp] theorem State.rx_setTile (s : State) (t : Nat) (T : Tile) : (s.setTile t T).rx = s.rx := rfl
@[simp] theorem State.rxSeq_setTile (s : State) (t : Nat) (T : Tile) : (s.setTile t T).rxSeq = s.rxSeq := rfl
@[simp] theorem State.arcBad_setTile (s : State) (t : Nat) (T : Tile) : (s.setTile t T).arcBad = s.arcBad := rfl
@[simp] theorem State.arcLost_setTile (s : State) (t : Nat) (T : Tile) : (s.setTile t T).arcLost = s.arcLost := rfl
@[simp] theorem State.oldPort_setTile (s : State) (t : Nat) (T : Tile) : (s.setTile t T).oldPort = s.oldPort := rfl
@[simp] theorem State.counters_setTile (s : State) (t : Nat) (T : Tile) : (s.setTile t T).counters = s.counters := rfl
@[simp] theorem State.deps_setTile (s : State) (t : Nat) (T : Tile) : (s.setTile t T).deps = s.deps := rfl
@[simp] theorem State.depTask_setTile (s : State) (t : Nat) (T : Tile) : (s.setTile t T).depTask = s.depTask := rfl
@[simp] theorem State.tasks_setTile (s : State) (t : Nat) (T : Tile) : (s.setTile t T).tasks = s.tasks := rfl
@[simp] theorem State.qread_setTile (s : State) (t : Nat) (T : Tile) : (s.setTile t T).qread = s.qread := rfl
@[simp] theorem State.kicked_setTile (s : State) (t : Nat) (T : Tile) : (s.setTile t T).kicked = s.kicked := rfl
@[simp] theorem State.events_setTile (s : State) (t : Nat) (T : Tile) : (s.setTile t T).events = s.events := rfl
@[simp] theorem State.fresh_setTile (s : State) (t : Nat) (T : Tile) : (s.setTile t T).fresh = s.fresh := rfl
@[simp] theorem State.launchSerial_setTile (s : State) (t : Nat) (T : Tile) :
    (s.setTile t T).launchSerial = s.launchSerial := rfl
@[simp] theorem State.freezeSerial_setTile (s : State) (t : Nat) (T : Tile) :
    (s.setTile t T).freezeSerial = s.freezeSerial := rfl
@[simp] theorem State.taskSerial_setTile (s : State) (t : Nat) (T : Tile) :
    (s.setTile t T).taskSerial = s.taskSerial := rfl
@[simp] theorem State.journalSerial_setTile (s : State) (t : Nat) (T : Tile) :
    (s.setTile t T).journalSerial = s.journalSerial := rfl
@[simp] theorem State.watchdog_setTile (s : State) (t : Nat) (T : Tile) : (s.setTile t T).watchdog = s.watchdog := rfl
@[simp] theorem State.freezes_setTile (s : State) (t : Nat) (T : Tile) : (s.setTile t T).freezes = s.freezes := rfl
@[simp] theorem State.heldAcc_setTile (s : State) (t : Nat) (T : Tile) : (s.setTile t T).heldAcc = s.heldAcc := rfl
@[simp] theorem State.images_setTile (s : State) (t : Nat) (T : Tile) : (s.setTile t T).images = s.images := rfl
@[simp] theorem State.stagedPa_setTile (s : State) (t : Nat) (T : Tile) : (s.setTile t T).stagedPa = s.stagedPa := rfl
@[simp] theorem State.folds_setTile (s : State) (t : Nat) (T : Tile) : (s.setTile t T).folds = s.folds := rfl
@[simp] theorem State.snaps_setTile (s : State) (t : Nat) (T : Tile) : (s.setTile t T).snaps = s.snaps := rfl
@[simp] theorem State.snapAt_setTile (s : State) (t : Nat) (T : Tile) : (s.setTile t T).snapAt = s.snapAt := rfl
@[simp] theorem State.remap_setTile (s : State) (t : Nat) (T : Tile) : (s.setTile t T).remap = s.remap := rfl
@[simp] theorem State.repairRec_setTile (s : State) (t : Nat) (T : Tile) :
    (s.setTile t T).repairRec = s.repairRec := rfl
@[simp] theorem State.settle_setTile (s : State) (t : Nat) (T : Tile) : (s.setTile t T).settle = s.settle := rfl
@[simp] theorem State.powerState_setTile (s : State) (t : Nat) (T : Tile) :
    (s.setTile t T).powerState = s.powerState := rfl
@[simp] theorem State.powered_setTile (s : State) (t : Nat) (T : Tile) : (s.setTile t T).powered = s.powered := rfl
@[simp] theorem State.flash_setTile (s : State) (t : Nat) (T : Tile) : (s.setTile t T).flash = s.flash := rfl
@[simp] theorem State.recovery_setTile (s : State) (t : Nat) (T : Tile) : (s.setTile t T).recovery = s.recovery := rfl
@[simp] theorem State.recoveryWait_setTile (s : State) (t : Nat) (T : Tile) :
    (s.setTile t T).recoveryWait = s.recoveryWait := rfl
@[simp] theorem State.hostAborts_setTile (s : State) (t : Nat) (T : Tile) :
    (s.setTile t T).hostAborts = s.hostAborts := rfl
@[simp] theorem State.fuseVersion_setTile (s : State) (t : Nat) (T : Tile) :
    (s.setTile t T).fuseVersion = s.fuseVersion := rfl
@[simp] theorem State.xmssIndex_setTile (s : State) (t : Nat) (T : Tile) :
    (s.setTile t T).xmssIndex = s.xmssIndex := rfl
@[simp] theorem State.measLog_setTile (s : State) (t : Nat) (T : Tile) : (s.setTile t T).measLog = s.measLog := rfl
@[simp] theorem State.booting_setTile (s : State) (t : Nat) (T : Tile) : (s.setTile t T).booting = s.booting := rfl
@[simp] theorem State.svn_setTile (s : State) (t : Nat) (T : Tile) : (s.setTile t T).svn = s.svn := rfl
@[simp] theorem State.cdHot_setTile (s : State) (t : Nat) (T : Tile) : (s.setTile t T).cdHot = s.cdHot := rfl
@[simp] theorem State.cdSamples_setTile (s : State) (t : Nat) (T : Tile) :
    (s.setTile t T).cdSamples = s.cdSamples := rfl
@[simp] theorem State.flashEnd_setTile (s : State) (t : Nat) (T : Tile) : (s.setTile t T).flashEnd = s.flashEnd := rfl

/-! ## setRegion -/

@[simp] theorem State.free_setRegion (s : State) (r : Nat) (R : Region) : (s.setRegion r R).free = s.free := rfl
@[simp] theorem State.cur_setRegion (s : State) (r : Nat) (R : Region) : (s.setRegion r R).cur = s.cur := rfl
@[simp] theorem State.agenda_setRegion (s : State) (r : Nat) (R : Region) : (s.setRegion r R).agenda = s.agenda := rfl
@[simp] theorem State.inbox_setRegion (s : State) (r : Nat) (R : Region) : (s.setRegion r R).inbox = s.inbox := rfl
@[simp] theorem State.outbox_setRegion (s : State) (r : Nat) (R : Region) : (s.setRegion r R).outbox = s.outbox := rfl
@[simp] theorem State.irqs_setRegion (s : State) (r : Nat) (R : Region) : (s.setRegion r R).irqs = s.irqs := rfl
@[simp] theorem State.hist_setRegion (s : State) (r : Nat) (R : Region) : (s.setRegion r R).hist = s.hist := rfl
@[simp] theorem State.nextId_setRegion (s : State) (r : Nat) (R : Region) : (s.setRegion r R).nextId = s.nextId := rfl
@[simp] theorem State.now_setRegion (s : State) (r : Nat) (R : Region) : (s.setRegion r R).now = s.now := rfl
@[simp] theorem State.mem_setRegion (s : State) (r : Nat) (R : Region) : (s.setRegion r R).mem = s.mem := rfl
@[simp] theorem State.win_setRegion (s : State) (r : Nat) (R : Region) : (s.setRegion r R).win = s.win := rfl
@[simp] theorem State.writes_setRegion (s : State) (r : Nat) (R : Region) : (s.setRegion r R).writes = s.writes := rfl
@[simp] theorem State.cipher_setRegion (s : State) (r : Nat) (R : Region) : (s.setRegion r R).cipher = s.cipher := rfl
@[simp] theorem State.hbmErr_setRegion (s : State) (r : Nat) (R : Region) : (s.setRegion r R).hbmErr = s.hbmErr := rfl
@[simp] theorem State.threads_setRegion (s : State) (r : Nat) (R : Region) :
    (s.setRegion r R).threads = s.threads := rfl
@[simp] theorem State.rr_setRegion (s : State) (r : Nat) (R : Region) : (s.setRegion r R).rr = s.rr := rfl
@[simp] theorem State.tiles_setRegion (s : State) (r : Nat) (R : Region) : (s.setRegion r R).tiles = s.tiles := rfl
@[simp] theorem State.parts_setRegion (s : State) (r : Nat) (R : Region) : (s.setRegion r R).parts = s.parts := rfl
@[simp] theorem State.chains_setRegion (s : State) (r : Nat) (R : Region) : (s.setRegion r R).chains = s.chains := rfl
@[simp] theorem State.twes_setRegion (s : State) (r : Nat) (R : Region) : (s.setRegion r R).twes = s.twes := rfl
@[simp] theorem State.chans_setRegion (s : State) (r : Nat) (R : Region) : (s.setRegion r R).chans = s.chans := rfl
@[simp] theorem State.windows_setRegion (s : State) (r : Nat) (R : Region) :
    (s.setRegion r R).windows = s.windows := rfl
@[simp] theorem State.ports_setRegion (s : State) (r : Nat) (R : Region) : (s.setRegion r R).ports = s.ports := rfl
@[simp] theorem State.keys_setRegion (s : State) (r : Nat) (R : Region) : (s.setRegion r R).keys = s.keys := rfl
@[simp] theorem State.gwAllow_setRegion (s : State) (r : Nat) (R : Region) :
    (s.setRegion r R).gwAllow = s.gwAllow := rfl
@[simp] theorem State.credits_setRegion (s : State) (r : Nat) (R : Region) :
    (s.setRegion r R).credits = s.credits := rfl
@[simp] theorem State.tagFails_setRegion (s : State) (r : Nat) (R : Region) :
    (s.setRegion r R).tagFails = s.tagFails := rfl
@[simp] theorem State.rx_setRegion (s : State) (r : Nat) (R : Region) : (s.setRegion r R).rx = s.rx := rfl
@[simp] theorem State.rxSeq_setRegion (s : State) (r : Nat) (R : Region) : (s.setRegion r R).rxSeq = s.rxSeq := rfl
@[simp] theorem State.arcBad_setRegion (s : State) (r : Nat) (R : Region) : (s.setRegion r R).arcBad = s.arcBad := rfl
@[simp] theorem State.arcLost_setRegion (s : State) (r : Nat) (R : Region) :
    (s.setRegion r R).arcLost = s.arcLost := rfl
@[simp] theorem State.oldPort_setRegion (s : State) (r : Nat) (R : Region) :
    (s.setRegion r R).oldPort = s.oldPort := rfl
@[simp] theorem State.counters_setRegion (s : State) (r : Nat) (R : Region) :
    (s.setRegion r R).counters = s.counters := rfl
@[simp] theorem State.deps_setRegion (s : State) (r : Nat) (R : Region) : (s.setRegion r R).deps = s.deps := rfl
@[simp] theorem State.depTask_setRegion (s : State) (r : Nat) (R : Region) :
    (s.setRegion r R).depTask = s.depTask := rfl
@[simp] theorem State.tasks_setRegion (s : State) (r : Nat) (R : Region) : (s.setRegion r R).tasks = s.tasks := rfl
@[simp] theorem State.qread_setRegion (s : State) (r : Nat) (R : Region) : (s.setRegion r R).qread = s.qread := rfl
@[simp] theorem State.kicked_setRegion (s : State) (r : Nat) (R : Region) : (s.setRegion r R).kicked = s.kicked := rfl
@[simp] theorem State.events_setRegion (s : State) (r : Nat) (R : Region) : (s.setRegion r R).events = s.events := rfl
@[simp] theorem State.fresh_setRegion (s : State) (r : Nat) (R : Region) : (s.setRegion r R).fresh = s.fresh := rfl
@[simp] theorem State.launchSerial_setRegion (s : State) (r : Nat) (R : Region) :
    (s.setRegion r R).launchSerial = s.launchSerial := rfl
@[simp] theorem State.freezeSerial_setRegion (s : State) (r : Nat) (R : Region) :
    (s.setRegion r R).freezeSerial = s.freezeSerial := rfl
@[simp] theorem State.taskSerial_setRegion (s : State) (r : Nat) (R : Region) :
    (s.setRegion r R).taskSerial = s.taskSerial := rfl
@[simp] theorem State.journalSerial_setRegion (s : State) (r : Nat) (R : Region) :
    (s.setRegion r R).journalSerial = s.journalSerial := rfl
@[simp] theorem State.watchdog_setRegion (s : State) (r : Nat) (R : Region) :
    (s.setRegion r R).watchdog = s.watchdog := rfl
@[simp] theorem State.freezes_setRegion (s : State) (r : Nat) (R : Region) :
    (s.setRegion r R).freezes = s.freezes := rfl
@[simp] theorem State.heldAcc_setRegion (s : State) (r : Nat) (R : Region) :
    (s.setRegion r R).heldAcc = s.heldAcc := rfl
@[simp] theorem State.images_setRegion (s : State) (r : Nat) (R : Region) : (s.setRegion r R).images = s.images := rfl
@[simp] theorem State.stagedPa_setRegion (s : State) (r : Nat) (R : Region) :
    (s.setRegion r R).stagedPa = s.stagedPa := rfl
@[simp] theorem State.folds_setRegion (s : State) (r : Nat) (R : Region) : (s.setRegion r R).folds = s.folds := rfl
@[simp] theorem State.snaps_setRegion (s : State) (r : Nat) (R : Region) : (s.setRegion r R).snaps = s.snaps := rfl
@[simp] theorem State.snapAt_setRegion (s : State) (r : Nat) (R : Region) : (s.setRegion r R).snapAt = s.snapAt := rfl
@[simp] theorem State.remap_setRegion (s : State) (r : Nat) (R : Region) : (s.setRegion r R).remap = s.remap := rfl
@[simp] theorem State.repairRec_setRegion (s : State) (r : Nat) (R : Region) :
    (s.setRegion r R).repairRec = s.repairRec := rfl
@[simp] theorem State.settle_setRegion (s : State) (r : Nat) (R : Region) : (s.setRegion r R).settle = s.settle := rfl
@[simp] theorem State.powerState_setRegion (s : State) (r : Nat) (R : Region) :
    (s.setRegion r R).powerState = s.powerState := rfl
@[simp] theorem State.powered_setRegion (s : State) (r : Nat) (R : Region) :
    (s.setRegion r R).powered = s.powered := rfl
@[simp] theorem State.flash_setRegion (s : State) (r : Nat) (R : Region) : (s.setRegion r R).flash = s.flash := rfl
@[simp] theorem State.recovery_setRegion (s : State) (r : Nat) (R : Region) :
    (s.setRegion r R).recovery = s.recovery := rfl
@[simp] theorem State.recoveryWait_setRegion (s : State) (r : Nat) (R : Region) :
    (s.setRegion r R).recoveryWait = s.recoveryWait := rfl
@[simp] theorem State.hostAborts_setRegion (s : State) (r : Nat) (R : Region) :
    (s.setRegion r R).hostAborts = s.hostAborts := rfl
@[simp] theorem State.fuseVersion_setRegion (s : State) (r : Nat) (R : Region) :
    (s.setRegion r R).fuseVersion = s.fuseVersion := rfl
@[simp] theorem State.xmssIndex_setRegion (s : State) (r : Nat) (R : Region) :
    (s.setRegion r R).xmssIndex = s.xmssIndex := rfl
@[simp] theorem State.measLog_setRegion (s : State) (r : Nat) (R : Region) :
    (s.setRegion r R).measLog = s.measLog := rfl
@[simp] theorem State.booting_setRegion (s : State) (r : Nat) (R : Region) :
    (s.setRegion r R).booting = s.booting := rfl
@[simp] theorem State.svn_setRegion (s : State) (r : Nat) (R : Region) : (s.setRegion r R).svn = s.svn := rfl
@[simp] theorem State.cdHot_setRegion (s : State) (r : Nat) (R : Region) : (s.setRegion r R).cdHot = s.cdHot := rfl
@[simp] theorem State.cdSamples_setRegion (s : State) (r : Nat) (R : Region) :
    (s.setRegion r R).cdSamples = s.cdSamples := rfl
@[simp] theorem State.flashEnd_setRegion (s : State) (r : Nat) (R : Region) :
    (s.setRegion r R).flashEnd = s.flashEnd := rfl

/-! ## setPart -/

@[simp] theorem State.free_setPart (s : State) (p : Nat) (P : Part) : (s.setPart p P).free = s.free := rfl
@[simp] theorem State.cur_setPart (s : State) (p : Nat) (P : Part) : (s.setPart p P).cur = s.cur := rfl
@[simp] theorem State.agenda_setPart (s : State) (p : Nat) (P : Part) : (s.setPart p P).agenda = s.agenda := rfl
@[simp] theorem State.inbox_setPart (s : State) (p : Nat) (P : Part) : (s.setPart p P).inbox = s.inbox := rfl
@[simp] theorem State.outbox_setPart (s : State) (p : Nat) (P : Part) : (s.setPart p P).outbox = s.outbox := rfl
@[simp] theorem State.irqs_setPart (s : State) (p : Nat) (P : Part) : (s.setPart p P).irqs = s.irqs := rfl
@[simp] theorem State.hist_setPart (s : State) (p : Nat) (P : Part) : (s.setPart p P).hist = s.hist := rfl
@[simp] theorem State.nextId_setPart (s : State) (p : Nat) (P : Part) : (s.setPart p P).nextId = s.nextId := rfl
@[simp] theorem State.now_setPart (s : State) (p : Nat) (P : Part) : (s.setPart p P).now = s.now := rfl
@[simp] theorem State.mem_setPart (s : State) (p : Nat) (P : Part) : (s.setPart p P).mem = s.mem := rfl
@[simp] theorem State.win_setPart (s : State) (p : Nat) (P : Part) : (s.setPart p P).win = s.win := rfl
@[simp] theorem State.writes_setPart (s : State) (p : Nat) (P : Part) : (s.setPart p P).writes = s.writes := rfl
@[simp] theorem State.cipher_setPart (s : State) (p : Nat) (P : Part) : (s.setPart p P).cipher = s.cipher := rfl
@[simp] theorem State.hbmErr_setPart (s : State) (p : Nat) (P : Part) : (s.setPart p P).hbmErr = s.hbmErr := rfl
@[simp] theorem State.threads_setPart (s : State) (p : Nat) (P : Part) : (s.setPart p P).threads = s.threads := rfl
@[simp] theorem State.rr_setPart (s : State) (p : Nat) (P : Part) : (s.setPart p P).rr = s.rr := rfl
@[simp] theorem State.tiles_setPart (s : State) (p : Nat) (P : Part) : (s.setPart p P).tiles = s.tiles := rfl
@[simp] theorem State.regions_setPart (s : State) (p : Nat) (P : Part) : (s.setPart p P).regions = s.regions := rfl
@[simp] theorem State.chains_setPart (s : State) (p : Nat) (P : Part) : (s.setPart p P).chains = s.chains := rfl
@[simp] theorem State.twes_setPart (s : State) (p : Nat) (P : Part) : (s.setPart p P).twes = s.twes := rfl
@[simp] theorem State.chans_setPart (s : State) (p : Nat) (P : Part) : (s.setPart p P).chans = s.chans := rfl
@[simp] theorem State.windows_setPart (s : State) (p : Nat) (P : Part) : (s.setPart p P).windows = s.windows := rfl
@[simp] theorem State.ports_setPart (s : State) (p : Nat) (P : Part) : (s.setPart p P).ports = s.ports := rfl
@[simp] theorem State.keys_setPart (s : State) (p : Nat) (P : Part) : (s.setPart p P).keys = s.keys := rfl
@[simp] theorem State.gwAllow_setPart (s : State) (p : Nat) (P : Part) : (s.setPart p P).gwAllow = s.gwAllow := rfl
@[simp] theorem State.credits_setPart (s : State) (p : Nat) (P : Part) : (s.setPart p P).credits = s.credits := rfl
@[simp] theorem State.tagFails_setPart (s : State) (p : Nat) (P : Part) : (s.setPart p P).tagFails = s.tagFails := rfl
@[simp] theorem State.rx_setPart (s : State) (p : Nat) (P : Part) : (s.setPart p P).rx = s.rx := rfl
@[simp] theorem State.rxSeq_setPart (s : State) (p : Nat) (P : Part) : (s.setPart p P).rxSeq = s.rxSeq := rfl
@[simp] theorem State.arcBad_setPart (s : State) (p : Nat) (P : Part) : (s.setPart p P).arcBad = s.arcBad := rfl
@[simp] theorem State.arcLost_setPart (s : State) (p : Nat) (P : Part) : (s.setPart p P).arcLost = s.arcLost := rfl
@[simp] theorem State.oldPort_setPart (s : State) (p : Nat) (P : Part) : (s.setPart p P).oldPort = s.oldPort := rfl
@[simp] theorem State.counters_setPart (s : State) (p : Nat) (P : Part) : (s.setPart p P).counters = s.counters := rfl
@[simp] theorem State.deps_setPart (s : State) (p : Nat) (P : Part) : (s.setPart p P).deps = s.deps := rfl
@[simp] theorem State.depTask_setPart (s : State) (p : Nat) (P : Part) : (s.setPart p P).depTask = s.depTask := rfl
@[simp] theorem State.tasks_setPart (s : State) (p : Nat) (P : Part) : (s.setPart p P).tasks = s.tasks := rfl
@[simp] theorem State.qread_setPart (s : State) (p : Nat) (P : Part) : (s.setPart p P).qread = s.qread := rfl
@[simp] theorem State.kicked_setPart (s : State) (p : Nat) (P : Part) : (s.setPart p P).kicked = s.kicked := rfl
@[simp] theorem State.events_setPart (s : State) (p : Nat) (P : Part) : (s.setPart p P).events = s.events := rfl
@[simp] theorem State.fresh_setPart (s : State) (p : Nat) (P : Part) : (s.setPart p P).fresh = s.fresh := rfl
@[simp] theorem State.launchSerial_setPart (s : State) (p : Nat) (P : Part) :
    (s.setPart p P).launchSerial = s.launchSerial := rfl
@[simp] theorem State.freezeSerial_setPart (s : State) (p : Nat) (P : Part) :
    (s.setPart p P).freezeSerial = s.freezeSerial := rfl
@[simp] theorem State.taskSerial_setPart (s : State) (p : Nat) (P : Part) :
    (s.setPart p P).taskSerial = s.taskSerial := rfl
@[simp] theorem State.journalSerial_setPart (s : State) (p : Nat) (P : Part) :
    (s.setPart p P).journalSerial = s.journalSerial := rfl
@[simp] theorem State.watchdog_setPart (s : State) (p : Nat) (P : Part) : (s.setPart p P).watchdog = s.watchdog := rfl
@[simp] theorem State.freezes_setPart (s : State) (p : Nat) (P : Part) : (s.setPart p P).freezes = s.freezes := rfl
@[simp] theorem State.heldAcc_setPart (s : State) (p : Nat) (P : Part) : (s.setPart p P).heldAcc = s.heldAcc := rfl
@[simp] theorem State.images_setPart (s : State) (p : Nat) (P : Part) : (s.setPart p P).images = s.images := rfl
@[simp] theorem State.stagedPa_setPart (s : State) (p : Nat) (P : Part) : (s.setPart p P).stagedPa = s.stagedPa := rfl
@[simp] theorem State.folds_setPart (s : State) (p : Nat) (P : Part) : (s.setPart p P).folds = s.folds := rfl
@[simp] theorem State.snaps_setPart (s : State) (p : Nat) (P : Part) : (s.setPart p P).snaps = s.snaps := rfl
@[simp] theorem State.snapAt_setPart (s : State) (p : Nat) (P : Part) : (s.setPart p P).snapAt = s.snapAt := rfl
@[simp] theorem State.remap_setPart (s : State) (p : Nat) (P : Part) : (s.setPart p P).remap = s.remap := rfl
@[simp] theorem State.repairRec_setPart (s : State) (p : Nat) (P : Part) :
    (s.setPart p P).repairRec = s.repairRec := rfl
@[simp] theorem State.settle_setPart (s : State) (p : Nat) (P : Part) : (s.setPart p P).settle = s.settle := rfl
@[simp] theorem State.powerState_setPart (s : State) (p : Nat) (P : Part) :
    (s.setPart p P).powerState = s.powerState := rfl
@[simp] theorem State.powered_setPart (s : State) (p : Nat) (P : Part) : (s.setPart p P).powered = s.powered := rfl
@[simp] theorem State.flash_setPart (s : State) (p : Nat) (P : Part) : (s.setPart p P).flash = s.flash := rfl
@[simp] theorem State.recovery_setPart (s : State) (p : Nat) (P : Part) : (s.setPart p P).recovery = s.recovery := rfl
@[simp] theorem State.recoveryWait_setPart (s : State) (p : Nat) (P : Part) :
    (s.setPart p P).recoveryWait = s.recoveryWait := rfl
@[simp] theorem State.hostAborts_setPart (s : State) (p : Nat) (P : Part) :
    (s.setPart p P).hostAborts = s.hostAborts := rfl
@[simp] theorem State.fuseVersion_setPart (s : State) (p : Nat) (P : Part) :
    (s.setPart p P).fuseVersion = s.fuseVersion := rfl
@[simp] theorem State.xmssIndex_setPart (s : State) (p : Nat) (P : Part) :
    (s.setPart p P).xmssIndex = s.xmssIndex := rfl
@[simp] theorem State.measLog_setPart (s : State) (p : Nat) (P : Part) : (s.setPart p P).measLog = s.measLog := rfl
@[simp] theorem State.booting_setPart (s : State) (p : Nat) (P : Part) : (s.setPart p P).booting = s.booting := rfl
@[simp] theorem State.svn_setPart (s : State) (p : Nat) (P : Part) : (s.setPart p P).svn = s.svn := rfl
@[simp] theorem State.cdHot_setPart (s : State) (p : Nat) (P : Part) : (s.setPart p P).cdHot = s.cdHot := rfl
@[simp] theorem State.cdSamples_setPart (s : State) (p : Nat) (P : Part) :
    (s.setPart p P).cdSamples = s.cdSamples := rfl
@[simp] theorem State.flashEnd_setPart (s : State) (p : Nat) (P : Part) : (s.setPart p P).flashEnd = s.flashEnd := rfl

/-! ## setW -/

@[simp] theorem State.free_setW (s : State) (pa : Nat) (v : Word) : (s.setW pa v).free = s.free := rfl
@[simp] theorem State.cur_setW (s : State) (pa : Nat) (v : Word) : (s.setW pa v).cur = s.cur := rfl
@[simp] theorem State.agenda_setW (s : State) (pa : Nat) (v : Word) : (s.setW pa v).agenda = s.agenda := rfl
@[simp] theorem State.inbox_setW (s : State) (pa : Nat) (v : Word) : (s.setW pa v).inbox = s.inbox := rfl
@[simp] theorem State.outbox_setW (s : State) (pa : Nat) (v : Word) : (s.setW pa v).outbox = s.outbox := rfl
@[simp] theorem State.irqs_setW (s : State) (pa : Nat) (v : Word) : (s.setW pa v).irqs = s.irqs := rfl
@[simp] theorem State.hist_setW (s : State) (pa : Nat) (v : Word) : (s.setW pa v).hist = s.hist := rfl
@[simp] theorem State.nextId_setW (s : State) (pa : Nat) (v : Word) : (s.setW pa v).nextId = s.nextId := rfl
@[simp] theorem State.now_setW (s : State) (pa : Nat) (v : Word) : (s.setW pa v).now = s.now := rfl
@[simp] theorem State.mem_setW (s : State) (pa : Nat) (v : Word) : (s.setW pa v).mem = s.mem := rfl
@[simp] theorem State.writes_setW (s : State) (pa : Nat) (v : Word) : (s.setW pa v).writes = s.writes := rfl
@[simp] theorem State.cipher_setW (s : State) (pa : Nat) (v : Word) : (s.setW pa v).cipher = s.cipher := rfl
@[simp] theorem State.hbmErr_setW (s : State) (pa : Nat) (v : Word) : (s.setW pa v).hbmErr = s.hbmErr := rfl
@[simp] theorem State.threads_setW (s : State) (pa : Nat) (v : Word) : (s.setW pa v).threads = s.threads := rfl
@[simp] theorem State.rr_setW (s : State) (pa : Nat) (v : Word) : (s.setW pa v).rr = s.rr := rfl
@[simp] theorem State.tiles_setW (s : State) (pa : Nat) (v : Word) : (s.setW pa v).tiles = s.tiles := rfl
@[simp] theorem State.regions_setW (s : State) (pa : Nat) (v : Word) : (s.setW pa v).regions = s.regions := rfl
@[simp] theorem State.parts_setW (s : State) (pa : Nat) (v : Word) : (s.setW pa v).parts = s.parts := rfl
@[simp] theorem State.chains_setW (s : State) (pa : Nat) (v : Word) : (s.setW pa v).chains = s.chains := rfl
@[simp] theorem State.twes_setW (s : State) (pa : Nat) (v : Word) : (s.setW pa v).twes = s.twes := rfl
@[simp] theorem State.chans_setW (s : State) (pa : Nat) (v : Word) : (s.setW pa v).chans = s.chans := rfl
@[simp] theorem State.windows_setW (s : State) (pa : Nat) (v : Word) : (s.setW pa v).windows = s.windows := rfl
@[simp] theorem State.ports_setW (s : State) (pa : Nat) (v : Word) : (s.setW pa v).ports = s.ports := rfl
@[simp] theorem State.keys_setW (s : State) (pa : Nat) (v : Word) : (s.setW pa v).keys = s.keys := rfl
@[simp] theorem State.gwAllow_setW (s : State) (pa : Nat) (v : Word) : (s.setW pa v).gwAllow = s.gwAllow := rfl
@[simp] theorem State.credits_setW (s : State) (pa : Nat) (v : Word) : (s.setW pa v).credits = s.credits := rfl
@[simp] theorem State.tagFails_setW (s : State) (pa : Nat) (v : Word) : (s.setW pa v).tagFails = s.tagFails := rfl
@[simp] theorem State.rx_setW (s : State) (pa : Nat) (v : Word) : (s.setW pa v).rx = s.rx := rfl
@[simp] theorem State.rxSeq_setW (s : State) (pa : Nat) (v : Word) : (s.setW pa v).rxSeq = s.rxSeq := rfl
@[simp] theorem State.arcBad_setW (s : State) (pa : Nat) (v : Word) : (s.setW pa v).arcBad = s.arcBad := rfl
@[simp] theorem State.arcLost_setW (s : State) (pa : Nat) (v : Word) : (s.setW pa v).arcLost = s.arcLost := rfl
@[simp] theorem State.oldPort_setW (s : State) (pa : Nat) (v : Word) : (s.setW pa v).oldPort = s.oldPort := rfl
@[simp] theorem State.counters_setW (s : State) (pa : Nat) (v : Word) : (s.setW pa v).counters = s.counters := rfl
@[simp] theorem State.deps_setW (s : State) (pa : Nat) (v : Word) : (s.setW pa v).deps = s.deps := rfl
@[simp] theorem State.depTask_setW (s : State) (pa : Nat) (v : Word) : (s.setW pa v).depTask = s.depTask := rfl
@[simp] theorem State.tasks_setW (s : State) (pa : Nat) (v : Word) : (s.setW pa v).tasks = s.tasks := rfl
@[simp] theorem State.qread_setW (s : State) (pa : Nat) (v : Word) : (s.setW pa v).qread = s.qread := rfl
@[simp] theorem State.kicked_setW (s : State) (pa : Nat) (v : Word) : (s.setW pa v).kicked = s.kicked := rfl
@[simp] theorem State.events_setW (s : State) (pa : Nat) (v : Word) : (s.setW pa v).events = s.events := rfl
@[simp] theorem State.fresh_setW (s : State) (pa : Nat) (v : Word) : (s.setW pa v).fresh = s.fresh := rfl
@[simp] theorem State.launchSerial_setW (s : State) (pa : Nat) (v : Word) :
    (s.setW pa v).launchSerial = s.launchSerial := rfl
@[simp] theorem State.freezeSerial_setW (s : State) (pa : Nat) (v : Word) :
    (s.setW pa v).freezeSerial = s.freezeSerial := rfl
@[simp] theorem State.taskSerial_setW (s : State) (pa : Nat) (v : Word) :
    (s.setW pa v).taskSerial = s.taskSerial := rfl
@[simp] theorem State.journalSerial_setW (s : State) (pa : Nat) (v : Word) :
    (s.setW pa v).journalSerial = s.journalSerial := rfl
@[simp] theorem State.watchdog_setW (s : State) (pa : Nat) (v : Word) : (s.setW pa v).watchdog = s.watchdog := rfl
@[simp] theorem State.freezes_setW (s : State) (pa : Nat) (v : Word) : (s.setW pa v).freezes = s.freezes := rfl
@[simp] theorem State.heldAcc_setW (s : State) (pa : Nat) (v : Word) : (s.setW pa v).heldAcc = s.heldAcc := rfl
@[simp] theorem State.images_setW (s : State) (pa : Nat) (v : Word) : (s.setW pa v).images = s.images := rfl
@[simp] theorem State.stagedPa_setW (s : State) (pa : Nat) (v : Word) : (s.setW pa v).stagedPa = s.stagedPa := rfl
@[simp] theorem State.folds_setW (s : State) (pa : Nat) (v : Word) : (s.setW pa v).folds = s.folds := rfl
@[simp] theorem State.snaps_setW (s : State) (pa : Nat) (v : Word) : (s.setW pa v).snaps = s.snaps := rfl
@[simp] theorem State.snapAt_setW (s : State) (pa : Nat) (v : Word) : (s.setW pa v).snapAt = s.snapAt := rfl
@[simp] theorem State.remap_setW (s : State) (pa : Nat) (v : Word) : (s.setW pa v).remap = s.remap := rfl
@[simp] theorem State.repairRec_setW (s : State) (pa : Nat) (v : Word) : (s.setW pa v).repairRec = s.repairRec := rfl
@[simp] theorem State.settle_setW (s : State) (pa : Nat) (v : Word) : (s.setW pa v).settle = s.settle := rfl
@[simp] theorem State.powerState_setW (s : State) (pa : Nat) (v : Word) :
    (s.setW pa v).powerState = s.powerState := rfl
@[simp] theorem State.powered_setW (s : State) (pa : Nat) (v : Word) : (s.setW pa v).powered = s.powered := rfl
@[simp] theorem State.flash_setW (s : State) (pa : Nat) (v : Word) : (s.setW pa v).flash = s.flash := rfl
@[simp] theorem State.recovery_setW (s : State) (pa : Nat) (v : Word) : (s.setW pa v).recovery = s.recovery := rfl
@[simp] theorem State.recoveryWait_setW (s : State) (pa : Nat) (v : Word) :
    (s.setW pa v).recoveryWait = s.recoveryWait := rfl
@[simp] theorem State.hostAborts_setW (s : State) (pa : Nat) (v : Word) :
    (s.setW pa v).hostAborts = s.hostAborts := rfl
@[simp] theorem State.fuseVersion_setW (s : State) (pa : Nat) (v : Word) :
    (s.setW pa v).fuseVersion = s.fuseVersion := rfl
@[simp] theorem State.xmssIndex_setW (s : State) (pa : Nat) (v : Word) : (s.setW pa v).xmssIndex = s.xmssIndex := rfl
@[simp] theorem State.measLog_setW (s : State) (pa : Nat) (v : Word) : (s.setW pa v).measLog = s.measLog := rfl
@[simp] theorem State.booting_setW (s : State) (pa : Nat) (v : Word) : (s.setW pa v).booting = s.booting := rfl
@[simp] theorem State.svn_setW (s : State) (pa : Nat) (v : Word) : (s.setW pa v).svn = s.svn := rfl
@[simp] theorem State.cdHot_setW (s : State) (pa : Nat) (v : Word) : (s.setW pa v).cdHot = s.cdHot := rfl
@[simp] theorem State.cdSamples_setW (s : State) (pa : Nat) (v : Word) : (s.setW pa v).cdSamples = s.cdSamples := rfl
@[simp] theorem State.flashEnd_setW (s : State) (pa : Nat) (v : Word) : (s.setW pa v).flashEnd = s.flashEnd := rfl

/-! ## setWf -/

@[simp] theorem State.free_setWf (s : State) (pa lo len v : Nat) : (s.setWf pa lo len v).free = s.free := rfl
@[simp] theorem State.cur_setWf (s : State) (pa lo len v : Nat) : (s.setWf pa lo len v).cur = s.cur := rfl
@[simp] theorem State.agenda_setWf (s : State) (pa lo len v : Nat) : (s.setWf pa lo len v).agenda = s.agenda := rfl
@[simp] theorem State.inbox_setWf (s : State) (pa lo len v : Nat) : (s.setWf pa lo len v).inbox = s.inbox := rfl
@[simp] theorem State.outbox_setWf (s : State) (pa lo len v : Nat) : (s.setWf pa lo len v).outbox = s.outbox := rfl
@[simp] theorem State.irqs_setWf (s : State) (pa lo len v : Nat) : (s.setWf pa lo len v).irqs = s.irqs := rfl
@[simp] theorem State.hist_setWf (s : State) (pa lo len v : Nat) : (s.setWf pa lo len v).hist = s.hist := rfl
@[simp] theorem State.nextId_setWf (s : State) (pa lo len v : Nat) : (s.setWf pa lo len v).nextId = s.nextId := rfl
@[simp] theorem State.now_setWf (s : State) (pa lo len v : Nat) : (s.setWf pa lo len v).now = s.now := rfl
@[simp] theorem State.mem_setWf (s : State) (pa lo len v : Nat) : (s.setWf pa lo len v).mem = s.mem := rfl
@[simp] theorem State.writes_setWf (s : State) (pa lo len v : Nat) : (s.setWf pa lo len v).writes = s.writes := rfl
@[simp] theorem State.cipher_setWf (s : State) (pa lo len v : Nat) : (s.setWf pa lo len v).cipher = s.cipher := rfl
@[simp] theorem State.hbmErr_setWf (s : State) (pa lo len v : Nat) : (s.setWf pa lo len v).hbmErr = s.hbmErr := rfl
@[simp] theorem State.threads_setWf (s : State) (pa lo len v : Nat) : (s.setWf pa lo len v).threads = s.threads := rfl
@[simp] theorem State.rr_setWf (s : State) (pa lo len v : Nat) : (s.setWf pa lo len v).rr = s.rr := rfl
@[simp] theorem State.tiles_setWf (s : State) (pa lo len v : Nat) : (s.setWf pa lo len v).tiles = s.tiles := rfl
@[simp] theorem State.regions_setWf (s : State) (pa lo len v : Nat) : (s.setWf pa lo len v).regions = s.regions := rfl
@[simp] theorem State.parts_setWf (s : State) (pa lo len v : Nat) : (s.setWf pa lo len v).parts = s.parts := rfl
@[simp] theorem State.chains_setWf (s : State) (pa lo len v : Nat) : (s.setWf pa lo len v).chains = s.chains := rfl
@[simp] theorem State.twes_setWf (s : State) (pa lo len v : Nat) : (s.setWf pa lo len v).twes = s.twes := rfl
@[simp] theorem State.chans_setWf (s : State) (pa lo len v : Nat) : (s.setWf pa lo len v).chans = s.chans := rfl
@[simp] theorem State.windows_setWf (s : State) (pa lo len v : Nat) : (s.setWf pa lo len v).windows = s.windows := rfl
@[simp] theorem State.ports_setWf (s : State) (pa lo len v : Nat) : (s.setWf pa lo len v).ports = s.ports := rfl
@[simp] theorem State.keys_setWf (s : State) (pa lo len v : Nat) : (s.setWf pa lo len v).keys = s.keys := rfl
@[simp] theorem State.gwAllow_setWf (s : State) (pa lo len v : Nat) : (s.setWf pa lo len v).gwAllow = s.gwAllow := rfl
@[simp] theorem State.credits_setWf (s : State) (pa lo len v : Nat) : (s.setWf pa lo len v).credits = s.credits := rfl
@[simp] theorem State.tagFails_setWf (s : State) (pa lo len v : Nat) :
    (s.setWf pa lo len v).tagFails = s.tagFails := rfl
@[simp] theorem State.rx_setWf (s : State) (pa lo len v : Nat) : (s.setWf pa lo len v).rx = s.rx := rfl
@[simp] theorem State.rxSeq_setWf (s : State) (pa lo len v : Nat) : (s.setWf pa lo len v).rxSeq = s.rxSeq := rfl
@[simp] theorem State.arcBad_setWf (s : State) (pa lo len v : Nat) : (s.setWf pa lo len v).arcBad = s.arcBad := rfl
@[simp] theorem State.arcLost_setWf (s : State) (pa lo len v : Nat) : (s.setWf pa lo len v).arcLost = s.arcLost := rfl
@[simp] theorem State.oldPort_setWf (s : State) (pa lo len v : Nat) : (s.setWf pa lo len v).oldPort = s.oldPort := rfl
@[simp] theorem State.counters_setWf (s : State) (pa lo len v : Nat) :
    (s.setWf pa lo len v).counters = s.counters := rfl
@[simp] theorem State.deps_setWf (s : State) (pa lo len v : Nat) : (s.setWf pa lo len v).deps = s.deps := rfl
@[simp] theorem State.depTask_setWf (s : State) (pa lo len v : Nat) : (s.setWf pa lo len v).depTask = s.depTask := rfl
@[simp] theorem State.tasks_setWf (s : State) (pa lo len v : Nat) : (s.setWf pa lo len v).tasks = s.tasks := rfl
@[simp] theorem State.qread_setWf (s : State) (pa lo len v : Nat) : (s.setWf pa lo len v).qread = s.qread := rfl
@[simp] theorem State.kicked_setWf (s : State) (pa lo len v : Nat) : (s.setWf pa lo len v).kicked = s.kicked := rfl
@[simp] theorem State.events_setWf (s : State) (pa lo len v : Nat) : (s.setWf pa lo len v).events = s.events := rfl
@[simp] theorem State.fresh_setWf (s : State) (pa lo len v : Nat) : (s.setWf pa lo len v).fresh = s.fresh := rfl
@[simp] theorem State.launchSerial_setWf (s : State) (pa lo len v : Nat) :
    (s.setWf pa lo len v).launchSerial = s.launchSerial := rfl
@[simp] theorem State.freezeSerial_setWf (s : State) (pa lo len v : Nat) :
    (s.setWf pa lo len v).freezeSerial = s.freezeSerial := rfl
@[simp] theorem State.taskSerial_setWf (s : State) (pa lo len v : Nat) :
    (s.setWf pa lo len v).taskSerial = s.taskSerial := rfl
@[simp] theorem State.journalSerial_setWf (s : State) (pa lo len v : Nat) :
    (s.setWf pa lo len v).journalSerial = s.journalSerial := rfl
@[simp] theorem State.watchdog_setWf (s : State) (pa lo len v : Nat) :
    (s.setWf pa lo len v).watchdog = s.watchdog := rfl
@[simp] theorem State.freezes_setWf (s : State) (pa lo len v : Nat) : (s.setWf pa lo len v).freezes = s.freezes := rfl
@[simp] theorem State.heldAcc_setWf (s : State) (pa lo len v : Nat) : (s.setWf pa lo len v).heldAcc = s.heldAcc := rfl
@[simp] theorem State.images_setWf (s : State) (pa lo len v : Nat) : (s.setWf pa lo len v).images = s.images := rfl
@[simp] theorem State.stagedPa_setWf (s : State) (pa lo len v : Nat) :
    (s.setWf pa lo len v).stagedPa = s.stagedPa := rfl
@[simp] theorem State.folds_setWf (s : State) (pa lo len v : Nat) : (s.setWf pa lo len v).folds = s.folds := rfl
@[simp] theorem State.snaps_setWf (s : State) (pa lo len v : Nat) : (s.setWf pa lo len v).snaps = s.snaps := rfl
@[simp] theorem State.snapAt_setWf (s : State) (pa lo len v : Nat) : (s.setWf pa lo len v).snapAt = s.snapAt := rfl
@[simp] theorem State.remap_setWf (s : State) (pa lo len v : Nat) : (s.setWf pa lo len v).remap = s.remap := rfl
@[simp] theorem State.repairRec_setWf (s : State) (pa lo len v : Nat) :
    (s.setWf pa lo len v).repairRec = s.repairRec := rfl
@[simp] theorem State.settle_setWf (s : State) (pa lo len v : Nat) : (s.setWf pa lo len v).settle = s.settle := rfl
@[simp] theorem State.powerState_setWf (s : State) (pa lo len v : Nat) :
    (s.setWf pa lo len v).powerState = s.powerState := rfl
@[simp] theorem State.powered_setWf (s : State) (pa lo len v : Nat) : (s.setWf pa lo len v).powered = s.powered := rfl
@[simp] theorem State.flash_setWf (s : State) (pa lo len v : Nat) : (s.setWf pa lo len v).flash = s.flash := rfl
@[simp] theorem State.recovery_setWf (s : State) (pa lo len v : Nat) :
    (s.setWf pa lo len v).recovery = s.recovery := rfl
@[simp] theorem State.recoveryWait_setWf (s : State) (pa lo len v : Nat) :
    (s.setWf pa lo len v).recoveryWait = s.recoveryWait := rfl
@[simp] theorem State.hostAborts_setWf (s : State) (pa lo len v : Nat) :
    (s.setWf pa lo len v).hostAborts = s.hostAborts := rfl
@[simp] theorem State.fuseVersion_setWf (s : State) (pa lo len v : Nat) :
    (s.setWf pa lo len v).fuseVersion = s.fuseVersion := rfl
@[simp] theorem State.xmssIndex_setWf (s : State) (pa lo len v : Nat) :
    (s.setWf pa lo len v).xmssIndex = s.xmssIndex := rfl
@[simp] theorem State.measLog_setWf (s : State) (pa lo len v : Nat) : (s.setWf pa lo len v).measLog = s.measLog := rfl
@[simp] theorem State.booting_setWf (s : State) (pa lo len v : Nat) : (s.setWf pa lo len v).booting = s.booting := rfl
@[simp] theorem State.svn_setWf (s : State) (pa lo len v : Nat) : (s.setWf pa lo len v).svn = s.svn := rfl
@[simp] theorem State.cdHot_setWf (s : State) (pa lo len v : Nat) : (s.setWf pa lo len v).cdHot = s.cdHot := rfl
@[simp] theorem State.cdSamples_setWf (s : State) (pa lo len v : Nat) :
    (s.setWf pa lo len v).cdSamples = s.cdSamples := rfl
@[simp] theorem State.flashEnd_setWf (s : State) (pa lo len v : Nat) :
    (s.setWf pa lo len v).flashEnd = s.flashEnd := rfl

/-! ## out -/

@[simp] theorem State.free_out (s : State) (l : List Nat) : (s.out l).free = s.free := rfl
@[simp] theorem State.cur_out (s : State) (l : List Nat) : (s.out l).cur = s.cur := rfl
@[simp] theorem State.agenda_out (s : State) (l : List Nat) : (s.out l).agenda = s.agenda := rfl
@[simp] theorem State.inbox_out (s : State) (l : List Nat) : (s.out l).inbox = s.inbox := rfl
@[simp] theorem State.irqs_out (s : State) (l : List Nat) : (s.out l).irqs = s.irqs := rfl
@[simp] theorem State.hist_out (s : State) (l : List Nat) : (s.out l).hist = s.hist := rfl
@[simp] theorem State.nextId_out (s : State) (l : List Nat) : (s.out l).nextId = s.nextId := rfl
@[simp] theorem State.now_out (s : State) (l : List Nat) : (s.out l).now = s.now := rfl
@[simp] theorem State.mem_out (s : State) (l : List Nat) : (s.out l).mem = s.mem := rfl
@[simp] theorem State.win_out (s : State) (l : List Nat) : (s.out l).win = s.win := rfl
@[simp] theorem State.writes_out (s : State) (l : List Nat) : (s.out l).writes = s.writes := rfl
@[simp] theorem State.cipher_out (s : State) (l : List Nat) : (s.out l).cipher = s.cipher := rfl
@[simp] theorem State.hbmErr_out (s : State) (l : List Nat) : (s.out l).hbmErr = s.hbmErr := rfl
@[simp] theorem State.threads_out (s : State) (l : List Nat) : (s.out l).threads = s.threads := rfl
@[simp] theorem State.rr_out (s : State) (l : List Nat) : (s.out l).rr = s.rr := rfl
@[simp] theorem State.tiles_out (s : State) (l : List Nat) : (s.out l).tiles = s.tiles := rfl
@[simp] theorem State.regions_out (s : State) (l : List Nat) : (s.out l).regions = s.regions := rfl
@[simp] theorem State.parts_out (s : State) (l : List Nat) : (s.out l).parts = s.parts := rfl
@[simp] theorem State.chains_out (s : State) (l : List Nat) : (s.out l).chains = s.chains := rfl
@[simp] theorem State.twes_out (s : State) (l : List Nat) : (s.out l).twes = s.twes := rfl
@[simp] theorem State.chans_out (s : State) (l : List Nat) : (s.out l).chans = s.chans := rfl
@[simp] theorem State.windows_out (s : State) (l : List Nat) : (s.out l).windows = s.windows := rfl
@[simp] theorem State.ports_out (s : State) (l : List Nat) : (s.out l).ports = s.ports := rfl
@[simp] theorem State.keys_out (s : State) (l : List Nat) : (s.out l).keys = s.keys := rfl
@[simp] theorem State.gwAllow_out (s : State) (l : List Nat) : (s.out l).gwAllow = s.gwAllow := rfl
@[simp] theorem State.credits_out (s : State) (l : List Nat) : (s.out l).credits = s.credits := rfl
@[simp] theorem State.tagFails_out (s : State) (l : List Nat) : (s.out l).tagFails = s.tagFails := rfl
@[simp] theorem State.rx_out (s : State) (l : List Nat) : (s.out l).rx = s.rx := rfl
@[simp] theorem State.rxSeq_out (s : State) (l : List Nat) : (s.out l).rxSeq = s.rxSeq := rfl
@[simp] theorem State.arcBad_out (s : State) (l : List Nat) : (s.out l).arcBad = s.arcBad := rfl
@[simp] theorem State.arcLost_out (s : State) (l : List Nat) : (s.out l).arcLost = s.arcLost := rfl
@[simp] theorem State.oldPort_out (s : State) (l : List Nat) : (s.out l).oldPort = s.oldPort := rfl
@[simp] theorem State.counters_out (s : State) (l : List Nat) : (s.out l).counters = s.counters := rfl
@[simp] theorem State.deps_out (s : State) (l : List Nat) : (s.out l).deps = s.deps := rfl
@[simp] theorem State.depTask_out (s : State) (l : List Nat) : (s.out l).depTask = s.depTask := rfl
@[simp] theorem State.tasks_out (s : State) (l : List Nat) : (s.out l).tasks = s.tasks := rfl
@[simp] theorem State.qread_out (s : State) (l : List Nat) : (s.out l).qread = s.qread := rfl
@[simp] theorem State.kicked_out (s : State) (l : List Nat) : (s.out l).kicked = s.kicked := rfl
@[simp] theorem State.events_out (s : State) (l : List Nat) : (s.out l).events = s.events := rfl
@[simp] theorem State.fresh_out (s : State) (l : List Nat) : (s.out l).fresh = s.fresh := rfl
@[simp] theorem State.launchSerial_out (s : State) (l : List Nat) : (s.out l).launchSerial = s.launchSerial := rfl
@[simp] theorem State.freezeSerial_out (s : State) (l : List Nat) : (s.out l).freezeSerial = s.freezeSerial := rfl
@[simp] theorem State.taskSerial_out (s : State) (l : List Nat) : (s.out l).taskSerial = s.taskSerial := rfl
@[simp] theorem State.journalSerial_out (s : State) (l : List Nat) : (s.out l).journalSerial = s.journalSerial := rfl
@[simp] theorem State.watchdog_out (s : State) (l : List Nat) : (s.out l).watchdog = s.watchdog := rfl
@[simp] theorem State.freezes_out (s : State) (l : List Nat) : (s.out l).freezes = s.freezes := rfl
@[simp] theorem State.heldAcc_out (s : State) (l : List Nat) : (s.out l).heldAcc = s.heldAcc := rfl
@[simp] theorem State.images_out (s : State) (l : List Nat) : (s.out l).images = s.images := rfl
@[simp] theorem State.stagedPa_out (s : State) (l : List Nat) : (s.out l).stagedPa = s.stagedPa := rfl
@[simp] theorem State.folds_out (s : State) (l : List Nat) : (s.out l).folds = s.folds := rfl
@[simp] theorem State.snaps_out (s : State) (l : List Nat) : (s.out l).snaps = s.snaps := rfl
@[simp] theorem State.snapAt_out (s : State) (l : List Nat) : (s.out l).snapAt = s.snapAt := rfl
@[simp] theorem State.remap_out (s : State) (l : List Nat) : (s.out l).remap = s.remap := rfl
@[simp] theorem State.repairRec_out (s : State) (l : List Nat) : (s.out l).repairRec = s.repairRec := rfl
@[simp] theorem State.settle_out (s : State) (l : List Nat) : (s.out l).settle = s.settle := rfl
@[simp] theorem State.powerState_out (s : State) (l : List Nat) : (s.out l).powerState = s.powerState := rfl
@[simp] theorem State.powered_out (s : State) (l : List Nat) : (s.out l).powered = s.powered := rfl
@[simp] theorem State.flash_out (s : State) (l : List Nat) : (s.out l).flash = s.flash := rfl
@[simp] theorem State.recovery_out (s : State) (l : List Nat) : (s.out l).recovery = s.recovery := rfl
@[simp] theorem State.recoveryWait_out (s : State) (l : List Nat) : (s.out l).recoveryWait = s.recoveryWait := rfl
@[simp] theorem State.hostAborts_out (s : State) (l : List Nat) : (s.out l).hostAborts = s.hostAborts := rfl
@[simp] theorem State.fuseVersion_out (s : State) (l : List Nat) : (s.out l).fuseVersion = s.fuseVersion := rfl
@[simp] theorem State.xmssIndex_out (s : State) (l : List Nat) : (s.out l).xmssIndex = s.xmssIndex := rfl
@[simp] theorem State.measLog_out (s : State) (l : List Nat) : (s.out l).measLog = s.measLog := rfl
@[simp] theorem State.booting_out (s : State) (l : List Nat) : (s.out l).booting = s.booting := rfl
@[simp] theorem State.svn_out (s : State) (l : List Nat) : (s.out l).svn = s.svn := rfl
@[simp] theorem State.cdHot_out (s : State) (l : List Nat) : (s.out l).cdHot = s.cdHot := rfl
@[simp] theorem State.cdSamples_out (s : State) (l : List Nat) : (s.out l).cdSamples = s.cdSamples := rfl
@[simp] theorem State.flashEnd_out (s : State) (l : List Nat) : (s.out l).flashEnd = s.flashEnd := rfl

/-! ## Accessors -/

@[simp] theorem State.tile_setThread (s : State) (t : Nat) (T : Thread) (k : Nat) :
    (s.setThread t T).tile k = s.tile k := rfl
@[simp] theorem State.region_setThread (s : State) (t : Nat) (T : Thread) (k : Nat) :
    (s.setThread t T).region k = s.region k := rfl
@[simp] theorem State.part_setThread (s : State) (t : Nat) (T : Thread) (k : Nat) :
    (s.setThread t T).part k = s.part k := rfl
@[simp] theorem State.w_setThread (s : State) (t : Nat) (T : Thread) (k : Nat) : (s.setThread t T).w k = s.w k := rfl
@[simp] theorem State.byte_setThread (s : State) (t : Nat) (T : Thread) (k : Nat) :
    (s.setThread t T).byte k = s.byte k := rfl
@[simp] theorem State.counter_setThread (s : State) (t : Nat) (T : Thread) (k : Nat) :
    (s.setThread t T).counter k = s.counter k := rfl
@[simp] theorem State.thread_setTile (s : State) (t : Nat) (T : Tile) (k : Nat) :
    (s.setTile t T).thread k = s.thread k := rfl
@[simp] theorem State.region_setTile (s : State) (t : Nat) (T : Tile) (k : Nat) :
    (s.setTile t T).region k = s.region k := rfl
@[simp] theorem State.part_setTile (s : State) (t : Nat) (T : Tile) (k : Nat) :
    (s.setTile t T).part k = s.part k := rfl
@[simp] theorem State.w_setTile (s : State) (t : Nat) (T : Tile) (k : Nat) : (s.setTile t T).w k = s.w k := rfl
@[simp] theorem State.byte_setTile (s : State) (t : Nat) (T : Tile) (k : Nat) :
    (s.setTile t T).byte k = s.byte k := rfl
@[simp] theorem State.counter_setTile (s : State) (t : Nat) (T : Tile) (k : Nat) :
    (s.setTile t T).counter k = s.counter k := rfl
@[simp] theorem State.thread_setRegion (s : State) (r : Nat) (R : Region) (k : Nat) :
    (s.setRegion r R).thread k = s.thread k := rfl
@[simp] theorem State.tile_setRegion (s : State) (r : Nat) (R : Region) (k : Nat) :
    (s.setRegion r R).tile k = s.tile k := rfl
@[simp] theorem State.part_setRegion (s : State) (r : Nat) (R : Region) (k : Nat) :
    (s.setRegion r R).part k = s.part k := rfl
@[simp] theorem State.w_setRegion (s : State) (r : Nat) (R : Region) (k : Nat) : (s.setRegion r R).w k = s.w k := rfl
@[simp] theorem State.byte_setRegion (s : State) (r : Nat) (R : Region) (k : Nat) :
    (s.setRegion r R).byte k = s.byte k := rfl
@[simp] theorem State.counter_setRegion (s : State) (r : Nat) (R : Region) (k : Nat) :
    (s.setRegion r R).counter k = s.counter k := rfl
@[simp] theorem State.thread_setPart (s : State) (p : Nat) (P : Part) (k : Nat) :
    (s.setPart p P).thread k = s.thread k := rfl
@[simp] theorem State.tile_setPart (s : State) (p : Nat) (P : Part) (k : Nat) :
    (s.setPart p P).tile k = s.tile k := rfl
@[simp] theorem State.region_setPart (s : State) (p : Nat) (P : Part) (k : Nat) :
    (s.setPart p P).region k = s.region k := rfl
@[simp] theorem State.w_setPart (s : State) (p : Nat) (P : Part) (k : Nat) : (s.setPart p P).w k = s.w k := rfl
@[simp] theorem State.byte_setPart (s : State) (p : Nat) (P : Part) (k : Nat) :
    (s.setPart p P).byte k = s.byte k := rfl
@[simp] theorem State.counter_setPart (s : State) (p : Nat) (P : Part) (k : Nat) :
    (s.setPart p P).counter k = s.counter k := rfl
@[simp] theorem State.thread_setW (s : State) (pa : Nat) (v : Word) (k : Nat) :
    (s.setW pa v).thread k = s.thread k := rfl
@[simp] theorem State.tile_setW (s : State) (pa : Nat) (v : Word) (k : Nat) : (s.setW pa v).tile k = s.tile k := rfl
@[simp] theorem State.region_setW (s : State) (pa : Nat) (v : Word) (k : Nat) :
    (s.setW pa v).region k = s.region k := rfl
@[simp] theorem State.part_setW (s : State) (pa : Nat) (v : Word) (k : Nat) : (s.setW pa v).part k = s.part k := rfl
@[simp] theorem State.byte_setW (s : State) (pa : Nat) (v : Word) (k : Nat) : (s.setW pa v).byte k = s.byte k := rfl
@[simp] theorem State.counter_setW (s : State) (pa : Nat) (v : Word) (k : Nat) :
    (s.setW pa v).counter k = s.counter k := rfl
@[simp] theorem State.thread_setWf (s : State) (pa lo len v : Nat) (k : Nat) :
    (s.setWf pa lo len v).thread k = s.thread k := rfl
@[simp] theorem State.tile_setWf (s : State) (pa lo len v : Nat) (k : Nat) :
    (s.setWf pa lo len v).tile k = s.tile k := rfl
@[simp] theorem State.region_setWf (s : State) (pa lo len v : Nat) (k : Nat) :
    (s.setWf pa lo len v).region k = s.region k := rfl
@[simp] theorem State.part_setWf (s : State) (pa lo len v : Nat) (k : Nat) :
    (s.setWf pa lo len v).part k = s.part k := rfl
@[simp] theorem State.byte_setWf (s : State) (pa lo len v : Nat) (k : Nat) :
    (s.setWf pa lo len v).byte k = s.byte k := rfl
@[simp] theorem State.counter_setWf (s : State) (pa lo len v : Nat) (k : Nat) :
    (s.setWf pa lo len v).counter k = s.counter k := rfl
@[simp] theorem State.thread_out (s : State) (l : List Nat) (k : Nat) : (s.out l).thread k = s.thread k := rfl
@[simp] theorem State.tile_out (s : State) (l : List Nat) (k : Nat) : (s.out l).tile k = s.tile k := rfl
@[simp] theorem State.region_out (s : State) (l : List Nat) (k : Nat) : (s.out l).region k = s.region k := rfl
@[simp] theorem State.part_out (s : State) (l : List Nat) (k : Nat) : (s.out l).part k = s.part k := rfl
@[simp] theorem State.w_out (s : State) (l : List Nat) (k : Nat) : (s.out l).w k = s.w k := rfl
@[simp] theorem State.byte_out (s : State) (l : List Nat) (k : Nat) : (s.out l).byte k = s.byte k := rfl
@[simp] theorem State.counter_out (s : State) (l : List Nat) (k : Nat) : (s.out l).counter k = s.counter k := rfl

end Sys2Proof.Machine
end

