-- ==== Sys2Proof/Laws/Links.lean ====
section
/-! SUPPORT. What the shared operations of the links can do, said once: a gateway's answer, the checks of an arriving line,
the records that leave. -/

namespace Sys2Proof.Machine

/-! ## The gateway (R364) -/

/-- A gateway denies the traffic of another owner, holds what its allowance does not cover, and admits the rest. -/
theorem State.gateway_cases (s : State) (p owner n : Nat) (again : Bool) :
    (s.gwOwner p ≠ owner ∧ (s.gateway p owner n again).2 = .denied) ∨
    (s.gwOwner p = owner ∧ s.gwRate p ≠ 0 ∧ tget 0 s.gwAllow p < n ∧ (s.gateway p owner n again).2 = .held) ∨
    (s.gwOwner p = owner ∧ (s.gwRate p = 0 ∨ n ≤ tget 0 s.gwAllow p) ∧ (s.gateway p owner n again).2 = .admitted) := by
  unfold State.gateway
  by_cases ho : s.gwOwner p = owner
  · by_cases hh : s.gwRate p ≠ 0 ∧ tget 0 s.gwAllow p < n
    · exact .inr (.inl ⟨ho, hh.1, hh.2, by simp [ho, hh]⟩)
    · refine .inr (.inr ⟨ho, ?_, by simp [ho, hh]⟩)
      by_cases h0 : s.gwRate p = 0
      · exact .inl h0
      · exact .inr (Nat.le_of_not_lt fun h => hh ⟨h0, h⟩)
  · exact .inl ⟨ho, by simp [ho]⟩

/-- A gateway changes its counters and its allowance, nothing else. -/
theorem State.gateway_rest (s : State) (p owner n : Nat) (again : Bool) :
    { (s.gateway p owner n again).1 with win := s.win, gwAllow := s.gwAllow } = s := by
  unfold State.gateway
  dsimp only
  split
  · rfl
  · split
    · split <;> rfl
    · split <;> rfl

/-- A line that the gateway holds again is not counted again. -/
theorem State.gateway_held_again (s : State) (p owner n : Nat) (h : (s.gateway p owner n true).2 = .held) :
    (s.gateway p owner n true).1 = s := by
  unfold State.gateway at h ⊢
  dsimp only at h ⊢
  split at h
  · cases h
  · rename_i ho
    split at h
    · rename_i hh
      simp [ho, hh]
    · cases h

/-! ## The checks of an arriving line (R249, R357 to R359, R378) -/

/-- A line that passes every check changes nothing: it is intact, for this package, under a key of its source's slot, not a
replay, and no earlier line of its channel waits. -/
theorem State.checkLine_some {s : State} {l : LineIn} {again : Turn} {key : BitVec 768}
    (h : (s.checkLine l again).2 = some key) :
    (s.checkLine l again).1 = s ∧ l.crcOk = true ∧ l.dst = Config.pkgId.toNat ∧ s.lineKey l = some key ∧
      s.rxNext l key ≤ l.seq ∧ s.rxBlocked l = false := by
  unfold State.checkLine at h ⊢
  by_cases hc : l.crcOk = true
  · by_cases hd : l.dst = Config.pkgId.toNat
    · cases hk : s.lineKey l with
      | none => simp [hc, hd, hk] at h; split at h <;> cases h
      | some k =>
        by_cases hs : l.seq < s.rxNext l k
        · simp [hc, hd, hk, hs] at h
        · by_cases hb : s.rxBlocked l = true
          · simp [hc, hd, hk, hs, hb] at h
          · simp only [Bool.not_eq_true] at hb
            simp [hc, hd, hk, hs, hb] at h ⊢
            subst h
            exact ⟨rfl, Nat.le_of_not_lt hs⟩
    · simp [hc, hd] at h
  · simp [hc] at h

/-- Where those conditions hold, the line passes. -/
theorem State.checkLine_passes {s : State} {l : LineIn} {key : BitVec 768} (again : Turn) (hc : l.crcOk = true)
    (hd : l.dst = Config.pkgId.toNat) (hk : s.lineKey l = some key) (hs : s.rxNext l key ≤ l.seq)
    (hb : s.rxBlocked l = false) : s.checkLine l again = (s, some key) := by
  simp [State.checkLine, hc, hd, hk, Nat.not_lt.mpr hs, hb]

/-- A line that has passed under a key is never performed again under it. -/
theorem State.rxNext_rxPass (s : State) (l : LineIn) (key : BitVec 768) :
    (s.rxPass l key).rxNext l key = max (s.rxNext l key) (l.seq + 1) := by
  simp [State.rxPass, State.rxNext, tget_tset_same, State.rxDone]

/-! ## What leaves -/

@[simp] theorem State.out_outbox (s : State) (r : List Nat) : (s.out r).outbox = s.outbox ++ [r] := rfl
@[simp] theorem State.out_mem (s : State) (r : List Nat) : (s.out r).mem = s.mem := rfl
@[simp] theorem State.out_writes (s : State) (r : List Nat) : (s.out r).writes = s.writes := rfl
@[simp] theorem State.ackOut_outbox (s : State) (src seq : Nat) : (s.ackOut src seq).outbox = s.outbox ++ [[10, src, seq]] := rfl
@[simp] theorem State.ackOut_mem (s : State) (src seq : Nat) : (s.ackOut src seq).mem = s.mem := rfl
@[simp] theorem State.denyOut_outbox (s : State) (src seq c : Nat) :
    (s.denyOut src seq c).outbox = s.outbox ++ [[9, src, seq, c]] := rfl
@[simp] theorem State.denyOut_mem (s : State) (src seq c : Nat) : (s.denyOut src seq c).mem = s.mem := rfl

/-- A write that this package answers itself leaves no line and is acknowledged with a denial. -/
theorem State.issueWrite_denied (s : State) (w : PWrite) (h : s.localDenial w.pa = true) :
    s.issueWrite w = s.issue { w with performed := true, deny := 0x06 } := by
  simp [State.issueWrite, h]

/-- A write to a home in this package is issued and sends nothing. -/
theorem State.issueWrite_here (s : State) (w : PWrite) (h : s.localDenial w.pa = false) (ho : otherPkg w.pa = none) :
    s.issueWrite w = s.issue w := by
  simp [State.issueWrite, h, ho]

end Sys2Proof.Machine
end

