-- ==== Sys2Proof/Laws/Thread.lean ====
section
/-! SUPPORT. The registers of a thread, and what the shared operations of the control classes do. -/

namespace Sys2Proof.Machine

theorem Thread.getR_setR_same (T : Thread) {d : Nat} (v : Word) (h : d ≠ 0) : (T.setR d v).getR d = v := by
  unfold Thread.setR Thread.getR
  rw [if_neg h, if_neg h]
  split <;> simp [tget_tset_same]

theorem Thread.getR_setR_ne (T : Thread) {d r : Nat} (v : Word) (h : r ≠ d) : (T.setR d v).getR r = T.getR r := by
  unfold Thread.setR Thread.getR
  split
  · rfl
  · split
    · split
      · rfl
      · split
        · exact tget_tset_ne _ _ _ h
        · rfl
    · split
      · rfl
      · split
        · rfl
        · exact tget_tset_ne _ _ _ (by omega)

@[simp] theorem Thread.getR_zero (T : Thread) : T.getR 0 = 0 := rfl

theorem Thread.tag_setR (T : Thread) (d r : Nat) (v : Word) (h : 32 ≤ r) :
    (T.setR d v).tag r = if r = d then false else T.tag r := by
  unfold Thread.setR Thread.tag
  split
  · rw [if_neg (by omega)]
  · split
    · rw [if_neg (by omega)]
    · split
      · subst r; exact tget_tset_same false T.htag (d - 32) false
      · rename_i h1; exact tget_tset_ne false T.htag (n := d - 32) (k := r - 32) false (by omega)

theorem Thread.setR_rest (T : Thread) (d : Nat) (v : Word) :
    { T.setR d v with regs := T.regs, h := T.h, htag := T.htag } = T := by
  unfold Thread.setR
  split
  · rfl
  · split <;> rfl

/-- What a register result does to a thread. -/
theorem Thread.wrote_result (T : Thread) (now d lat : Nat) (v : Word) :
    Wrote T ((T.result now d lat v).complete now 1) now d lat v := by
  have hp : (T.setR d v).pc = T.pc := by rw [show T.pc = _ from congrArg Thread.pc (T.setR_rest d v).symm]
  have hr : (T.setR d v).ready = T.ready := by rw [show T.ready = _ from congrArg Thread.ready (T.setR_rest d v).symm]
  refine ⟨⟨?_, rfl, ?_⟩, ⟨fun h => T.getR_setR_same v h, rfl, fun r h => T.getR_setR_ne v h,
    fun r h => T.tag_setR d r v h, ?_⟩⟩
  · show (T.setR d v).pc + 1 = _
    rw [hp]
  · have e := T.setR_rest d v
    conv => rhs; rw [← e]
    unfold Thread.result Thread.complete Thread.setR
    split
    · rfl
    · split <;> rfl
  · exact tget_tset_same _ _ _ _

theorem kindIn_all (T : Thread) : T.kindIn kAll = true := by
  unfold Thread.kindIn kAll Thread.isKind
  cases T.kind <;> simp

theorem onThread_runs {s : State} {t : Nat} {ks : List Kind} (f : Nat → Thread → State) (hc : s.cur = .thread t)
    (hk : (s.thread t).kindIn ks = true) : onThread s ks f = .next (f t (s.thread t)) := by
  unfold onThread
  simp [hc, hk]

theorem onThread_priv {s : State} {t : Nat} {ks : List Kind} (f : Nat → Thread → State) (hc : s.cur = .thread t)
    (hk : (s.thread t).kindIn ks = false) : onThread s ks f = .next (s.freezeThread t 0x03) := by
  unfold onThread
  simp [hc, hk]

/-- An instruction of the control classes never answers for a unit that is no thread. -/
theorem onThread_hub {s : State} {ks : List Kind} (f : Nat → Thread → State) (hc : s.cur = .hub) :
    onThread s ks f = .fault .wrongUnit := by
  unfold onThread
  simp [hc]

theorem regOp_runs {s : State} {t : Nat} (d : BitVec 6) (lat : Nat) (f : Thread → Word) (hc : s.cur = .thread t) :
    ∃ T, regOp s d lat f = .next (s.setThread t T) ∧ Wrote (s.thread t) T s.now d.toNat lat (f (s.thread t)) :=
  ⟨_, onThread_runs _ hc (kindIn_all _), Thread.wrote_result _ _ _ _ _⟩

theorem State.thread_setThread_same (s : State) (t : Nat) (T : Thread) : (s.setThread t T).thread t = T :=
  tget_tset_same _ _ _ _
theorem State.thread_setThread_ne (s : State) {t u : Nat} (T : Thread) (h : u ≠ t) :
    (s.setThread t T).thread u = s.thread u := tget_tset_ne _ _ _ h
theorem State.tile_setTile_same (s : State) (t : Nat) (T : Tile) : (s.setTile t T).tile t = T := tget_tset_same _ _ _ _
theorem State.tile_setTile_ne (s : State) {t u : Nat} (T : Tile) (h : u ≠ t) : (s.setTile t T).tile u = s.tile u :=
  tget_tset_ne _ _ _ h
theorem State.region_setRegion_same (s : State) (r : Nat) (R : Region) : (s.setRegion r R).region r = R :=
  tget_tset_same _ _ _ _
theorem State.region_setRegion_ne (s : State) {r u : Nat} (R : Region) (h : u ≠ r) :
    (s.setRegion r R).region u = s.region u := tget_tset_ne _ _ _ h
theorem State.part_setPart_same (s : State) (p : Nat) (P : Part) : (s.setPart p P).part p = P := tget_tset_same _ _ _ _
theorem State.part_setPart_ne (s : State) {p u : Nat} (P : Part) (h : u ≠ p) : (s.setPart p P).part u = s.part u :=
  tget_tset_ne _ _ _ h

end Sys2Proof.Machine
end

