-- ==== Sys2Proof/Laws/Ops.lean ====
section
/-! SUPPORT. What each operation that the meanings share can do, said once: the meanings of one class are calls of it. -/

namespace Sys2Proof.Machine

/-! ## Control threads -/

theorem divOp_runs {s : State} {t : Nat} (d a b : BitVec 6) (f : Word → Word → Word) (hc : s.cur = .thread t)
    (hb : (s.thread t).getR b.toNat ≠ 0) :
    ∃ T, divOp s d a b f = .next (s.setThread t { T with divAt := s.now + 20 }) ∧
      Wrote (s.thread t) T s.now d.toNat 20 (f ((s.thread t).getR a.toNat) ((s.thread t).getR b.toNat)) := by
  refine ⟨_, ?_, Thread.wrote_result (s.thread t) s.now d.toNat 20 _⟩
  unfold divOp
  rw [onThread_runs _ hc (kindIn_all _), if_neg hb]

theorem divOp_zero {s : State} {t : Nat} (d a b : BitVec 6) (f : Word → Word → Word) (hc : s.cur = .thread t)
    (hb : (s.thread t).getR b.toNat = 0) : divOp s d a b f = .next (s.freezeThread t 0x08) := by
  unfold divOp
  rw [onThread_runs _ hc (kindIn_all _), if_pos hb]

theorem branchOp_runs {s : State} {t : Nat} (off : BitVec 32) (taken : Thread → Bool) (hc : s.cur = .thread t) :
    branchOp s off taken = .next (s.setThread t (if taken (s.thread t) then
      { s.thread t with pc := branchTarget (s.thread t) off, nextAt := s.now + 2 } else (s.thread t).complete s.now 1)) :=
  onThread_runs _ hc (kindIn_all _)

theorem linkOp_runs {s : State} {t : Nat} (d : BitVec 6) (target : Thread → Word) (hc : s.cur = .thread t) :
    linkOp s d target = .next (s.setThread t { (s.thread t).result s.now d.toNat 1 ((s.thread t).pc + 1) with
      pc := target (s.thread t), nextAt := s.now + 2 }) :=
  onThread_runs _ hc (kindIn_all _)

/-- A capability that passes its checks: the operation runs on its freeze. -/
theorem onCap_runs {s : State} {t : Nat} {a : BitVec 6} {right : Nat} {x : Freeze} (f : Nat → Thread → Freeze → State)
    (hc : s.cur = .thread t) (hk : (s.thread t).kindIn [.handler] = true)
    (hx : s.capCheck (s.thread t) a.toNat right = .ok x) : onCap s a right f = .next (f t (s.thread t) x) := by
  unfold onCap
  rw [onThread_runs _ hc hk, hx]

/-- One that fails a check freezes the handler with CAP. -/
theorem onCap_fails {s : State} {t n : Nat} {a : BitVec 6} {right : Nat} (f : Nat → Thread → Freeze → State)
    (hc : s.cur = .thread t) (hk : (s.thread t).kindIn [.handler] = true)
    (hx : s.capCheck (s.thread t) a.toNat right = .error n) : onCap s a right f = .next (s.freezeCap t n) := by
  unfold onCap
  rw [onThread_runs _ hc hk, hx]

/-! ## Tiles -/

theorem onFabric_runs {s : State} {r t row iter : Nat} (f : FabCtx → Tab Tile → FabOut)
    (hc : s.cur = .tile r t row iter) :
    onFabric s f = .next (s.putFab r (f (s.fabCtx r t row iter) s.tiles)) := by
  unfold onFabric
  rw [hc]

theorem onFabric_hub {s : State} (f : FabCtx → Tab Tile → FabOut) (hc : s.cur = .hub) :
    onFabric s f = .fault .wrongUnit := by
  unfold onFabric
  rw [hc]

/-- A fabric operation changes tiles and one region: with those put back, the state is as before. -/
theorem State.putFab_rest (s : State) (r : Nat) (o : FabOut) :
    { s.putFab r o with tiles := s.tiles, regions := s.regions } = s := by
  have put : ∃ rs, s.putFab r o = { ({ s with regions := rs } : State) with tiles := o.tiles } := ⟨_, rfl⟩
  obtain ⟨rs, h⟩ := put
  rw [h]

/-- An operation on one tile changes that tile, and adds its tokens to the region's. -/
theorem tileOp_runs {s : State} {r t row iter : Nat} (f : FabCtx → Tile → Tile × List Token)
    (hc : s.cur = .tile r t row iter) :
    ∃ v, tileOp s f = .next v ∧ s.fabric v r [(t, (f (s.fabCtx r t row iter) (s.tile t)).1)]
      (f (s.fabCtx r t row iter) (s.tile t)).2 := by
  refine ⟨_, onFabric_runs _ hc, ?_, ?_, tget_tset_same _ _ _ _, fun q hq => tget_tset_ne _ _ _ hq, s.putFab_rest r _⟩
  · intro e he
    rw [List.mem_singleton] at he
    subst he
    exact tget_tset_same _ _ _ _
  · intro u hu
    exact tget_tset_ne _ _ _ fun h => hu _ (List.mem_singleton.2 rfl) h.symm

/-- One that sends no token leaves the regions as they were. -/
theorem tileOp1_runs {s : State} {r t row iter : Nat} (f : FabCtx → Tile → Tile) (hc : s.cur = .tile r t row iter) :
    ∃ v, tileOp1 s f = .next v ∧ s.onlyTile v t (f (s.fabCtx r t row iter) (s.tile t)) := by
  have same : ∀ R : Region, { R with tokens := R.tokens ++ [] } = R := fun R => by rw [List.append_nil]
  refine ⟨_, onFabric_runs _ hc, tget_tset_same _ _ _ _, fun u hu => tget_tset_ne _ _ _ hu, fun q => ?_,
    s.putFab_rest r _⟩
  by_cases hq : q = r
  · subst hq
    exact (tget_tset_same _ _ _ _).trans (same _)
  · exact tget_tset_ne _ _ _ hq

/-- An FL word loads its PAYLOAD beside its own effect. -/
theorem longOp_runs {s : State} {r t row iter : Nat} (i : Instr) (f : FabCtx → Tile → Tile)
    (hc : s.cur = .tile r t row iter) :
    ∃ v, longOp s i f = .next v ∧
      s.onlyTile v t { f (s.fabCtx r t row iter) (s.tile t) with
        imm := some (iter, payload i), kUe := (f (s.fabCtx r t row iter) (s.tile t)).kUe.filter (· ≠ 8) } :=
  tileOp1_runs _ hc

/-! ## Stores and the hub -/

theorem storeRow_some {s u : State} (pa : Nat) : storeRow s pa (some u) = .next u := by
  unfold storeRow
  cases s.cur <;> rfl

theorem storeRow_none {s : State} {t : Nat} (pa : Nat) (hc : s.cur = .thread t) :
    storeRow s pa none = .next (s.freezeThread t 0x06 (BitVec.ofNat 64 pa)) := by
  unfold storeRow
  rw [hc]

theorem unitRow_true (s f : State) : unitRow s true f = .next f := rfl
theorem unitRow_false (s f : State) : unitRow s false f = .next s := rfl

/-- A register that is written reads as the value. -/
@[simp] theorem State.w_setW_same (s : State) (pa : Nat) (v : Word) : (s.setW pa v).w pa = v := by
  unfold State.w State.setW
  simp only [tget_tset_same, BitVec.xor_assoc, BitVec.xor_self, BitVec.xor_zero]

theorem State.w_setW_ne (s : State) {pa k : Nat} (v : Word) (h : k ≠ pa) : (s.setW pa v).w k = s.w k := by
  unfold State.w State.setW
  simp only [tget_tset_ne _ _ _ h]

/-! ## The loader -/

/-- An accepted image passes every check. -/
theorem refusal_none {d : ImageDecl} {me : Nat} (h : refusal d me = []) :
    badImage d = [] ∧ badFrames d.graph = [] ∧ badSet d me = [] ∧ badRates d me = [] ∧ badDrains d me = [] ∧
      badYield d me = [] ∧ badSchedules d = [] := by
  unfold refusal at h
  split at h
  · cases h
  · rename_i hi
    simp only [List.append_eq_nil_iff] at h
    simp_all only [and_self]

end Sys2Proof.Machine
end

