-- ==== Sys2Proof/Laws/PerInstr.lean ====
section
/-! SUPPORT. The family Encoding: an instruction's fields fit the widths of its layout, and reading the layout gives the
instruction back (R46 to R63). One lemma per constructor. -/

namespace Sys2Proof

/-- Every field fits its width, and a slot's opcode is not 0. -/
def Form.Fits : Form → Prop
  | .m op acc src md imm => 0 < op ∧ op < 128 ∧ acc < 4 ∧ src < 16 ∧ md < 16 ∧ imm < 128
  | .v op _ => 0 < op ∧ op < 128
  | .s op pd sp simm => 0 < op ∧ op < 128 ∧ pd < 32 ∧ sp < 16 ∧ simm < 256
  | .long lop p => lop < 256 ∧ p < 2 ^ 64
  | .ctl cls op d rest => 8 ≤ cls ∧ cls ≤ 13 ∧ op < 256 ∧ d < 64 ∧ rest < 2 ^ 62
  | .nul | .guard | .none => True

/-- An instruction with a word is read back from its layout. -/
def Laws.Encoding.Statement (i : Instr) : Prop :=
  hasWord i = true → readForm (form i) = some i ∧ (form i).Fits

namespace Laws

theorem Encoding.no_word {i : Instr} (h : hasWord i = false) : Encoding.Statement i :=
  fun h' => absurd (h.symm.trans h') (by decide)

theorem Encoding.of_form {i : Instr} {f : Form} (h : form i = f) (h1 : readForm f = some i) (h2 : f.Fits) :
    Encoding.Statement i := fun _ => by rw [h]; exact ⟨h1, h2⟩

theorem bv_of {n : Nat} (x : BitVec n) (k : Nat) (h : k % 2 ^ n = x.toNat) : BitVec.ofNat n k = x :=
  BitVec.eq_of_toNat_eq (by rw [BitVec.toNat_ofNat]; exact h)

@[simp] theorem bv_self {n : Nat} (x : BitVec n) : BitVec.ofNat n x.toNat = x := bv_of x _ (Nat.mod_eq_of_lt x.isLt)

theorem pack_cons (w v : Nat) (fs : List (Nat × Nat)) : pack ((w, v) :: fs) = v % 2 ^ w + 2 ^ w * pack fs := rfl
theorem pack_nil : pack [] = 0 := rfl

theorem restAlu_a (a b : BitVec 6) : bitsOf (restAlu a b) 56 6 = a.toNat := by
  have := a.isLt; have := b.isLt
  simp only [restAlu, bitsOf, pack_cons, pack_nil]; omega
theorem restAlu_b (a b : BitVec 6) : bitsOf (restAlu a b) 50 6 = b.toNat := by
  have := a.isLt; have := b.isLt
  simp only [restAlu, bitsOf, pack_cons, pack_nil]; omega
theorem restAlu_lt (a b : BitVec 6) : restAlu a b < 2 ^ 62 := by
  have := a.isLt; have := b.isLt
  simp only [restAlu, pack_cons, pack_nil]; omega
theorem restImm_a (a b : BitVec 6) (i : Nat) : bitsOf (restImm a b i) 56 6 = a.toNat := by
  have := a.isLt; have := b.isLt
  simp only [restImm, bitsOf, pack_cons, pack_nil]; omega
theorem restImm_b (a b : BitVec 6) (i : Nat) : bitsOf (restImm a b i) 50 6 = b.toNat := by
  have := a.isLt; have := b.isLt
  simp only [restImm, bitsOf, pack_cons, pack_nil]; omega
theorem restImm_i (a b : BitVec 6) (i : Nat) : BitVec.ofNat 32 (bitsOf (restImm a b i) 18 32) = BitVec.ofNat 32 i := by
  have := a.isLt; have := b.isLt
  apply BitVec.eq_of_toNat_eq
  simp only [restImm, bitsOf, pack_cons, pack_nil, BitVec.toNat_ofNat]; omega
theorem restImm_lt (a b : BitVec 6) (i : Nat) : restImm a b i < 2 ^ 62 := by
  have := a.isLt; have := b.isLt
  simp only [restImm, pack_cons, pack_nil]; omega
theorem restWide_i (i : BitVec 48) : bitsOf (restWide i) 8 48 = i.toNat := by
  have := i.isLt
  simp only [restWide, bitsOf, pack_cons, pack_nil]; omega
theorem restWide_lt (i : BitVec 48) : restWide i < 2 ^ 62 := by
  have := i.isLt
  simp only [restWide, pack_cons, pack_nil]; omega
theorem restMem_lt (m : MemArgs) : restMem m < 2 ^ 62 := by
  simp only [restMem, pack_cons, pack_nil]; omega
theorem restMem_args (m : MemArgs) : readMemArgs m.d.toNat (restMem m) = m := by
  obtain ⟨d, a, b, sz, scope, aop, ord, ford, off⟩ := m
  have := a.isLt; have := b.isLt; have := sz.isLt; have := scope.isLt; have := aop.isLt; have := ord.isLt
  have := ford.isLt; have := off.isLt
  simp only [readMemArgs, restMem, bv_self, MemArgs.mk.injEq, true_and]
  refine ⟨?_, ?_, ?_, ?_, ?_, ?_, ?_, ?_⟩ <;>
    (apply bv_of; simp only [bitsOf, pack_cons, pack_nil]; omega)

theorem bool_of (b : Bool) (k : Nat) (h : k = b.toNat) : decide (k = 1) = b := by
  subst h; cases b <;> rfl
theorem bit_zero (b : Bool) : (BitVec.ofNat 32 b.toNat)[0] = b := by cases b <;> rfl
theorem cut_12 (x : BitVec 12) : (BitVec.ofNat 32 x.toNat).setWidth 12 = x := by
  have := x.isLt
  apply BitVec.eq_of_toNat_eq; simp only [BitVec.toNat_setWidth, BitVec.toNat_ofNat]; omega
theorem cut_9 (x : BitVec 9) : (BitVec.ofNat 32 x.toNat).setWidth 9 = x := by
  have := x.isLt
  apply BitVec.eq_of_toNat_eq; simp only [BitVec.toNat_setWidth, BitVec.toNat_ofNat]; omega

theorem read_alu (op : Nat) (d a b : BitVec 6) : readForm (.ctl 8 op d.toNat (restAlu a b)) = readAlu op d a b := by
  show readAlu op _ _ _ = _
  rw [restAlu_a, restAlu_b, bv_self, bv_self, bv_self]
theorem read_imm (op : Nat) (d a : BitVec 6) (i : BitVec 32) :
    readForm (.ctl 9 op d.toNat (restImm a 0 i.toNat)) = readImm op d a i := by
  show readImm op _ _ _ = _
  rw [restImm_a, restImm_i, bv_self, bv_self, bv_self]
theorem read_mem (op : Nat) (m : MemArgs) : readForm (.ctl 10 op m.d.toNat (restMem m)) = readMem op m := by
  show readMem op _ = _
  rw [restMem_args]
theorem read_br (op : Nat) (d a b : BitVec 6) (i : BitVec 32) :
    readForm (.ctl 11 op d.toNat (restImm a b i.toNat)) = readBr op d a b i := by
  show readBr op _ _ _ _ = _
  rw [restImm_a, restImm_b, restImm_i, bv_self, bv_self, bv_self, bv_self]
theorem read_sys (op : Nat) (d a b : BitVec 6) (i : Nat) :
    readForm (.ctl 12 op d.toNat (restImm a b i)) = readSys op d a b (BitVec.ofNat 32 i) := by
  show readSys op _ _ _ _ = _
  rw [restImm_a, restImm_b, restImm_i, bv_self, bv_self, bv_self]
theorem read_wide (d : BitVec 6) (i : BitVec 48) :
    readForm (.ctl 13 1 d.toNat (restWide i)) = some (.limm d i) ∧
    readForm (.ctl 13 2 d.toNat (restWide i)) = some (.limmz d i) ∧
    readForm (.ctl 13 3 d.toNat (restWide i)) = some (.limmh d i) := by
  refine ⟨?_, ?_, ?_⟩
  · show some (Instr.limm _ _) = _; rw [restWide_i, bv_self, bv_self]
  · show some (Instr.limmz _ _) = _; rw [restWide_i, bv_self, bv_self]
  · show some (Instr.limmh _ _) = _; rw [restWide_i, bv_self, bv_self]
theorem fits_v {op : Nat} (h : 0 < op ∧ op < 128) (o : VArgs) : (Form.v op o).Fits := h
theorem fits_alu {op : Nat} (h : op < 256) (d a b : BitVec 6) : (Form.ctl 8 op d.toNat (restAlu a b)).Fits :=
  ⟨by decide, by decide, h, d.isLt, restAlu_lt a b⟩
theorem fits_imm {cls op : Nat} (h : 8 ≤ cls ∧ cls ≤ 13 ∧ op < 256) (d a b : BitVec 6) (i : Nat) :
    (Form.ctl cls op d.toNat (restImm a b i)).Fits := ⟨h.1, h.2.1, h.2.2, d.isLt, restImm_lt a b i⟩
theorem fits_imm0 {cls op : Nat} (h : 8 ≤ cls ∧ cls ≤ 13 ∧ op < 256) (a b : BitVec 6) (i : Nat) :
    (Form.ctl cls op 0 (restImm a b i)).Fits := ⟨h.1, h.2.1, h.2.2, by decide, restImm_lt a b i⟩
theorem fits_wide {op : Nat} (h : op < 256) (d : BitVec 6) (i : BitVec 48) : (Form.ctl 13 op d.toNat (restWide i)).Fits :=
  ⟨by decide, by decide, h, d.isLt, restWide_lt i⟩
theorem fits_mem {op : Nat} (h : op < 256) (m : MemArgs) : (Form.ctl 10 op m.d.toNat (restMem m)).Fits :=
  ⟨by decide, by decide, h, m.d.isLt, restMem_lt m⟩

theorem Encoding.nop : Encoding.Statement .nop := fun _ => ⟨rfl, trivial⟩
theorem Encoding.guard : Encoding.Statement .guard := fun _ => ⟨rfl, trivial⟩
theorem Encoding.mxhdr (stat : Bool) (opnd : Bool) (src : BitVec 4) (st : Bool) (hd : BitVec 2) :
    Encoding.Statement (.mxhdr stat opnd src st hd) := by
  have := Bool.toNat_le stat
  have := Bool.toNat_le opnd
  have := src.isLt
  have := Bool.toNat_le st
  have := hd.isLt
  refine Encoding.of_form (f := .m 1 0 src.toNat (stat.toNat + 2 * opnd.toNat + 8 * st.toNat) hd.toNat) rfl ?_ ?_
  · show some (Instr.mxhdr _ _ _ _ _) = _
    simp only [Option.some.injEq, Instr.mxhdr.injEq]
    repeat' apply And.intro
    all_goals first
      | exact bv_self _
      | (apply bv_of; simp only [bitsOf, pack_cons, pack_nil]; omega)
      | (apply bv_of; omega)
      | (apply bool_of; simp only [bitsOf, pack_cons, pack_nil]; omega)
      | (apply bool_of; omega)
  · simp only [Form.Fits]; omega
theorem Encoding.mxldb (sc : Bool) (side : Bool) (ls : BitVec 4) (n : BitVec 5) :
    Encoding.Statement (.mxldb sc side ls n) := by
  have := Bool.toNat_le sc
  have := Bool.toNat_le side
  have := ls.isLt
  have := n.isLt
  refine Encoding.of_form (f := .m 2 0 ls.toNat (sc.toNat + 2 * side.toNat) n.toNat) rfl ?_ ?_
  · show some (Instr.mxldb _ _ _ _) = _
    simp only [Option.some.injEq, Instr.mxldb.injEq]
    repeat' apply And.intro
    all_goals first
      | exact bv_self _
      | (apply bv_of; simp only [bitsOf, pack_cons, pack_nil]; omega)
      | (apply bv_of; omega)
      | (apply bool_of; simp only [bitsOf, pack_cons, pack_nil]; omega)
      | (apply bool_of; omega)
  · simp only [Form.Fits]; omega
theorem Encoding.mxldbt (ls : BitVec 4) (slot : BitVec 5) : Encoding.Statement (.mxldbt ls slot) := by
  have := ls.isLt
  have := slot.isLt
  refine Encoding.of_form (f := .m 3 0 ls.toNat 0 slot.toNat) rfl ?_ ?_
  · show some (Instr.mxldbt _ _) = _
    simp only [Option.some.injEq, Instr.mxldbt.injEq]
    repeat' apply And.intro
    all_goals first
      | exact bv_self _
      | (apply bv_of; simp only [bitsOf, pack_cons, pack_nil]; omega)
      | (apply bv_of; omega)
      | (apply bool_of; simp only [bitsOf, pack_cons, pack_nil]; omega)
      | (apply bool_of; omega)
  · simp only [Form.Fits]; omega
theorem Encoding.mxfeed (acc : BitVec 2) (ls : BitVec 4) (first : Bool) (slot : BitVec 5) :
    Encoding.Statement (.mxfeed acc ls first slot) := by
  have := acc.isLt
  have := ls.isLt
  have := Bool.toNat_le first
  have := slot.isLt
  refine Encoding.of_form (f := .m 4 acc.toNat ls.toNat first.toNat slot.toNat) rfl ?_ ?_
  · show some (Instr.mxfeed _ _ _ _) = _
    simp only [Option.some.injEq, Instr.mxfeed.injEq]
    repeat' apply And.intro
    all_goals first
      | exact bv_self _
      | (apply bv_of; simp only [bitsOf, pack_cons, pack_nil]; omega)
      | (apply bv_of; omega)
      | (apply bool_of; simp only [bitsOf, pack_cons, pack_nil]; omega)
      | (apply bool_of; omega)
  · simp only [Form.Fits]; omega
theorem Encoding.mxbub (acc : BitVec 2) : Encoding.Statement (.mxbub acc) := by
  have := acc.isLt
  refine Encoding.of_form (f := .m 5 acc.toNat 0 0 0) rfl ?_ ?_
  · show some (Instr.mxbub _) = _
    simp only [Option.some.injEq, Instr.mxbub.injEq]
    repeat' apply And.intro
    all_goals first
      | exact bv_self _
      | (apply bv_of; simp only [bitsOf, pack_cons, pack_nil]; omega)
      | (apply bv_of; omega)
      | (apply bool_of; simp only [bitsOf, pack_cons, pack_nil]; omega)
      | (apply bool_of; omega)
  · simp only [Form.Fits]; omega
theorem Encoding.mxclr (acc : BitVec 2) : Encoding.Statement (.mxclr acc) := by
  have := acc.isLt
  refine Encoding.of_form (f := .m 6 acc.toNat 0 0 0) rfl ?_ ?_
  · show some (Instr.mxclr _) = _
    simp only [Option.some.injEq, Instr.mxclr.injEq]
    repeat' apply And.intro
    all_goals first
      | exact bv_self _
      | (apply bv_of; simp only [bitsOf, pack_cons, pack_nil]; omega)
      | (apply bv_of; omega)
      | (apply bool_of; simp only [bitsOf, pack_cons, pack_nil]; omega)
      | (apply bool_of; omega)
  · simp only [Form.Fits]; omega
theorem Encoding.mxdrn (acc : BitVec 2) (lane : BitVec 4) (row : BitVec 5) (part : BitVec 2) :
    Encoding.Statement (.mxdrn acc lane row part) := by
  have := acc.isLt
  have := lane.isLt
  have := row.isLt
  have := part.isLt
  refine Encoding.of_form (f := .m 7 acc.toNat lane.toNat 0 (row.toNat + 32 * part.toNat)) rfl ?_ ?_
  · show some (Instr.mxdrn _ _ _ _) = _
    simp only [Option.some.injEq, Instr.mxdrn.injEq]
    repeat' apply And.intro
    all_goals first
      | exact bv_self _
      | (apply bv_of; simp only [bitsOf, pack_cons, pack_nil]; omega)
      | (apply bv_of; omega)
      | (apply bool_of; simp only [bitsOf, pack_cons, pack_nil]; omega)
      | (apply bool_of; omega)
  · simp only [Form.Fits]; omega
theorem Encoding.mxdrnc (acc : BitVec 2) (lane : BitVec 4) (row : BitVec 5) (part : BitVec 2) :
    Encoding.Statement (.mxdrnc acc lane row part) := by
  have := acc.isLt
  have := lane.isLt
  have := row.isLt
  have := part.isLt
  refine Encoding.of_form (f := .m 8 acc.toNat lane.toNat 0 (row.toNat + 32 * part.toNat)) rfl ?_ ?_
  · show some (Instr.mxdrnc _ _ _ _) = _
    simp only [Option.some.injEq, Instr.mxdrnc.injEq]
    repeat' apply And.intro
    all_goals first
      | exact bv_self _
      | (apply bv_of; simp only [bitsOf, pack_cons, pack_nil]; omega)
      | (apply bv_of; omega)
      | (apply bool_of; simp only [bitsOf, pack_cons, pack_nil]; omega)
      | (apply bool_of; omega)
  · simp only [Form.Fits]; omega
theorem Encoding.mxpair : Encoding.Statement .mxpair :=
  Encoding.of_form (f := .m 9 0 0 0 0) rfl rfl ⟨by decide, by decide, by decide, by decide, by decide, by decide⟩
theorem Encoding.mxsolo : Encoding.Statement .mxsolo :=
  Encoding.of_form (f := .m 10 0 0 0 0) rfl rfl ⟨by decide, by decide, by decide, by decide, by decide, by decide⟩
theorem Encoding.mxaccf (acc : BitVec 2) (rm : BitVec 4) (sat : Bool) (if32 : Bool) (drain : BitVec 4) :
    Encoding.Statement (.mxaccf acc rm sat if32 drain) := by
  have := acc.isLt
  have := rm.isLt
  have := Bool.toNat_le sat
  have := Bool.toNat_le if32
  have := drain.isLt
  refine Encoding.of_form (f := .m 11 acc.toNat rm.toNat (sat.toNat + 2 * if32.toNat) drain.toNat) rfl ?_ ?_
  · show some (Instr.mxaccf _ _ _ _ _) = _
    simp only [Option.some.injEq, Instr.mxaccf.injEq]
    repeat' apply And.intro
    all_goals first
      | exact bv_self _
      | (apply bv_of; simp only [bitsOf, pack_cons, pack_nil]; omega)
      | (apply bv_of; omega)
      | (apply bool_of; simp only [bitsOf, pack_cons, pack_nil]; omega)
      | (apply bool_of; omega)
  · simp only [Form.Fits]; omega
theorem Encoding.mxstat (acc : BitVec 2) (fm : BitVec 2) (dst : BitVec 4) (st : Bool) :
    Encoding.Statement (.mxstat acc fm dst st) := by
  have := acc.isLt
  have := fm.isLt
  have := dst.isLt
  have := Bool.toNat_le st
  refine Encoding.of_form (f := .m 12 acc.toNat dst.toNat (fm.toNat + 8 * st.toNat) 0) rfl ?_ ?_
  · show some (Instr.mxstat _ _ _ _) = _
    simp only [Option.some.injEq, Instr.mxstat.injEq]
    repeat' apply And.intro
    all_goals first
      | exact bv_self _
      | (apply bv_of; simp only [bitsOf, pack_cons, pack_nil]; omega)
      | (apply bv_of; omega)
      | (apply bool_of; simp only [bitsOf, pack_cons, pack_nil]; omega)
      | (apply bool_of; omega)
  · simp only [Form.Fits]; omega
theorem Encoding.mxswapb : Encoding.Statement .mxswapb :=
  Encoding.of_form (f := .m 13 0 0 0 0) rfl rfl ⟨by decide, by decide, by decide, by decide, by decide, by decide⟩
theorem Encoding.vadd (o : VArgs) : Encoding.Statement (.vadd o) :=
  Encoding.of_form (f := .v 1 o) rfl rfl (fits_v (by decide) o)
theorem Encoding.vsub (o : VArgs) : Encoding.Statement (.vsub o) :=
  Encoding.of_form (f := .v 2 o) rfl rfl (fits_v (by decide) o)
theorem Encoding.vmul (o : VArgs) : Encoding.Statement (.vmul o) :=
  Encoding.of_form (f := .v 3 o) rfl rfl (fits_v (by decide) o)
theorem Encoding.vfma (o : VArgs) : Encoding.Statement (.vfma o) :=
  Encoding.of_form (f := .v 4 o) rfl rfl (fits_v (by decide) o)
theorem Encoding.vfms (o : VArgs) : Encoding.Statement (.vfms o) :=
  Encoding.of_form (f := .v 5 o) rfl rfl (fits_v (by decide) o)
theorem Encoding.vfnma (o : VArgs) : Encoding.Statement (.vfnma o) :=
  Encoding.of_form (f := .v 6 o) rfl rfl (fits_v (by decide) o)
theorem Encoding.vmin (o : VArgs) : Encoding.Statement (.vmin o) :=
  Encoding.of_form (f := .v 7 o) rfl rfl (fits_v (by decide) o)
theorem Encoding.vmax (o : VArgs) : Encoding.Statement (.vmax o) :=
  Encoding.of_form (f := .v 8 o) rfl rfl (fits_v (by decide) o)
theorem Encoding.vabs (o : VArgs) : Encoding.Statement (.vabs o) :=
  Encoding.of_form (f := .v 9 o) rfl rfl (fits_v (by decide) o)
theorem Encoding.vneg (o : VArgs) : Encoding.Statement (.vneg o) :=
  Encoding.of_form (f := .v 10 o) rfl rfl (fits_v (by decide) o)
theorem Encoding.vrcp (o : VArgs) : Encoding.Statement (.vrcp o) :=
  Encoding.of_form (f := .v 11 o) rfl rfl (fits_v (by decide) o)
theorem Encoding.vrsq (o : VArgs) : Encoding.Statement (.vrsq o) :=
  Encoding.of_form (f := .v 12 o) rfl rfl (fits_v (by decide) o)
theorem Encoding.vsqrt (o : VArgs) : Encoding.Statement (.vsqrt o) :=
  Encoding.of_form (f := .v 13 o) rfl rfl (fits_v (by decide) o)
theorem Encoding.vexp2 (o : VArgs) : Encoding.Statement (.vexp2 o) :=
  Encoding.of_form (f := .v 14 o) rfl rfl (fits_v (by decide) o)
theorem Encoding.vlog2 (o : VArgs) : Encoding.Statement (.vlog2 o) :=
  Encoding.of_form (f := .v 15 o) rfl rfl (fits_v (by decide) o)
theorem Encoding.vdiv (o : VArgs) : Encoding.Statement (.vdiv o) :=
  Encoding.of_form (f := .v 16 o) rfl rfl (fits_v (by decide) o)
theorem Encoding.viadd (o : VArgs) : Encoding.Statement (.viadd o) :=
  Encoding.of_form (f := .v 17 o) rfl rfl (fits_v (by decide) o)
theorem Encoding.visub (o : VArgs) : Encoding.Statement (.visub o) :=
  Encoding.of_form (f := .v 18 o) rfl rfl (fits_v (by decide) o)
theorem Encoding.vimul (o : VArgs) : Encoding.Statement (.vimul o) :=
  Encoding.of_form (f := .v 19 o) rfl rfl (fits_v (by decide) o)
theorem Encoding.vimad (o : VArgs) : Encoding.Statement (.vimad o) :=
  Encoding.of_form (f := .v 20 o) rfl rfl (fits_v (by decide) o)
theorem Encoding.vimin (o : VArgs) : Encoding.Statement (.vimin o) :=
  Encoding.of_form (f := .v 21 o) rfl rfl (fits_v (by decide) o)
theorem Encoding.vimax (o : VArgs) : Encoding.Statement (.vimax o) :=
  Encoding.of_form (f := .v 22 o) rfl rfl (fits_v (by decide) o)
theorem Encoding.vand (o : VArgs) : Encoding.Statement (.vand o) :=
  Encoding.of_form (f := .v 23 o) rfl rfl (fits_v (by decide) o)
theorem Encoding.vor (o : VArgs) : Encoding.Statement (.vor o) :=
  Encoding.of_form (f := .v 24 o) rfl rfl (fits_v (by decide) o)
theorem Encoding.vxor (o : VArgs) : Encoding.Statement (.vxor o) :=
  Encoding.of_form (f := .v 25 o) rfl rfl (fits_v (by decide) o)
theorem Encoding.vnot (o : VArgs) : Encoding.Statement (.vnot o) :=
  Encoding.of_form (f := .v 26 o) rfl rfl (fits_v (by decide) o)
theorem Encoding.vshl (o : VArgs) : Encoding.Statement (.vshl o) :=
  Encoding.of_form (f := .v 27 o) rfl rfl (fits_v (by decide) o)
theorem Encoding.vshr (o : VArgs) : Encoding.Statement (.vshr o) :=
  Encoding.of_form (f := .v 28 o) rfl rfl (fits_v (by decide) o)
theorem Encoding.vsar (o : VArgs) : Encoding.Statement (.vsar o) :=
  Encoding.of_form (f := .v 29 o) rfl rfl (fits_v (by decide) o)
theorem Encoding.vclz (o : VArgs) : Encoding.Statement (.vclz o) :=
  Encoding.of_form (f := .v 30 o) rfl rfl (fits_v (by decide) o)
theorem Encoding.vpopc (o : VArgs) : Encoding.Statement (.vpopc o) :=
  Encoding.of_form (f := .v 31 o) rfl rfl (fits_v (by decide) o)
theorem Encoding.vcmpeq (o : VArgs) : Encoding.Statement (.vcmpeq o) :=
  Encoding.of_form (f := .v 32 o) rfl rfl (fits_v (by decide) o)
theorem Encoding.vcmpne (o : VArgs) : Encoding.Statement (.vcmpne o) :=
  Encoding.of_form (f := .v 33 o) rfl rfl (fits_v (by decide) o)
theorem Encoding.vcmplt (o : VArgs) : Encoding.Statement (.vcmplt o) :=
  Encoding.of_form (f := .v 34 o) rfl rfl (fits_v (by decide) o)
theorem Encoding.vcmple (o : VArgs) : Encoding.Statement (.vcmple o) :=
  Encoding.of_form (f := .v 35 o) rfl rfl (fits_v (by decide) o)
theorem Encoding.vsel (o : VArgs) : Encoding.Statement (.vsel o) :=
  Encoding.of_form (f := .v 36 o) rfl rfl (fits_v (by decide) o)
theorem Encoding.vkand (o : VArgs) : Encoding.Statement (.vkand o) :=
  Encoding.of_form (f := .v 37 o) rfl rfl (fits_v (by decide) o)
theorem Encoding.vkor (o : VArgs) : Encoding.Statement (.vkor o) :=
  Encoding.of_form (f := .v 38 o) rfl rfl (fits_v (by decide) o)
theorem Encoding.vknot (o : VArgs) : Encoding.Statement (.vknot o) :=
  Encoding.of_form (f := .v 39 o) rfl rfl (fits_v (by decide) o)
theorem Encoding.vkmov (o : VArgs) : Encoding.Statement (.vkmov o) :=
  Encoding.of_form (f := .v 40 o) rfl rfl (fits_v (by decide) o)
theorem Encoding.vcvt (o : VArgs) : Encoding.Statement (.vcvt o) :=
  Encoding.of_form (f := .v 41 o) rfl rfl (fits_v (by decide) o)
theorem Encoding.vcvtc (o : VArgs) : Encoding.Statement (.vcvtc o) :=
  Encoding.of_form (f := .v 42 o) rfl rfl (fits_v (by decide) o)
theorem Encoding.vqnt (o : VArgs) : Encoding.Statement (.vqnt o) :=
  Encoding.of_form (f := .v 43 o) rfl rfl (fits_v (by decide) o)
theorem Encoding.vdqnt (o : VArgs) : Encoding.Statement (.vdqnt o) :=
  Encoding.of_form (f := .v 44 o) rfl rfl (fits_v (by decide) o)
theorem Encoding.vpack (o : VArgs) : Encoding.Statement (.vpack o) :=
  Encoding.of_form (f := .v 45 o) rfl rfl (fits_v (by decide) o)
theorem Encoding.vunpk (o : VArgs) : Encoding.Statement (.vunpk o) :=
  Encoding.of_form (f := .v 46 o) rfl rfl (fits_v (by decide) o)
theorem Encoding.vrsum (o : VArgs) : Encoding.Statement (.vrsum o) :=
  Encoding.of_form (f := .v 47 o) rfl rfl (fits_v (by decide) o)
theorem Encoding.vrmax (o : VArgs) : Encoding.Statement (.vrmax o) :=
  Encoding.of_form (f := .v 48 o) rfl rfl (fits_v (by decide) o)
theorem Encoding.vrmin (o : VArgs) : Encoding.Statement (.vrmin o) :=
  Encoding.of_form (f := .v 49 o) rfl rfl (fits_v (by decide) o)
theorem Encoding.vrsumm (o : VArgs) : Encoding.Statement (.vrsumm o) :=
  Encoding.of_form (f := .v 50 o) rfl rfl (fits_v (by decide) o)
theorem Encoding.vrscl (o : VArgs) : Encoding.Statement (.vrscl o) :=
  Encoding.of_form (f := .v 51 o) rfl rfl (fits_v (by decide) o)
theorem Encoding.vperm (o : VArgs) : Encoding.Statement (.vperm o) :=
  Encoding.of_form (f := .v 52 o) rfl rfl (fits_v (by decide) o)
theorem Encoding.vbcst (o : VArgs) : Encoding.Statement (.vbcst o) :=
  Encoding.of_form (f := .v 53 o) rfl rfl (fits_v (by decide) o)
theorem Encoding.vrot (o : VArgs) : Encoding.Statement (.vrot o) :=
  Encoding.of_form (f := .v 54 o) rfl rfl (fits_v (by decide) o)
theorem Encoding.vmov (o : VArgs) : Encoding.Statement (.vmov o) :=
  Encoding.of_form (f := .v 55 o) rfl rfl (fits_v (by decide) o)
theorem Encoding.viota (o : VArgs) : Encoding.Statement (.viota o) :=
  Encoding.of_form (f := .v 56 o) rfl rfl (fits_v (by decide) o)
theorem Encoding.vrng (o : VArgs) : Encoding.Statement (.vrng o) :=
  Encoding.of_form (f := .v 57 o) rfl rfl (fits_v (by decide) o)
theorem Encoding.vdrop (o : VArgs) : Encoding.Statement (.vdrop o) :=
  Encoding.of_form (f := .v 58 o) rfl rfl (fits_v (by decide) o)
theorem Encoding.prd (p : BitVec 5) (line : BitVec 10) : Encoding.Statement (.prd p line) := by
  have := p.isLt
  have := line.isLt
  refine Encoding.of_form (f := .s 1 p.toNat (line.toNat / 256) (line.toNat % 256)) rfl ?_ ?_
  · show some (Instr.prd _ _) = _
    simp only [Option.some.injEq, Instr.prd.injEq]
    repeat' apply And.intro
    all_goals first
      | exact bv_self _
      | (apply bv_of; simp only [bitsOf, pack_cons, pack_nil]; omega)
      | (apply bv_of; omega)
      | (apply bool_of; simp only [bitsOf, pack_cons, pack_nil]; omega)
      | (apply bool_of; omega)
  · simp only [Form.Fits, genPd]; omega
theorem Encoding.pwr (p : BitVec 5) (line : BitVec 10) : Encoding.Statement (.pwr p line) := by
  have := p.isLt
  have := line.isLt
  refine Encoding.of_form (f := .s 2 p.toNat (line.toNat / 256) (line.toNat % 256)) rfl ?_ ?_
  · show some (Instr.pwr _ _) = _
    simp only [Option.some.injEq, Instr.pwr.injEq]
    repeat' apply And.intro
    all_goals first
      | exact bv_self _
      | (apply bv_of; simp only [bitsOf, pack_cons, pack_nil]; omega)
      | (apply bv_of; omega)
      | (apply bool_of; simp only [bitsOf, pack_cons, pack_nil]; omega)
      | (apply bool_of; omega)
  · simp only [Form.Fits, genPd]; omega
theorem Encoding.prw (p : BitVec 5) (port : BitVec 2) (line : BitVec 8) :
    Encoding.Statement (.prw p port line) := by
  have := p.isLt
  have := port.isLt
  have := line.isLt
  refine Encoding.of_form (f := .s 3 p.toNat port.toNat line.toNat) rfl ?_ ?_
  · show some (Instr.prw _ _ _) = _
    simp only [Option.some.injEq, Instr.prw.injEq]
    repeat' apply And.intro
    all_goals first
      | exact bv_self _
      | (apply bv_of; simp only [bitsOf, pack_cons, pack_nil]; omega)
      | (apply bv_of; omega)
      | (apply bool_of; simp only [bitsOf, pack_cons, pack_nil]; omega)
      | (apply bool_of; omega)
  · simp only [Form.Fits, genPd]; omega
theorem Encoding.padv (p : BitVec 5) (n : BitVec 8) : Encoding.Statement (.padv p n) := by
  have := p.isLt
  have := n.isLt
  refine Encoding.of_form (f := .s 4 p.toNat 0 n.toNat) rfl ?_ ?_
  · show some (Instr.padv _ _) = _
    simp only [Option.some.injEq, Instr.padv.injEq]
    repeat' apply And.intro
    all_goals first
      | exact bv_self _
      | (apply bv_of; simp only [bitsOf, pack_cons, pack_nil]; omega)
      | (apply bv_of; omega)
      | (apply bool_of; simp only [bitsOf, pack_cons, pack_nil]; omega)
      | (apply bool_of; omega)
  · simp only [Form.Fits, genPd]; omega
theorem Encoding.ptagc (p : BitVec 5) (j : BitVec 8) : Encoding.Statement (.ptagc p j) := by
  have := p.isLt
  have := j.isLt
  refine Encoding.of_form (f := .s 5 p.toNat 0 j.toNat) rfl ?_ ?_
  · show some (Instr.ptagc _ _) = _
    simp only [Option.some.injEq, Instr.ptagc.injEq]
    repeat' apply And.intro
    all_goals first
      | exact bv_self _
      | (apply bv_of; simp only [bitsOf, pack_cons, pack_nil]; omega)
      | (apply bv_of; omega)
      | (apply bool_of; simp only [bitsOf, pack_cons, pack_nil]; omega)
      | (apply bool_of; omega)
  · simp only [Form.Fits, genPd]; omega
theorem Encoding.ldt (g : BitVec 3) (adv : Bool) (off : BitVec 8) : Encoding.Statement (.ldt g adv off) := by
  have := g.isLt
  have := Bool.toNat_le adv
  have := off.isLt
  refine Encoding.of_form (f := .s 6 (genPd g) adv.toNat off.toNat) rfl ?_ ?_
  · show some (Instr.ldt _ _ _) = _
    simp only [Option.some.injEq, Instr.ldt.injEq]
    repeat' apply And.intro
    all_goals first
      | exact bv_self _
      | (apply bv_of; simp only [bitsOf, pack_cons, pack_nil]; omega)
      | (apply bv_of; omega)
      | (apply bool_of; simp only [bitsOf, pack_cons, pack_nil]; omega)
      | (apply bool_of; omega)
  · simp only [Form.Fits, genPd]; omega
theorem Encoding.stt (g : BitVec 3) (adv : Bool) (off : BitVec 8) : Encoding.Statement (.stt g adv off) := by
  have := g.isLt
  have := Bool.toNat_le adv
  have := off.isLt
  refine Encoding.of_form (f := .s 7 (genPd g) adv.toNat off.toNat) rfl ?_ ?_
  · show some (Instr.stt _ _ _) = _
    simp only [Option.some.injEq, Instr.stt.injEq]
    repeat' apply And.intro
    all_goals first
      | exact bv_self _
      | (apply bv_of; simp only [bitsOf, pack_cons, pack_nil]; omega)
      | (apply bv_of; omega)
      | (apply bool_of; simp only [bitsOf, pack_cons, pack_nil]; omega)
      | (apply bool_of; omega)
  · simp only [Form.Fits, genPd]; omega
theorem Encoding.sin (port : BitVec 2) (lane : BitVec 4) : Encoding.Statement (.sin port lane) := by
  have := port.isLt
  have := lane.isLt
  refine Encoding.of_form (f := .s 8 0 port.toNat lane.toNat) rfl ?_ ?_
  · show some (Instr.sin _ _) = _
    simp only [Option.some.injEq, Instr.sin.injEq]
    repeat' apply And.intro
    all_goals first
      | exact bv_self _
      | (apply bv_of; simp only [bitsOf, pack_cons, pack_nil]; omega)
      | (apply bv_of; omega)
      | (apply bool_of; simp only [bitsOf, pack_cons, pack_nil]; omega)
      | (apply bool_of; omega)
  · simp only [Form.Fits, genPd]; omega
theorem Encoding.sout (port : BitVec 2) (lane : BitVec 4) : Encoding.Statement (.sout port lane) := by
  have := port.isLt
  have := lane.isLt
  refine Encoding.of_form (f := .s 9 0 port.toNat lane.toNat) rfl ?_ ?_
  · show some (Instr.sout _ _) = _
    simp only [Option.some.injEq, Instr.sout.injEq]
    repeat' apply And.intro
    all_goals first
      | exact bv_self _
      | (apply bv_of; simp only [bitsOf, pack_cons, pack_nil]; omega)
      | (apply bv_of; omega)
      | (apply bool_of; simp only [bitsOf, pack_cons, pack_nil]; omega)
      | (apply bool_of; omega)
  · simp only [Form.Fits, genPd]; omega
theorem Encoding.tap (st : Bool) (inl : BitVec 4) (outl : BitVec 4) : Encoding.Statement (.tap st inl outl) := by
  have := Bool.toNat_le st
  have := inl.isLt
  have := outl.isLt
  refine Encoding.of_form (f := .s 10 0 st.toNat (inl.toNat + 16 * outl.toNat)) rfl ?_ ?_
  · show some (Instr.tap _ _ _) = _
    simp only [Option.some.injEq, Instr.tap.injEq]
    repeat' apply And.intro
    all_goals first
      | exact bv_self _
      | (apply bv_of; simp only [bitsOf, pack_cons, pack_nil]; omega)
      | (apply bv_of; omega)
      | (apply bool_of; simp only [bitsOf, pack_cons, pack_nil]; omega)
      | (apply bool_of; omega)
  · simp only [Form.Fits, genPd]; omega
theorem Encoding.aggo (g : BitVec 3) (res : Bool) : Encoding.Statement (.aggo g res) := by
  have := g.isLt
  have := Bool.toNat_le res
  refine Encoding.of_form (f := .s 11 (genPd g) 0 res.toNat) rfl ?_ ?_
  · show some (Instr.aggo _ _) = _
    simp only [Option.some.injEq, Instr.aggo.injEq]
    repeat' apply And.intro
    all_goals first
      | exact bv_self _
      | (apply bv_of; simp only [bitsOf, pack_cons, pack_nil]; omega)
      | (apply bv_of; omega)
      | (apply bool_of; simp only [bitsOf, pack_cons, pack_nil]; omega)
      | (apply bool_of; omega)
  · simp only [Form.Fits, genPd]; omega
theorem Encoding.agstop (g : BitVec 3) : Encoding.Statement (.agstop g) := by
  have := g.isLt
  refine Encoding.of_form (f := .s 12 (genPd g) 0 0) rfl ?_ ?_
  · show some (Instr.agstop _) = _
    simp only [Option.some.injEq, Instr.agstop.injEq]
    repeat' apply And.intro
    all_goals first
      | exact bv_self _
      | (apply bv_of; simp only [bitsOf, pack_cons, pack_nil]; omega)
      | (apply bv_of; omega)
      | (apply bool_of; simp only [bitsOf, pack_cons, pack_nil]; omega)
      | (apply bool_of; omega)
  · simp only [Form.Fits, genPd]; omega
theorem Encoding.agld (g : BitVec 3) (lane : BitVec 4) : Encoding.Statement (.agld g lane) := by
  have := g.isLt
  have := lane.isLt
  refine Encoding.of_form (f := .s 13 (genPd g) lane.toNat 0) rfl ?_ ?_
  · show some (Instr.agld _ _) = _
    simp only [Option.some.injEq, Instr.agld.injEq]
    repeat' apply And.intro
    all_goals first
      | exact bv_self _
      | (apply bv_of; simp only [bitsOf, pack_cons, pack_nil]; omega)
      | (apply bv_of; omega)
      | (apply bool_of; simp only [bitsOf, pack_cons, pack_nil]; omega)
      | (apply bool_of; omega)
  · simp only [Form.Fits, genPd]; omega
theorem Encoding.kedge (k : BitVec 3) (col : BitVec 6) : Encoding.Statement (.kedge k col) := by
  have := k.isLt
  have := col.isLt
  refine Encoding.of_form (f := .s 14 0 k.toNat col.toNat) rfl ?_ ?_
  · show some (Instr.kedge _ _) = _
    simp only [Option.some.injEq, Instr.kedge.injEq]
    repeat' apply And.intro
    all_goals first
      | exact bv_self _
      | (apply bv_of; simp only [bitsOf, pack_cons, pack_nil]; omega)
      | (apply bv_of; omega)
      | (apply bool_of; simp only [bitsOf, pack_cons, pack_nil]; omega)
      | (apply bool_of; omega)
  · simp only [Form.Fits, genPd]; omega
theorem Encoding.slck (p : BitVec 5) (k : BitVec 3) : Encoding.Statement (.slck p k) := by
  have := p.isLt
  have := k.isLt
  refine Encoding.of_form (f := .s 15 p.toNat k.toNat 0) rfl ?_ ?_
  · show some (Instr.slck _ _) = _
    simp only [Option.some.injEq, Instr.slck.injEq]
    repeat' apply And.intro
    all_goals first
      | exact bv_self _
      | (apply bv_of; simp only [bitsOf, pack_cons, pack_nil]; omega)
      | (apply bv_of; omega)
      | (apply bool_of; simp only [bitsOf, pack_cons, pack_nil]; omega)
      | (apply bool_of; omega)
  · simp only [Form.Fits, genPd]; omega
theorem Encoding.slfwd (p : BitVec 5) (port : BitVec 2) (remote : Bool) :
    Encoding.Statement (.slfwd p port remote) := by
  have := p.isLt
  have := port.isLt
  have := Bool.toNat_le remote
  refine Encoding.of_form (f := .s 16 p.toNat port.toNat remote.toNat) rfl ?_ ?_
  · show some (Instr.slfwd _ _ _) = _
    simp only [Option.some.injEq, Instr.slfwd.injEq]
    repeat' apply And.intro
    all_goals first
      | exact bv_self _
      | (apply bv_of; simp only [bitsOf, pack_cons, pack_nil]; omega)
      | (apply bv_of; omega)
      | (apply bool_of; simp only [bitsOf, pack_cons, pack_nil]; omega)
      | (apply bool_of; omega)
  · simp only [Form.Fits, genPd]; omega
theorem Encoding.twprm (p : BitVec 5) (twe : BitVec 2) (drain : Bool) (n : BitVec 8) :
    Encoding.Statement (.twprm p twe drain n) := by
  have := p.isLt
  have := twe.isLt
  have := Bool.toNat_le drain
  have := n.isLt
  refine Encoding.of_form (f := .s 17 p.toNat (twe.toNat + 4 * drain.toNat) n.toNat) rfl ?_ ?_
  · show some (Instr.twprm _ _ _ _) = _
    simp only [Option.some.injEq, Instr.twprm.injEq]
    repeat' apply And.intro
    all_goals first
      | exact bv_self _
      | (apply bv_of; simp only [bitsOf, pack_cons, pack_nil]; omega)
      | (apply bv_of; omega)
      | (apply bool_of; simp only [bitsOf, pack_cons, pack_nil]; omega)
      | (apply bool_of; omega)
  · simp only [Form.Fits, genPd]; omega
theorem Encoding.poisk (k : BitVec 3) : Encoding.Statement (.poisk k) := by
  have := k.isLt
  refine Encoding.of_form (f := .s 18 0 k.toNat 0) rfl ?_ ?_
  · show some (Instr.poisk _) = _
    simp only [Option.some.injEq, Instr.poisk.injEq]
    repeat' apply And.intro
    all_goals first
      | exact bv_self _
      | (apply bv_of; simp only [bitsOf, pack_cons, pack_nil]; omega)
      | (apply bv_of; omega)
      | (apply bool_of; simp only [bitsOf, pack_cons, pack_nil]; omega)
      | (apply bool_of; omega)
  · simp only [Form.Fits, genPd]; omega
theorem Encoding.vimm (st : Bool) (vd : BitVec 4) (value : BitVec 32) : Encoding.Statement (.vimm st vd value) := by
  have := Bool.toNat_le st
  have := vd.isLt
  have := value.isLt
  refine Encoding.of_form (f := .long 1 (pack [(32, value.toNat), (4, vd.toNat), (1, st.toNat)])) rfl ?_ ?_
  · show some (Instr.vimm _ _ _) = _
    simp only [Option.some.injEq, Instr.vimm.injEq]
    repeat' apply And.intro
    all_goals first
      | exact bv_self _
      | (apply bv_of; simp only [bitsOf, pack_cons, pack_nil]; omega)
      | (apply bv_of; omega)
      | (apply bool_of; simp only [bitsOf, pack_cons, pack_nil]; omega)
      | (apply bool_of; omega)
  · simp only [Form.Fits, pack_cons, pack_nil]; omega
theorem Encoding.vimm64 (value : BitVec 64) : Encoding.Statement (.vimm64 value) := by
  have := value.isLt
  refine Encoding.of_form (f := .long 2 value.toNat) rfl ?_ ?_
  · show some (Instr.vimm64 _) = _
    simp only [Option.some.injEq, Instr.vimm64.injEq]
    repeat' apply And.intro
    all_goals first
      | exact bv_self _
      | (apply bv_of; simp only [bitsOf, pack_cons, pack_nil]; omega)
      | (apply bv_of; omega)
      | (apply bool_of; simp only [bitsOf, pack_cons, pack_nil]; omega)
      | (apply bool_of; omega)
  · simp only [Form.Fits, pack_cons, pack_nil]; omega
theorem Encoding.vsetm (etype : BitVec 4) (rm : BitVec 3) (sat : Bool) (w0 : Bool) (w1 : Bool) :
    Encoding.Statement (.vsetm etype rm sat w0 w1) := by
  have := etype.isLt
  have := rm.isLt
  have := Bool.toNat_le sat
  have := Bool.toNat_le w0
  have := Bool.toNat_le w1
  refine Encoding.of_form (f := .long 3 (pack [(4, etype.toNat), (3, rm.toNat), (1, sat.toNat), (1, w0.toNat), (1, w1.toNat)])) rfl ?_ ?_
  · show some (Instr.vsetm _ _ _ _ _) = _
    simp only [Option.some.injEq, Instr.vsetm.injEq]
    repeat' apply And.intro
    all_goals first
      | exact bv_self _
      | (apply bv_of; simp only [bitsOf, pack_cons, pack_nil]; omega)
      | (apply bv_of; omega)
      | (apply bool_of; simp only [bitsOf, pack_cons, pack_nil]; omega)
      | (apply bool_of; omega)
  · simp only [Form.Fits, pack_cons, pack_nil]; omega
theorem Encoding.kset (k : BitVec 3) (mode : BitVec 2) (value : BitVec 32) :
    Encoding.Statement (.kset k mode value) := by
  have := k.isLt
  have := mode.isLt
  have := value.isLt
  refine Encoding.of_form (f := .long 4 (pack [(32, value.toNat), (3, k.toNat), (2, mode.toNat)])) rfl ?_ ?_
  · show some (Instr.kset _ _ _) = _
    simp only [Option.some.injEq, Instr.kset.injEq]
    repeat' apply And.intro
    all_goals first
      | exact bv_self _
      | (apply bv_of; simp only [bitsOf, pack_cons, pack_nil]; omega)
      | (apply bv_of; omega)
      | (apply bool_of; simp only [bitsOf, pack_cons, pack_nil]; omega)
      | (apply bool_of; omega)
  · simp only [Form.Fits, pack_cons, pack_nil]; omega
theorem Encoding.rngkey (part : BitVec 2) (value : BitVec 48) : Encoding.Statement (.rngkey part value) := by
  have := part.isLt
  have := value.isLt
  refine Encoding.of_form (f := .long 8 (pack [(48, value.toNat), (14, 0), (2, part.toNat)])) rfl ?_ ?_
  · show some (Instr.rngkey _ _) = _
    simp only [Option.some.injEq, Instr.rngkey.injEq]
    repeat' apply And.intro
    all_goals first
      | exact bv_self _
      | (apply bv_of; simp only [bitsOf, pack_cons, pack_nil]; omega)
      | (apply bv_of; omega)
      | (apply bool_of; simp only [bitsOf, pack_cons, pack_nil]; omega)
      | (apply bool_of; omega)
  · simp only [Form.Fits, pack_cons, pack_nil]; omega
theorem Encoding.sclset (value : BitVec 32) : Encoding.Statement (.sclset value) := by
  have := value.isLt
  refine Encoding.of_form (f := .long 9 value.toNat) rfl ?_ ?_
  · show some (Instr.sclset _) = _
    simp only [Option.some.injEq, Instr.sclset.injEq]
    repeat' apply And.intro
    all_goals first
      | exact bv_self _
      | (apply bv_of; simp only [bitsOf, pack_cons, pack_nil]; omega)
      | (apply bv_of; omega)
      | (apply bool_of; simp only [bitsOf, pack_cons, pack_nil]; omega)
      | (apply bool_of; omega)
  · simp only [Form.Fits, pack_cons, pack_nil]; omega
theorem Encoding.agcfg (g : BitVec 3) (base : BitVec 11) (str : BitVec 12) (cnt : BitVec 12) :
    Encoding.Statement (.agcfg g base str cnt) := by
  have := g.isLt
  have := base.isLt
  have := str.isLt
  have := cnt.isLt
  refine Encoding.of_form (f := .long 5 (pack [(3, g.toNat), (11, base.toNat), (12, str.toNat), (12, cnt.toNat)])) rfl ?_ ?_
  · show some (Instr.agcfg _ _ _ _) = _
    simp only [Option.some.injEq, Instr.agcfg.injEq]
    repeat' apply And.intro
    all_goals first
      | exact bv_self _
      | (apply bv_of; simp only [bitsOf, pack_cons, pack_nil]; omega)
      | (apply bv_of; omega)
      | (apply bool_of; simp only [bitsOf, pack_cons, pack_nil]; omega)
      | (apply bool_of; omega)
  · simp only [Form.Fits, pack_cons, pack_nil]; omega
theorem Encoding.agcfg2 (g : BitVec 3) (str : BitVec 12) (cnt : BitVec 12) (bank : BitVec 3) (lane : BitVec 4) (mode : BitVec 3) (pond : BitVec 5) :
    Encoding.Statement (.agcfg2 g str cnt bank lane mode pond) := by
  have := g.isLt
  have := str.isLt
  have := cnt.isLt
  have := bank.isLt
  have := lane.isLt
  have := mode.isLt
  have := pond.isLt
  refine Encoding.of_form (f := .long 6 (pack [(3, g.toNat), (12, str.toNat), (12, cnt.toNat), (3, bank.toNat), (4, lane.toNat), (3, mode.toNat), (5, pond.toNat)])) rfl ?_ ?_
  · show some (Instr.agcfg2 _ _ _ _ _ _ _) = _
    simp only [Option.some.injEq, Instr.agcfg2.injEq]
    repeat' apply And.intro
    all_goals first
      | exact bv_self _
      | (apply bv_of; simp only [bitsOf, pack_cons, pack_nil]; omega)
      | (apply bv_of; omega)
      | (apply bool_of; simp only [bitsOf, pack_cons, pack_nil]; omega)
      | (apply bool_of; omega)
  · simp only [Form.Fits, pack_cons, pack_nil]; omega
theorem Encoding.hdrset (hd : BitVec 2) (fmt : BitVec 5) (swz : BitVec 4) (vlim : BitVec 5) (sbase : BitVec 9) :
    Encoding.Statement (.hdrset hd fmt swz vlim sbase) := by
  have := hd.isLt
  have := fmt.isLt
  have := swz.isLt
  have := vlim.isLt
  have := sbase.isLt
  refine Encoding.of_form (f := .long 7 (pack [(5, fmt.toNat), (4, swz.toNat), (5, vlim.toNat), (9, sbase.toNat), (39, 0), (2, hd.toNat)])) rfl ?_ ?_
  · show some (Instr.hdrset _ _ _ _ _) = _
    simp only [Option.some.injEq, Instr.hdrset.injEq]
    repeat' apply And.intro
    all_goals first
      | exact bv_self _
      | (apply bv_of; simp only [bitsOf, pack_cons, pack_nil]; omega)
      | (apply bv_of; omega)
      | (apply bool_of; simp only [bitsOf, pack_cons, pack_nil]; omega)
      | (apply bool_of; omega)
  · simp only [Form.Fits, pack_cons, pack_nil]; omega
theorem Encoding.dropcfg (thr : BitVec 32) (scale : BitVec 32) : Encoding.Statement (.dropcfg thr scale) := by
  have := thr.isLt
  have := scale.isLt
  refine Encoding.of_form (f := .long 10 (pack [(32, thr.toNat), (32, scale.toNat)])) rfl ?_ ?_
  · show some (Instr.dropcfg _ _) = _
    simp only [Option.some.injEq, Instr.dropcfg.injEq]
    repeat' apply And.intro
    all_goals first
      | exact bv_self _
      | (apply bv_of; simp only [bitsOf, pack_cons, pack_nil]; omega)
      | (apply bv_of; omega)
      | (apply bool_of; simp only [bitsOf, pack_cons, pack_nil]; omega)
      | (apply bool_of; omega)
  · simp only [Form.Fits, pack_cons, pack_nil]; omega
theorem Encoding.mxcfg (efmt : BitVec 5) (eswz : BitVec 4) (een : Bool) (plink : Bool) :
    Encoding.Statement (.mxcfg efmt eswz een plink) := by
  have := efmt.isLt
  have := eswz.isLt
  have := Bool.toNat_le een
  have := Bool.toNat_le plink
  refine Encoding.of_form (f := .long 11 (pack [(5, efmt.toNat), (4, eswz.toNat), (1, een.toNat), (1, plink.toNat)])) rfl ?_ ?_
  · show some (Instr.mxcfg _ _ _ _) = _
    simp only [Option.some.injEq, Instr.mxcfg.injEq]
    repeat' apply And.intro
    all_goals first
      | exact bv_self _
      | (apply bv_of; simp only [bitsOf, pack_cons, pack_nil]; omega)
      | (apply bv_of; omega)
      | (apply bool_of; simp only [bitsOf, pack_cons, pack_nil]; omega)
      | (apply bool_of; omega)
  · simp only [Form.Fits, pack_cons, pack_nil]; omega
theorem Encoding.add (d : BitVec 6) (a : BitVec 6) (b : BitVec 6) : Encoding.Statement (.add d a b) :=
  Encoding.of_form (f := .ctl 8 1 d.toNat (restAlu a b)) rfl (read_alu 1 d a b)
    (fits_alu (by decide) _ _ _)
theorem Encoding.sub (d : BitVec 6) (a : BitVec 6) (b : BitVec 6) : Encoding.Statement (.sub d a b) :=
  Encoding.of_form (f := .ctl 8 2 d.toNat (restAlu a b)) rfl (read_alu 2 d a b)
    (fits_alu (by decide) _ _ _)
theorem Encoding.mul (d : BitVec 6) (a : BitVec 6) (b : BitVec 6) : Encoding.Statement (.mul d a b) :=
  Encoding.of_form (f := .ctl 8 3 d.toNat (restAlu a b)) rfl (read_alu 3 d a b)
    (fits_alu (by decide) _ _ _)
theorem Encoding.mulh (d : BitVec 6) (a : BitVec 6) (b : BitVec 6) : Encoding.Statement (.mulh d a b) :=
  Encoding.of_form (f := .ctl 8 4 d.toNat (restAlu a b)) rfl (read_alu 4 d a b)
    (fits_alu (by decide) _ _ _)
theorem Encoding.mulhu (d : BitVec 6) (a : BitVec 6) (b : BitVec 6) : Encoding.Statement (.mulhu d a b) :=
  Encoding.of_form (f := .ctl 8 5 d.toNat (restAlu a b)) rfl (read_alu 5 d a b)
    (fits_alu (by decide) _ _ _)
theorem Encoding.div (d : BitVec 6) (a : BitVec 6) (b : BitVec 6) : Encoding.Statement (.div d a b) :=
  Encoding.of_form (f := .ctl 8 6 d.toNat (restAlu a b)) rfl (read_alu 6 d a b)
    (fits_alu (by decide) _ _ _)
theorem Encoding.divu (d : BitVec 6) (a : BitVec 6) (b : BitVec 6) : Encoding.Statement (.divu d a b) :=
  Encoding.of_form (f := .ctl 8 7 d.toNat (restAlu a b)) rfl (read_alu 7 d a b)
    (fits_alu (by decide) _ _ _)
theorem Encoding.rem (d : BitVec 6) (a : BitVec 6) (b : BitVec 6) : Encoding.Statement (.rem d a b) :=
  Encoding.of_form (f := .ctl 8 8 d.toNat (restAlu a b)) rfl (read_alu 8 d a b)
    (fits_alu (by decide) _ _ _)
theorem Encoding.remu (d : BitVec 6) (a : BitVec 6) (b : BitVec 6) : Encoding.Statement (.remu d a b) :=
  Encoding.of_form (f := .ctl 8 9 d.toNat (restAlu a b)) rfl (read_alu 9 d a b)
    (fits_alu (by decide) _ _ _)
theorem Encoding.and (d : BitVec 6) (a : BitVec 6) (b : BitVec 6) : Encoding.Statement (.and d a b) :=
  Encoding.of_form (f := .ctl 8 10 d.toNat (restAlu a b)) rfl (read_alu 10 d a b)
    (fits_alu (by decide) _ _ _)
theorem Encoding.or (d : BitVec 6) (a : BitVec 6) (b : BitVec 6) : Encoding.Statement (.or d a b) :=
  Encoding.of_form (f := .ctl 8 11 d.toNat (restAlu a b)) rfl (read_alu 11 d a b)
    (fits_alu (by decide) _ _ _)
theorem Encoding.xor (d : BitVec 6) (a : BitVec 6) (b : BitVec 6) : Encoding.Statement (.xor d a b) :=
  Encoding.of_form (f := .ctl 8 12 d.toNat (restAlu a b)) rfl (read_alu 12 d a b)
    (fits_alu (by decide) _ _ _)
theorem Encoding.andn (d : BitVec 6) (a : BitVec 6) (b : BitVec 6) : Encoding.Statement (.andn d a b) :=
  Encoding.of_form (f := .ctl 8 13 d.toNat (restAlu a b)) rfl (read_alu 13 d a b)
    (fits_alu (by decide) _ _ _)
theorem Encoding.shl (d : BitVec 6) (a : BitVec 6) (b : BitVec 6) : Encoding.Statement (.shl d a b) :=
  Encoding.of_form (f := .ctl 8 14 d.toNat (restAlu a b)) rfl (read_alu 14 d a b)
    (fits_alu (by decide) _ _ _)
theorem Encoding.shr (d : BitVec 6) (a : BitVec 6) (b : BitVec 6) : Encoding.Statement (.shr d a b) :=
  Encoding.of_form (f := .ctl 8 15 d.toNat (restAlu a b)) rfl (read_alu 15 d a b)
    (fits_alu (by decide) _ _ _)
theorem Encoding.sar (d : BitVec 6) (a : BitVec 6) (b : BitVec 6) : Encoding.Statement (.sar d a b) :=
  Encoding.of_form (f := .ctl 8 16 d.toNat (restAlu a b)) rfl (read_alu 16 d a b)
    (fits_alu (by decide) _ _ _)
theorem Encoding.rotl (d : BitVec 6) (a : BitVec 6) (b : BitVec 6) : Encoding.Statement (.rotl d a b) :=
  Encoding.of_form (f := .ctl 8 17 d.toNat (restAlu a b)) rfl (read_alu 17 d a b)
    (fits_alu (by decide) _ _ _)
theorem Encoding.min (d : BitVec 6) (a : BitVec 6) (b : BitVec 6) : Encoding.Statement (.min d a b) :=
  Encoding.of_form (f := .ctl 8 18 d.toNat (restAlu a b)) rfl (read_alu 18 d a b)
    (fits_alu (by decide) _ _ _)
theorem Encoding.max (d : BitVec 6) (a : BitVec 6) (b : BitVec 6) : Encoding.Statement (.max d a b) :=
  Encoding.of_form (f := .ctl 8 19 d.toNat (restAlu a b)) rfl (read_alu 19 d a b)
    (fits_alu (by decide) _ _ _)
theorem Encoding.minu (d : BitVec 6) (a : BitVec 6) (b : BitVec 6) : Encoding.Statement (.minu d a b) :=
  Encoding.of_form (f := .ctl 8 20 d.toNat (restAlu a b)) rfl (read_alu 20 d a b)
    (fits_alu (by decide) _ _ _)
theorem Encoding.maxu (d : BitVec 6) (a : BitVec 6) (b : BitVec 6) : Encoding.Statement (.maxu d a b) :=
  Encoding.of_form (f := .ctl 8 21 d.toNat (restAlu a b)) rfl (read_alu 21 d a b)
    (fits_alu (by decide) _ _ _)
theorem Encoding.clz (d : BitVec 6) (a : BitVec 6) : Encoding.Statement (.clz d a) :=
  Encoding.of_form (f := .ctl 8 22 d.toNat (restAlu a 0)) rfl (read_alu 22 d a 0)
    (fits_alu (by decide) _ _ _)
theorem Encoding.ctz (d : BitVec 6) (a : BitVec 6) : Encoding.Statement (.ctz d a) :=
  Encoding.of_form (f := .ctl 8 23 d.toNat (restAlu a 0)) rfl (read_alu 23 d a 0)
    (fits_alu (by decide) _ _ _)
theorem Encoding.popc (d : BitVec 6) (a : BitVec 6) : Encoding.Statement (.popc d a) :=
  Encoding.of_form (f := .ctl 8 24 d.toNat (restAlu a 0)) rfl (read_alu 24 d a 0)
    (fits_alu (by decide) _ _ _)
theorem Encoding.bswap (d : BitVec 6) (a : BitVec 6) : Encoding.Statement (.bswap d a) :=
  Encoding.of_form (f := .ctl 8 25 d.toNat (restAlu a 0)) rfl (read_alu 25 d a 0)
    (fits_alu (by decide) _ _ _)
theorem Encoding.sext (d : BitVec 6) (a : BitVec 6) (b : BitVec 6) : Encoding.Statement (.sext d a b) :=
  Encoding.of_form (f := .ctl 8 26 d.toNat (restAlu a b)) rfl (read_alu 26 d a b)
    (fits_alu (by decide) _ _ _)
theorem Encoding.zext (d : BitVec 6) (a : BitVec 6) (b : BitVec 6) : Encoding.Statement (.zext d a b) :=
  Encoding.of_form (f := .ctl 8 27 d.toNat (restAlu a b)) rfl (read_alu 27 d a b)
    (fits_alu (by decide) _ _ _)
theorem Encoding.cmpeq (d : BitVec 6) (a : BitVec 6) (b : BitVec 6) : Encoding.Statement (.cmpeq d a b) :=
  Encoding.of_form (f := .ctl 8 28 d.toNat (restAlu a b)) rfl (read_alu 28 d a b)
    (fits_alu (by decide) _ _ _)
theorem Encoding.cmpne (d : BitVec 6) (a : BitVec 6) (b : BitVec 6) : Encoding.Statement (.cmpne d a b) :=
  Encoding.of_form (f := .ctl 8 29 d.toNat (restAlu a b)) rfl (read_alu 29 d a b)
    (fits_alu (by decide) _ _ _)
theorem Encoding.cmplt (d : BitVec 6) (a : BitVec 6) (b : BitVec 6) : Encoding.Statement (.cmplt d a b) :=
  Encoding.of_form (f := .ctl 8 30 d.toNat (restAlu a b)) rfl (read_alu 30 d a b)
    (fits_alu (by decide) _ _ _)
theorem Encoding.cmpltu (d : BitVec 6) (a : BitVec 6) (b : BitVec 6) : Encoding.Statement (.cmpltu d a b) :=
  Encoding.of_form (f := .ctl 8 31 d.toNat (restAlu a b)) rfl (read_alu 31 d a b)
    (fits_alu (by decide) _ _ _)
theorem Encoding.sel (d : BitVec 6) (a : BitVec 6) (b : BitVec 6) : Encoding.Statement (.sel d a b) :=
  Encoding.of_form (f := .ctl 8 32 d.toNat (restAlu a b)) rfl (read_alu 32 d a b)
    (fits_alu (by decide) _ _ _)
theorem Encoding.mov (d : BitVec 6) (a : BitVec 6) : Encoding.Statement (.mov d a) :=
  Encoding.of_form (f := .ctl 8 33 d.toNat (restAlu a 0)) rfl (read_alu 33 d a 0)
    (fits_alu (by decide) _ _ _)
theorem Encoding.addi (d : BitVec 6) (a : BitVec 6) (i : BitVec 32) : Encoding.Statement (.addi d a i) :=
  Encoding.of_form (f := .ctl 9 1 d.toNat (restImm a 0 i.toNat)) rfl (read_imm 1 d a i)
    (fits_imm (by decide) _ _ _ _)
theorem Encoding.muli (d : BitVec 6) (a : BitVec 6) (i : BitVec 32) : Encoding.Statement (.muli d a i) :=
  Encoding.of_form (f := .ctl 9 2 d.toNat (restImm a 0 i.toNat)) rfl (read_imm 2 d a i)
    (fits_imm (by decide) _ _ _ _)
theorem Encoding.andi (d : BitVec 6) (a : BitVec 6) (i : BitVec 32) : Encoding.Statement (.andi d a i) :=
  Encoding.of_form (f := .ctl 9 3 d.toNat (restImm a 0 i.toNat)) rfl (read_imm 3 d a i)
    (fits_imm (by decide) _ _ _ _)
theorem Encoding.ori (d : BitVec 6) (a : BitVec 6) (i : BitVec 32) : Encoding.Statement (.ori d a i) :=
  Encoding.of_form (f := .ctl 9 4 d.toNat (restImm a 0 i.toNat)) rfl (read_imm 4 d a i)
    (fits_imm (by decide) _ _ _ _)
theorem Encoding.xori (d : BitVec 6) (a : BitVec 6) (i : BitVec 32) : Encoding.Statement (.xori d a i) :=
  Encoding.of_form (f := .ctl 9 5 d.toNat (restImm a 0 i.toNat)) rfl (read_imm 5 d a i)
    (fits_imm (by decide) _ _ _ _)
theorem Encoding.shli (d : BitVec 6) (a : BitVec 6) (i : BitVec 32) : Encoding.Statement (.shli d a i) :=
  Encoding.of_form (f := .ctl 9 6 d.toNat (restImm a 0 i.toNat)) rfl (read_imm 6 d a i)
    (fits_imm (by decide) _ _ _ _)
theorem Encoding.shri (d : BitVec 6) (a : BitVec 6) (i : BitVec 32) : Encoding.Statement (.shri d a i) :=
  Encoding.of_form (f := .ctl 9 7 d.toNat (restImm a 0 i.toNat)) rfl (read_imm 7 d a i)
    (fits_imm (by decide) _ _ _ _)
theorem Encoding.sari (d : BitVec 6) (a : BitVec 6) (i : BitVec 32) : Encoding.Statement (.sari d a i) :=
  Encoding.of_form (f := .ctl 9 8 d.toNat (restImm a 0 i.toNat)) rfl (read_imm 8 d a i)
    (fits_imm (by decide) _ _ _ _)
theorem Encoding.rotli (d : BitVec 6) (a : BitVec 6) (i : BitVec 32) : Encoding.Statement (.rotli d a i) :=
  Encoding.of_form (f := .ctl 9 9 d.toNat (restImm a 0 i.toNat)) rfl (read_imm 9 d a i)
    (fits_imm (by decide) _ _ _ _)
theorem Encoding.cmpeqi (d : BitVec 6) (a : BitVec 6) (i : BitVec 32) : Encoding.Statement (.cmpeqi d a i) :=
  Encoding.of_form (f := .ctl 9 10 d.toNat (restImm a 0 i.toNat)) rfl (read_imm 10 d a i)
    (fits_imm (by decide) _ _ _ _)
theorem Encoding.cmpnei (d : BitVec 6) (a : BitVec 6) (i : BitVec 32) : Encoding.Statement (.cmpnei d a i) :=
  Encoding.of_form (f := .ctl 9 11 d.toNat (restImm a 0 i.toNat)) rfl (read_imm 11 d a i)
    (fits_imm (by decide) _ _ _ _)
theorem Encoding.cmplti (d : BitVec 6) (a : BitVec 6) (i : BitVec 32) : Encoding.Statement (.cmplti d a i) :=
  Encoding.of_form (f := .ctl 9 12 d.toNat (restImm a 0 i.toNat)) rfl (read_imm 12 d a i)
    (fits_imm (by decide) _ _ _ _)
theorem Encoding.cmpltui (d : BitVec 6) (a : BitVec 6) (i : BitVec 32) : Encoding.Statement (.cmpltui d a i) :=
  Encoding.of_form (f := .ctl 9 13 d.toNat (restImm a 0 i.toNat)) rfl (read_imm 13 d a i)
    (fits_imm (by decide) _ _ _ _)
theorem Encoding.mini (d : BitVec 6) (a : BitVec 6) (i : BitVec 32) : Encoding.Statement (.mini d a i) :=
  Encoding.of_form (f := .ctl 9 14 d.toNat (restImm a 0 i.toNat)) rfl (read_imm 14 d a i)
    (fits_imm (by decide) _ _ _ _)
theorem Encoding.maxi (d : BitVec 6) (a : BitVec 6) (i : BitVec 32) : Encoding.Statement (.maxi d a i) :=
  Encoding.of_form (f := .ctl 9 15 d.toNat (restImm a 0 i.toNat)) rfl (read_imm 15 d a i)
    (fits_imm (by decide) _ _ _ _)
theorem Encoding.limm (d : BitVec 6) (i : BitVec 48) : Encoding.Statement (.limm d i) :=
  Encoding.of_form (f := .ctl 13 1 d.toNat (restWide i)) rfl (read_wide d i).1
    (fits_wide (by decide) _ _)
theorem Encoding.limmz (d : BitVec 6) (i : BitVec 48) : Encoding.Statement (.limmz d i) :=
  Encoding.of_form (f := .ctl 13 2 d.toNat (restWide i)) rfl (read_wide d i).2.1
    (fits_wide (by decide) _ _)
theorem Encoding.limmh (d : BitVec 6) (i : BitVec 48) : Encoding.Statement (.limmh d i) :=
  Encoding.of_form (f := .ctl 13 3 d.toNat (restWide i)) rfl (read_wide d i).2.2
    (fits_wide (by decide) _ _)
theorem Encoding.beq (a : BitVec 6) (b : BitVec 6) (off : BitVec 32) : Encoding.Statement (.beq a b off) :=
  Encoding.of_form (f := .ctl 11 1 0 (restImm a b off.toNat)) rfl (read_br 1 0 a b off)
    (fits_imm0 (by decide) _ _ _)
theorem Encoding.bne (a : BitVec 6) (b : BitVec 6) (off : BitVec 32) : Encoding.Statement (.bne a b off) :=
  Encoding.of_form (f := .ctl 11 2 0 (restImm a b off.toNat)) rfl (read_br 2 0 a b off)
    (fits_imm0 (by decide) _ _ _)
theorem Encoding.blt (a : BitVec 6) (b : BitVec 6) (off : BitVec 32) : Encoding.Statement (.blt a b off) :=
  Encoding.of_form (f := .ctl 11 3 0 (restImm a b off.toNat)) rfl (read_br 3 0 a b off)
    (fits_imm0 (by decide) _ _ _)
theorem Encoding.bge (a : BitVec 6) (b : BitVec 6) (off : BitVec 32) : Encoding.Statement (.bge a b off) :=
  Encoding.of_form (f := .ctl 11 4 0 (restImm a b off.toNat)) rfl (read_br 4 0 a b off)
    (fits_imm0 (by decide) _ _ _)
theorem Encoding.bltu (a : BitVec 6) (b : BitVec 6) (off : BitVec 32) : Encoding.Statement (.bltu a b off) :=
  Encoding.of_form (f := .ctl 11 5 0 (restImm a b off.toNat)) rfl (read_br 5 0 a b off)
    (fits_imm0 (by decide) _ _ _)
theorem Encoding.bgeu (a : BitVec 6) (b : BitVec 6) (off : BitVec 32) : Encoding.Statement (.bgeu a b off) :=
  Encoding.of_form (f := .ctl 11 6 0 (restImm a b off.toNat)) rfl (read_br 6 0 a b off)
    (fits_imm0 (by decide) _ _ _)
theorem Encoding.bz (a : BitVec 6) (off : BitVec 32) : Encoding.Statement (.bz a off) :=
  Encoding.of_form (f := .ctl 11 7 0 (restImm a 0 off.toNat)) rfl (read_br 7 0 a 0 off)
    (fits_imm0 (by decide) _ _ _)
theorem Encoding.bnz (a : BitVec 6) (off : BitVec 32) : Encoding.Statement (.bnz a off) :=
  Encoding.of_form (f := .ctl 11 8 0 (restImm a 0 off.toNat)) rfl (read_br 8 0 a 0 off)
    (fits_imm0 (by decide) _ _ _)
theorem Encoding.jmp (off : BitVec 32) : Encoding.Statement (.jmp off) :=
  Encoding.of_form (f := .ctl 11 9 0 (restImm 0 0 off.toNat)) rfl (read_br 9 0 0 0 off)
    (fits_imm0 (by decide) _ _ _)
theorem Encoding.jal (d : BitVec 6) (off : BitVec 32) : Encoding.Statement (.jal d off) :=
  Encoding.of_form (f := .ctl 11 10 d.toNat (restImm 0 0 off.toNat)) rfl (read_br 10 d 0 0 off)
    (fits_imm (by decide) _ _ _ _)
theorem Encoding.jalr (d : BitVec 6) (a : BitVec 6) (off : BitVec 32) : Encoding.Statement (.jalr d a off) :=
  Encoding.of_form (f := .ctl 11 11 d.toNat (restImm a 0 off.toNat)) rfl (read_br 11 d a 0 off)
    (fits_imm (by decide) _ _ _ _)
theorem Encoding.ld (m : MemArgs) : Encoding.Statement (.ld m) :=
  Encoding.of_form (f := .ctl 10 1 m.d.toNat (restMem m)) rfl (read_mem 1 m)
    (fits_mem (by decide) _)
theorem Encoding.lds (m : MemArgs) : Encoding.Statement (.lds m) :=
  Encoding.of_form (f := .ctl 10 2 m.d.toNat (restMem m)) rfl (read_mem 2 m)
    (fits_mem (by decide) _)
theorem Encoding.st (m : MemArgs) : Encoding.Statement (.st m) :=
  Encoding.of_form (f := .ctl 10 3 m.d.toNat (restMem m)) rfl (read_mem 3 m)
    (fits_mem (by decide) _)
theorem Encoding.amo (m : MemArgs) : Encoding.Statement (.amo m) :=
  Encoding.of_form (f := .ctl 10 4 m.d.toNat (restMem m)) rfl (read_mem 4 m)
    (fits_mem (by decide) _)
theorem Encoding.cas (m : MemArgs) : Encoding.Statement (.cas m) :=
  Encoding.of_form (f := .ctl 10 5 m.d.toNat (restMem m)) rfl (read_mem 5 m)
    (fits_mem (by decide) _)
theorem Encoding.fence (m : MemArgs) : Encoding.Statement (.fence m) :=
  Encoding.of_form (f := .ctl 10 6 m.d.toNat (restMem m)) rfl (read_mem 6 m)
    (fits_mem (by decide) _)
theorem Encoding.enq (m : MemArgs) : Encoding.Statement (.enq m) :=
  Encoding.of_form (f := .ctl 10 7 m.d.toNat (restMem m)) rfl (read_mem 7 m)
    (fits_mem (by decide) _)
theorem Encoding.seqw (m : MemArgs) : Encoding.Statement (.seqw m) :=
  Encoding.of_form (f := .ctl 10 8 m.d.toNat (restMem m)) rfl (read_mem 8 m)
    (fits_mem (by decide) _)
theorem Encoding.memoryReply (t : Nat) (n : Nat) (ext : BitVec 128) :
    Encoding.Statement (.memoryReply t n ext) := Encoding.no_word rfl
theorem Encoding.homeWritePerform (id : Nat) : Encoding.Statement (.homeWritePerform id) := Encoding.no_word rfl
theorem Encoding.writeAck (id : Nat) (denied : Bool) (ext : BitVec 128) :
    Encoding.Statement (.writeAck id denied ext) := Encoding.no_word rfl
theorem Encoding.fenceComplete (t : Nat) : Encoding.Statement (.fenceComplete t) := Encoding.no_word rfl
theorem Encoding.seqwRelease (t : Nat) : Encoding.Statement (.seqwRelease t) := Encoding.no_word rfl
theorem Encoding.seqwTimeout (t : Nat) : Encoding.Statement (.seqwTimeout t) := Encoding.no_word rfl
theorem Encoding.trap (code : BitVec 32) : Encoding.Statement (.trap code) :=
  Encoding.of_form (f := .ctl 12 1 0 (restImm 0 0 code.toNat)) rfl ((read_sys 1 0 0 0 code.toNat).trans (by rw [bv_self]; rfl))
    (fits_imm0 (by decide) _ _ _)
theorem Encoding.svc (code : BitVec 32) : Encoding.Statement (.svc code) :=
  Encoding.of_form (f := .ctl 12 2 0 (restImm 0 0 code.toNat)) rfl ((read_sys 2 0 0 0 code.toNat).trans (by rw [bv_self]; rfl))
    (fits_imm0 (by decide) _ _ _)
theorem Encoding.hend : Encoding.Statement .hend :=
  Encoding.of_form (f := .ctl 12 3 0 (restImm 0 0 0)) rfl (read_sys 3 0 0 0 0)
    (fits_imm0 (by decide) _ _ _)
theorem Encoding.getcr (d : BitVec 6) (cr : BitVec 12) : Encoding.Statement (.getcr d cr) :=
  Encoding.of_form (f := .ctl 12 4 d.toNat (restImm 0 0 cr.toNat)) rfl ((read_sys 4 d 0 0 cr.toNat).trans (congrArg (fun x => some (Instr.getcr d x)) (cut_12 cr)))
    (fits_imm (by decide) _ _ _ _)
theorem Encoding.setcr (a : BitVec 6) (cr : BitVec 12) : Encoding.Statement (.setcr a cr) :=
  Encoding.of_form (f := .ctl 12 5 0 (restImm a 0 cr.toNat)) rfl ((read_sys 5 0 a 0 cr.toNat).trans (congrArg (fun x => some (Instr.setcr a x)) (cut_12 cr)))
    (fits_imm0 (by decide) _ _ _)
theorem Encoding.rdcyc (d : BitVec 6) : Encoding.Statement (.rdcyc d) :=
  Encoding.of_form (f := .ctl 12 6 d.toNat (restImm 0 0 0)) rfl (read_sys 6 d 0 0 0)
    (fits_imm (by decide) _ _ _ _)
theorem Encoding.waitev (d : BitVec 6) (a : BitVec 6) (mask : BitVec 9) :
    Encoding.Statement (.waitev d a mask) :=
  Encoding.of_form (f := .ctl 12 7 d.toNat (restImm a 0 mask.toNat)) rfl ((read_sys 7 d a 0 mask.toNat).trans (congrArg (fun x => some (Instr.waitev d a x)) (cut_9 mask)))
    (fits_imm (by decide) _ _ _ _)
theorem Encoding.waitevRelease (t : Nat) : Encoding.Statement (.waitevRelease t) := Encoding.no_word rfl
theorem Encoding.tlsig (a : BitVec 6) (b : BitVec 6) (add : Bool) : Encoding.Statement (.tlsig a b add) :=
  Encoding.of_form (f := .ctl 12 8 0 (restImm a b add.toNat)) rfl (by cases add <;> exact read_sys 8 0 a b _)
    (fits_imm0 (by decide) _ _ _)
theorem Encoding.tlwt (d : BitVec 6) (a : BitVec 6) (b : BitVec 6) (timeout : BitVec 32) :
    Encoding.Statement (.tlwt d a b timeout) :=
  Encoding.of_form (f := .ctl 12 9 d.toNat (restImm a b timeout.toNat)) rfl ((read_sys 9 d a b timeout.toNat).trans (by rw [bv_self]; rfl))
    (fits_imm (by decide) _ _ _ _)
theorem Encoding.tlwtRelease (t : Nat) : Encoding.Statement (.tlwtRelease t) := Encoding.no_word rfl
theorem Encoding.tlwtTimeout (t : Nat) : Encoding.Statement (.tlwtTimeout t) := Encoding.no_word rfl
theorem Encoding.tlset (a : BitVec 6) (b : BitVec 6) : Encoding.Statement (.tlset a b) :=
  Encoding.of_form (f := .ctl 12 10 0 (restImm a b 0)) rfl (read_sys 10 0 a b 0)
    (fits_imm0 (by decide) _ _ _)
theorem Encoding.depdec (d : BitVec 6) (a : BitVec 6) : Encoding.Statement (.depdec d a) :=
  Encoding.of_form (f := .ctl 12 11 d.toNat (restImm a 0 0)) rfl (read_sys 11 d a 0 0)
    (fits_imm (by decide) _ _ _ _)
theorem Encoding.depset (a : BitVec 6) (b : BitVec 6) : Encoding.Statement (.depset a b) :=
  Encoding.of_form (f := .ctl 12 12 0 (restImm a b 0)) rfl (read_sys 12 0 a b 0)
    (fits_imm0 (by decide) _ _ _)
theorem Encoding.launch (d : BitVec 6) (a : BitVec 6) : Encoding.Statement (.launch d a) :=
  Encoding.of_form (f := .ctl 12 13 d.toNat (restImm a 0 0)) rfl (read_sys 13 d a 0 0)
    (fits_imm (by decide) _ _ _ _)
theorem Encoding.publ (d : BitVec 6) (a : BitVec 6) : Encoding.Statement (.publ d a) :=
  Encoding.of_form (f := .ctl 12 14 d.toNat (restImm a 0 0)) rfl (read_sys 14 d a 0 0)
    (fits_imm (by decide) _ _ _ _)
theorem Encoding.snap (d : BitVec 6) (a : BitVec 6) : Encoding.Statement (.snap d a) :=
  Encoding.of_form (f := .ctl 12 15 d.toNat (restImm a 0 0)) rfl (read_sys 15 d a 0 0)
    (fits_imm (by decide) _ _ _ _)
theorem Encoding.unsnap (d : BitVec 6) (a : BitVec 6) : Encoding.Statement (.unsnap d a) :=
  Encoding.of_form (f := .ctl 12 16 d.toNat (restImm a 0 0)) rfl (read_sys 16 d a 0 0)
    (fits_imm (by decide) _ _ _ _)
theorem Encoding.foldComplete (p : Nat) (n : Nat) : Encoding.Statement (.foldComplete p n) := Encoding.no_word rfl
theorem Encoding.finsp (d : BitVec 6) (a : BitVec 6) (b : BitVec 6) : Encoding.Statement (.finsp d a b) :=
  Encoding.of_form (f := .ctl 12 17 d.toNat (restImm a b 0)) rfl (read_sys 17 d a b 0)
    (fits_imm (by decide) _ _ _ _)
theorem Encoding.fpatch (d : BitVec 6) (a : BitVec 6) (b : BitVec 6) : Encoding.Statement (.fpatch d a b) :=
  Encoding.of_form (f := .ctl 12 18 d.toNat (restImm a b 0)) rfl (read_sys 18 d a b 0)
    (fits_imm (by decide) _ _ _ _)
theorem Encoding.fres (a : BitVec 6) : Encoding.Statement (.fres a) :=
  Encoding.of_form (f := .ctl 12 19 0 (restImm a 0 0)) rfl (read_sys 19 0 a 0 0)
    (fits_imm0 (by decide) _ _ _)
theorem Encoding.fkill (a : BitVec 6) (relocate : Bool) : Encoding.Statement (.fkill a relocate) :=
  Encoding.of_form (f := .ctl 12 20 0 (restImm a 0 relocate.toNat)) rfl (by cases relocate <;> exact read_sys 20 0 a 0 _)
    (fits_imm0 (by decide) _ _ _)
theorem Encoding.fstep (d : BitVec 6) (a : BitVec 6) : Encoding.Statement (.fstep d a) :=
  Encoding.of_form (f := .ctl 12 21 d.toNat (restImm a 0 0)) rfl (read_sys 21 d a 0 0)
    (fits_imm (by decide) _ _ _ _)
theorem Encoding.fclrp (a : BitVec 6) (b : BitVec 6) : Encoding.Statement (.fclrp a b) :=
  Encoding.of_form (f := .ctl 12 22 0 (restImm a b 0)) rfl (read_sys 22 0 a b 0)
    (fits_imm0 (by decide) _ _ _)
theorem Encoding.hcapq (d : BitVec 6) (a : BitVec 6) : Encoding.Statement (.hcapq d a) :=
  Encoding.of_form (f := .ctl 12 23 d.toNat (restImm a 0 0)) rfl (read_sys 23 d a 0 0)
    (fits_imm (by decide) _ _ _ _)
theorem Encoding.hcapdrop (a : BitVec 6) : Encoding.Statement (.hcapdrop a) :=
  Encoding.of_form (f := .ctl 12 24 0 (restImm a 0 0)) rfl (read_sys 24 0 a 0 0)
    (fits_imm0 (by decide) _ _ _)
theorem Encoding.condset (a : BitVec 6) : Encoding.Statement (.condset a) :=
  Encoding.of_form (f := .ctl 12 25 0 (restImm a 0 0)) rfl (read_sys 25 0 a 0 0)
    (fits_imm0 (by decide) _ _ _)
theorem Encoding.condsetRelease (t : Nat) : Encoding.Statement (.condsetRelease t) := Encoding.no_word rfl
theorem Encoding.iterwt (d : BitVec 6) (a : BitVec 6) : Encoding.Statement (.iterwt d a) :=
  Encoding.of_form (f := .ctl 12 26 d.toNat (restImm a 0 0)) rfl (read_sys 26 d a 0 0)
    (fits_imm (by decide) _ _ _ _)
theorem Encoding.iterwtRelease (t : Nat) : Encoding.Statement (.iterwtRelease t) := Encoding.no_word rfl
theorem Encoding.kickscan (d : BitVec 6) (a : BitVec 6) : Encoding.Statement (.kickscan d a) :=
  Encoding.of_form (f := .ctl 12 27 d.toNat (restImm a 0 0)) rfl (read_sys 27 d a 0 0)
    (fits_imm (by decide) _ _ _ _)
theorem Encoding.kickscanClear (d : BitVec 6) (a : BitVec 6) : Encoding.Statement (.kickscanClear d a) :=
  Encoding.of_form (f := .ctl 12 27 d.toNat (restImm a 0 1)) rfl (read_sys 27 d a 0 1)
    (fits_imm (by decide) _ _ _ _)
theorem Encoding.jrnl (d : BitVec 6) (a : BitVec 6) (b : BitVec 6) (tag : BitVec 32) :
    Encoding.Statement (.jrnl d a b tag) :=
  Encoding.of_form (f := .ctl 12 28 d.toNat (restImm a b tag.toNat)) rfl ((read_sys 28 d a b tag.toNat).trans (by rw [bv_self]; rfl))
    (fits_imm (by decide) _ _ _ _)
theorem Encoding.wdog (a : BitVec 6) : Encoding.Statement (.wdog a) :=
  Encoding.of_form (f := .ctl 12 29 0 (restImm a 0 0)) rfl (read_sys 29 0 a 0 0)
    (fits_imm0 (by decide) _ _ _)
theorem Encoding.halt : Encoding.Statement .halt :=
  Encoding.of_form (f := .ctl 12 30 0 (restImm 0 0 0)) rfl (read_sys 30 0 0 0 0)
    (fits_imm0 (by decide) _ _ _)
theorem Encoding.sluice (d : BitVec 6) (a : BitVec 6) (b : BitVec 6) : Encoding.Statement (.sluice d a b) :=
  Encoding.of_form (f := .ctl 12 31 d.toNat (restImm a b 0)) rfl (read_sys 31 d a b 0)
    (fits_imm (by decide) _ _ _ _)
theorem Encoding.rngc (d : BitVec 6) (a : BitVec 6) (b : BitVec 6) : Encoding.Statement (.rngc d a b) :=
  Encoding.of_form (f := .ctl 12 32 d.toNat (restImm a b 0)) rfl (read_sys 32 d a b 0)
    (fits_imm (by decide) _ _ _ _)
theorem Encoding.shpfence (a : BitVec 6) (all : Bool) : Encoding.Statement (.shpfence a all) :=
  Encoding.of_form (f := .ctl 12 33 0 (restImm a 0 all.toNat)) rfl (by cases all <;> exact read_sys 33 0 a 0 _)
    (fits_imm0 (by decide) _ _ _)
theorem Encoding.pagepl (d : BitVec 6) (a : BitVec 6) (b : BitVec 6) : Encoding.Statement (.pagepl d a b) :=
  Encoding.of_form (f := .ctl 12 34 d.toNat (restImm a b 0)) rfl (read_sys 34 d a b 0)
    (fits_imm (by decide) _ _ _ _)
theorem Encoding.popCondition (r : Nat) : Encoding.Statement (.popCondition r) := Encoding.no_word rfl
theorem Encoding.firingDone (r : Nat) : Encoding.Statement (.firingDone r) := Encoding.no_word rfl
theorem Encoding.weirFire (p : Nat) : Encoding.Statement (.weirFire p) := Encoding.no_word rfl
theorem Encoding.commSuperstepStart (p : Nat) : Encoding.Statement (.commSuperstepStart p) := Encoding.no_word rfl
theorem Encoding.retirement (p : Nat) : Encoding.Statement (.retirement p) := Encoding.no_word rfl
theorem Encoding.frameStart (p : Nat) : Encoding.Statement (.frameStart p) := Encoding.no_word rfl
theorem Encoding.arcWaitTimeout (p : Nat) : Encoding.Statement (.arcWaitTimeout p) := Encoding.no_word rfl
theorem Encoding.act (c : Nat) (bank : BitVec 6) (row : BitVec 14) : Encoding.Statement (.act c bank row) := Encoding.no_word rfl
theorem Encoding.pre (c : Nat) (bank : BitVec 6) : Encoding.Statement (.pre c bank) := Encoding.no_word rfl
theorem Encoding.prea (c : Nat) : Encoding.Statement (.prea c) := Encoding.no_word rfl
theorem Encoding.rd (c : Nat) (bank : BitVec 6) (col : BitVec 5) (step : BitVec 8) :
    Encoding.Statement (.rd c bank col step) := Encoding.no_word rfl
theorem Encoding.wr (c : Nat) (bank : BitVec 6) (col : BitVec 5) (step : BitVec 8) :
    Encoding.Statement (.wr c bank col step) := Encoding.no_word rfl
theorem Encoding.wrc (c : Nat) (bank : BitVec 6) (col : BitVec 5) : Encoding.Statement (.wrc c bank col) := Encoding.no_word rfl
theorem Encoding.ref (c : Nat) : Encoding.Statement (.ref c) := Encoding.no_word rfl
theorem Encoding.repair (c : Nat) : Encoding.Statement (.repair c) := Encoding.no_word rfl
theorem Encoding.openRec (c : Nat) (len : BitVec 14) : Encoding.Statement (.openRec c len) := Encoding.no_word rfl
theorem Encoding.twstep (c : Nat) (step : BitVec 8) : Encoding.Statement (.twstep c step) := Encoding.no_word rfl
theorem Encoding.timelineEnd (c : Nat) : Encoding.Statement (.timelineEnd c) := Encoding.no_word rfl
theorem Encoding.kick (q : Nat) : Encoding.Statement (.kick q) := Encoding.no_word rfl
theorem Encoding.recgo (len : Nat) : Encoding.Statement (.recgo len) := Encoding.no_word rfl
theorem Encoding.endrWrite (v : BitVec 32) : Encoding.Statement (.endrWrite v) := Encoding.no_word rfl
theorem Encoding.pctlEval (p : Nat) (newtok : BitVec 16) : Encoding.Statement (.pctlEval p newtok) := Encoding.no_word rfl
theorem Encoding.pctlKill (p : Nat) : Encoding.Statement (.pctlKill p) := Encoding.no_word rfl
theorem Encoding.pctlCheckpoint (p : Nat) : Encoding.Statement (.pctlCheckpoint p) := Encoding.no_word rfl
theorem Encoding.restore (p : Nat) : Encoding.Statement (.restore p) := Encoding.no_word rfl
theorem Encoding.restorePerformed (p : Nat) : Encoding.Statement (.restorePerformed p) := Encoding.no_word rfl
theorem Encoding.drainlimExpiry (p : Nat) : Encoding.Statement (.drainlimExpiry p) := Encoding.no_word rfl
theorem Encoding.preemptKill (p : Nat) : Encoding.Statement (.preemptKill p) := Encoding.no_word rfl
theorem Encoding.checkpoint (p : Nat) : Encoding.Statement (.checkpoint p) := Encoding.no_word rfl
theorem Encoding.thermalFreeze (p : Nat) : Encoding.Statement (.thermalFreeze p) := Encoding.no_word rfl
theorem Encoding.killall (p : Nat) : Encoding.Statement (.killall p) := Encoding.no_word rfl
theorem Encoding.endgraph (p : Nat) : Encoding.Statement (.endgraph p) := Encoding.no_word rfl
theorem Encoding.redispatch (p : Nat) : Encoding.Statement (.redispatch p) := Encoding.no_word rfl
theorem Encoding.arm (p : Nat) (n : Nat) : Encoding.Statement (.arm p n) := Encoding.no_word rfl
theorem Encoding.close (p : Nat) (n : Nat) : Encoding.Statement (.close p n) := Encoding.no_word rfl
theorem Encoding.windowDeadline (p : Nat) (n : Nat) : Encoding.Statement (.windowDeadline p n) := Encoding.no_word rfl
theorem Encoding.resume (p : Nat) (e : Nat) : Encoding.Statement (.resume p e) := Encoding.no_word rfl
theorem Encoding.skip (p : Nat) (e : Nat) : Encoding.Statement (.skip p e) := Encoding.no_word rfl
theorem Encoding.cool : Encoding.Statement .cool := Encoding.no_word rfl
theorem Encoding.warm : Encoding.Statement .warm := Encoding.no_word rfl
theorem Encoding.off : Encoding.Statement .off := Encoding.no_word rfl
theorem Encoding.trainingReadTest (c : Nat) : Encoding.Statement (.trainingReadTest c) := Encoding.no_word rfl
theorem Encoding.trainingWriteTest (c : Nat) : Encoding.Statement (.trainingWriteTest c) := Encoding.no_word rfl
theorem Encoding.trainingTestDone (c : Nat) : Encoding.Statement (.trainingTestDone c) := Encoding.no_word rfl
theorem Encoding.lrepWrite (c : Nat) (v : Word) : Encoding.Statement (.lrepWrite c v) := Encoding.no_word rfl
theorem Encoding.degrClear (c : Nat) : Encoding.Statement (.degrClear c) := Encoding.no_word rfl
theorem Encoding.rangeEntryWrite (p : Nat) (n : Nat) (w : Nat) (v : Word) :
    Encoding.Statement (.rangeEntryWrite p n w v) := Encoding.no_word rfl
theorem Encoding.imageTableEdit (i : Nat) (ver : BitVec 16) (pa : BitVec 52) :
    Encoding.Statement (.imageTableEdit i ver pa) := Encoding.no_word rfl
theorem Encoding.routeEntryWrite (d : Nat) (v : Word) : Encoding.Statement (.routeEntryWrite d v) := Encoding.no_word rfl
theorem Encoding.ridxWrite (q : Nat) (v : BitVec 32) : Encoding.Statement (.ridxWrite q v) := Encoding.no_word rfl
theorem Encoding.migctlWrite (p : Nat) (v : Word) : Encoding.Statement (.migctlWrite p v) := Encoding.no_word rfl
theorem Encoding.queueLimitWrite (pa : Nat) (v : Word) : Encoding.Statement (.queueLimitWrite pa v) := Encoding.no_word rfl
theorem Encoding.registerWrite (pa : Nat) (v : Word) : Encoding.Statement (.registerWrite pa v) := Encoding.no_word rfl
theorem Encoding.quote (nonce : BitVec 256) : Encoding.Statement (.quote nonce) := Encoding.no_word rfl
theorem Encoding.keyload (slot : BitVec 6) (wrapped : BitVec 832) : Encoding.Statement (.keyload slot wrapped) := Encoding.no_word rfl
theorem Encoding.keyclr (slot : BitVec 6) : Encoding.Statement (.keyclr slot) := Encoding.no_word rfl
theorem Encoding.hostMailboxWrite (p : Nat) : Encoding.Statement (.hostMailboxWrite p) := Encoding.no_word rfl
theorem Encoding.powerOnReset : Encoding.Statement .powerOnReset := Encoding.no_word rfl
theorem Encoding.thermalSample (temps : List (BitVec 16 × Bool)) : Encoding.Statement (.thermalSample temps) := Encoding.no_word rfl
theorem Encoding.settleComplete : Encoding.Statement .settleComplete := Encoding.no_word rfl
theorem Encoding.cdrateWindow : Encoding.Statement .cdrateWindow := Encoding.no_word rfl
theorem Encoding.watchdogExpiry (core : Nat) : Encoding.Statement (.watchdogExpiry core) := Encoding.no_word rfl
theorem Encoding.takeoverSpawn : Encoding.Statement .takeoverSpawn := Encoding.no_word rfl
theorem Encoding.handlerSpawn (die : Nat) : Encoding.Statement (.handlerSpawn die) := Encoding.no_word rfl
theorem Encoding.faultRecordGrant (serial : Nat) : Encoding.Statement (.faultRecordGrant serial) := Encoding.no_word rfl
theorem Encoding.poolFull (serial : Nat) : Encoding.Statement (.poolFull serial) := Encoding.no_word rfl
theorem Encoding.reportDeadline (serial : Nat) : Encoding.Statement (.reportDeadline serial) := Encoding.no_word rfl
theorem Encoding.copyEntryStart (p : Nat) (e : Nat) : Encoding.Statement (.copyEntryStart p e) := Encoding.no_word rfl
theorem Encoding.copyEntryComplete (p : Nat) (e : Nat) : Encoding.Statement (.copyEntryComplete p e) := Encoding.no_word rfl
theorem Encoding.requestRecordResend (id : Nat) : Encoding.Statement (.requestRecordResend id) := Encoding.no_word rfl
theorem Encoding.orderedLineArrival (l : LineIn) : Encoding.Statement (.orderedLineArrival l) := Encoding.no_word rfl
theorem Encoding.lineGiveUp (id : Nat) (why : LineTrouble) : Encoding.Statement (.lineGiveUp id why) := Encoding.no_word rfl
theorem Encoding.runoffBlockArrival (src : Nat) (part : Nat) (owner : Nat) (addr : Nat) (way : LineWay) (lines : List RunLine) :
    Encoding.Statement (.runoffBlockArrival src part owner addr way lines) := Encoding.no_word rfl
theorem Encoding.arcCommit (l : LineIn) : Encoding.Statement (.arcCommit l) := Encoding.no_word rfl
theorem Encoding.arcAbort (l : LineIn) : Encoding.Statement (.arcAbort l) := Encoding.no_word rfl
theorem Encoding.arcDenial (id : Nat) (gateway : Bool) : Encoding.Statement (.arcDenial id gateway) := Encoding.no_word rfl
theorem Encoding.creditRecord (arc : Nat) (l : LineIn) : Encoding.Statement (.creditRecord arc l) := Encoding.no_word rfl
theorem Encoding.requestRecordArrival (src : Nat) (part : Nat) (owner : Nat) (addr : Nat) (l : LineWay × RunLine) :
    Encoding.Statement (.requestRecordArrival src part owner addr l) := Encoding.no_word rfl
theorem Encoding.remoteAtomicArrival (src : Nat) (part : Nat) (owner : Nat) (queue : Nat) (addr : Nat) (sz : BitVec 3) (op : BitVec 5)
    (way : LineWay) (l : RunLine) : Encoding.Statement (.remoteAtomicArrival src part owner queue addr sz op way l) :=
  Encoding.no_word rfl
theorem Encoding.laneRepairStart (port : Nat) (lane : Nat) : Encoding.Statement (.laneRepairStart port lane) := Encoding.no_word rfl
theorem Encoding.laneRetrainDone (port : Nat) : Encoding.Statement (.laneRetrainDone port) := Encoding.no_word rfl
theorem Encoding.gatewayRefill : Encoding.Statement .gatewayRefill := Encoding.no_word rfl
theorem Encoding.scrubPass (marks : List (Nat × Nat)) : Encoding.Statement (.scrubPass marks) := Encoding.no_word rfl
theorem Encoding.powerStateEnter : Encoding.Statement .powerStateEnter := Encoding.no_word rfl
theorem Encoding.powerStateWake : Encoding.Statement .powerStateWake := Encoding.no_word rfl
theorem Encoding.imageLoad (index : Nat) (pa : Nat) (part : Nat) (img : ImageDecl) :
    Encoding.Statement (.imageLoad index pa part img) := Encoding.no_word rfl
theorem Encoding.pageRemoval (r : Nat) : Encoding.Statement (.pageRemoval r) := Encoding.no_word rfl
theorem Encoding.serviceThreadSpawn (task : Nat) : Encoding.Statement (.serviceThreadSpawn task) := Encoding.no_word rfl
theorem Encoding.portUp (port : Nat) : Encoding.Statement (.portUp port) := Encoding.no_word rfl
theorem Encoding.powerLoss : Encoding.Statement .powerLoss := Encoding.no_word rfl
theorem Encoding.flashWrite (bytes : List Byte) : Encoding.Statement (.flashWrite bytes) := Encoding.no_word rfl
theorem Encoding.versionFuseBlow : Encoding.Statement .versionFuseBlow := Encoding.no_word rfl
theorem Encoding.remapTableReload (stack : Nat) : Encoding.Statement (.remapTableReload stack) := Encoding.no_word rfl
theorem Encoding.repairRecordWrite (c : Nat) (v : Word) : Encoding.Statement (.repairRecordWrite c v) := Encoding.no_word rfl
theorem Encoding.dynamicModeRefresh (c : Nat) : Encoding.Statement (.dynamicModeRefresh c) := Encoding.no_word rfl

end Laws

end Sys2Proof
end

