-- ==== Sys2Proof/Tests/Slice0.lean ====
section
/-! SUPPORT. Tests: terms that the well-formedness checks refuse, words written out from the encoding tables, witnesses
for the hypotheses of the statements, and single steps whose result the spec states. -/

namespace Sys2Proof.Tests

open Sys2Proof.Machine

set_option Elab.async false

/-! ## States of the tests -/

/-- A cellar thread at PRIV 3 with s1 = 0x1000, s2 = 3 and h0 tagged. -/
def cell : Thread :=
  { Thread.zero with kind := .cellar, status := .running, priv := 3, regs := [(1, 0x1000), (2, 3), (3, 1)], part := 0 }
/-- The state in which a thread executes as thread t. -/
def at_ (t : Nat) (T : Thread) : State := { State.reset with agenda := [], cur := .thread t, threads := [(t, T)] }
/-- A service, a handler and a run-ahead thread of partition 0. -/
def serv : Thread := { cell with kind := .service, priv := 1 }
def hand : Thread := { cell with kind := .handler, priv := 2, h := [(0, 1)], htag := [(0, true)] }
def rau : Thread := { cell with kind := .runAhead, priv := 0 }
/-- A tile of region 0 executes. -/
def tileAt : State := { State.reset with agenda := [], cur := .tile 0 0 0 0 }
/-- A write on its way from thread 0: eight bytes to 0x1000 of HBM. -/
def wr : PWrite :=
  { id := 7, by_ := .thread 0, part := 0, pa := 0x1000, ea := 0x1000, len := 8, data := natBytes 5 8, kind := .store,
    ord := 0, scope := 0, performed := false, deny := 0, retryAt := none, issued := 0, sealed_ := [], fails := 0,
    counted := false }
/-- A load on its way to s3: eight bytes of HBM. -/
def ldl : PLoad :=
  { id := 9, d := 3, sz := 3, signed := false, ea := 0x1000, pa := 0x1000, pc := 0, lo := 0, acq := true, scope := 4,
    atomic := false, clean := false, val := none, got := none }
/-- Eight bytes at 0(s1), with an order and a scope. -/
def mem8 (ord : BitVec 2) (scope : BitVec 3) : MemArgs := ⟨3, 1, 0, 3, scope, 0, ord, 0, 0⟩

/-! ## What the hypotheses of the statements can be: one witness for each clause -/

theorem witness_ControlArithmeticWritesItsResult :
    (at_ 0 cell).cur = .thread 0 ∧
    aluResult ((at_ 0 cell).thread 0).reads (.add 0 1 2) = some (0, 1, 0x1003) ∧
    aluResult ((at_ 0 cell).thread 0).reads (.mulhu 35 1 1) = some (35, 3, 0) := by decide

theorem witness_BranchesAndJumpsMoveThePc :
    (at_ 0 cell).cur = .thread 0 ∧
    branchTaken ((at_ 0 cell).thread 0).reads (.bne 1 2 4) = some (true, 4) ∧
    branchTaken ((at_ 0 cell).thread 0).reads (.bz 1 0x80000000) = some (false, 0x80000000) := by decide

theorem witness_MovCopiesTheTag : (at_ 2 hand).cur = .thread 2 ∧ ((at_ 2 hand).thread 2).tag 32 = true := by decide

theorem witness_NopAndGuardDoWhatR44Says : (at_ 0 cell).cur = .thread 0 ∧ tileAt.cur = .tile 0 0 0 0 := by decide

theorem witness_OtherKindsFreezeWithPriv :
    kindsOf (.fres 32) = some [.handler] ∧ (at_ 0 cell).cur = .thread 0 ∧
    ((at_ 0 cell).thread 0).kindIn [.handler] = false := by decide

theorem witness_AFreezeLatchesARecordAndKeepsRegisters :
    ((at_ 130 rau).thread 130).stepBy = none ∧ isRau 130 = true ∧ rauRegion 130 = 0 := by decide

theorem witness_LoadsAreIssuedToTheirHome :
    (at_ 0 cell).cur = .thread 0 ∧ ∃ x, (at_ 0 cell).checkAccess ((at_ 0 cell).thread 0)
      (((at_ 0 cell).thread 0).reads 1 + (0 : BitVec 32).signExtend 64).toNat (2 ^ 3) (2 ^ 3) .load = .ok x :=
  ⟨by decide, _, rfl⟩

theorem witness_FailedAccessChecksFreezeBeforeAnyAccess :
    (at_ 0 cell).cur = .thread 0 ∧ ((at_ 0 cell).thread 0).kindIn [.service, .handler, .cellar] = true ∧
    (at_ 0 cell).checkAccess ((at_ 0 cell).thread 0) 0x1003 8 8 .load = .error 0x04 ∧
    (at_ 0 cell).checkAccess ((at_ 0 cell).thread 0) 0x1003 8 8 .atomic = .error 0x07 ∧
    (at_ 0 cell).checkAccess ((at_ 0 cell).thread 0) (2 ^ 52) 8 8 .store = .error 0x05 :=
  ⟨by decide, by decide, rfl, rfl, rfl⟩

/-- A state in which the load has been issued. -/
def loading : State := at_ 0 { cell with loads := [ldl] }

theorem witness_AReplyDeliversTheBytesOfAnInstant :
    (loading.thread 0).loads = [ldl] ∧ ldl.got = none ∧ ldl.atomic = false ∧ targetOf ldl.pa ≠ .window ∧
    loading.homeServes ldl.pa = true ∧ loading.atomicAhead 0 ldl = false ∧ loading.serveLine ldl.pa = (loading, true) := by
  decide

theorem witness_StoresAreIssuedToTheirHome :
    (at_ 0 cell).cur = .thread 0 ∧ ((at_ 0 cell).thread 0).kindIn [.service, .handler, .cellar] = true ∧
    (∃ x, (at_ 0 cell).checkAccess ((at_ 0 cell).thread 0) 0x1000 (2 ^ 3) (2 ^ 3) .store = .ok x ∧
      targetOf x.pa ≠ .window ∧ (at_ 0 cell).localDenial x.pa = false ∧ otherPkg x.pa = none) ∧
    ((at_ 0 cell).thread 0).asCellar = true ∧ (at_ 0 cell).clear 0 (relScope (mem8 2 5)) ∧
    (at_ 0 cell).holdsOf ((at_ 0 cell).thread 0) = false :=
  ⟨by decide, by decide, ⟨_, rfl, by decide, by decide, by decide⟩, by decide, .inr (by decide), by decide⟩

theorem witness_StoresArePerformedAndAcknowledged :
    ({ State.reset with writes := [wr] }.writes.find? (fun v => decide (v.id = 7))) = some wr ∧ wr.kind = .store ∧
    { State.reset with writes := [wr] }.mayPerform wr = true ∧ { State.reset with writes := [wr] }.voteLine wr.pa = ({ State.reset with writes := [wr] }, true) ∧
    ([{ wr with performed := true }].find? (fun v => decide (v.id = 7))) = some { wr with performed := true } := by decide

theorem witness_AtomicsAreIssuedWithTheirOperands :
    (at_ 0 cell).cur = .thread 0 ∧
    (∃ x, (at_ 0 cell).checkAccess ((at_ 0 cell).thread 0) 0x1000 (2 ^ 3) (2 ^ 3) .atomic = .ok x ∧
      (at_ 0 cell).localDenial x.pa = false ∧ otherPkg x.pa = none) ∧ (at_ 0 cell).clear 0 (relScope (mem8 3 4)) :=
  ⟨by decide, ⟨_, rfl, by decide, by decide⟩, .inr (by decide)⟩

/-- States with an atomic at its home: AMO ADD, and CAS. -/
def amoWr : PWrite := { wr with kind := .amo 0 9 }
def casWr : PWrite := { wr with kind := .cas 0 9 false }
def atHome (w : PWrite) : State :=
  { at_ 0 { cell with loads := [{ ldl with atomic := true }] } with cur := .hub, writes := [w] }

theorem witness_AnAtomicReadsAndWritesInOneStep :
    ((atHome amoWr).writes.find? (fun v => decide (v.id = 7))) = some amoWr ∧ amoWr.by_ = .thread 0 ∧
    (atHome amoWr).mayPerform amoWr = true ∧ (atHome amoWr).serveLine amoWr.pa = (atHome amoWr, true) ∧
    amoWr.kind = .amo 0 9 ∧ ((atHome casWr).writes.find? (fun v => decide (v.id = 7))) = some casWr ∧
    (atHome casWr).mayPerform casWr = true ∧ (atHome casWr).serveLine casWr.pa = (atHome casWr, true) := by decide

theorem witness_ReleasesWaitForEarlierWrites :
    { at_ 0 cell with writes := [wr] }.cur = .thread 0 ∧
    (∃ x, { at_ 0 cell with writes := [wr] }.checkAccess cell 0x1000 (2 ^ 3) (2 ^ 3) .store = .ok x) ∧
    relScope (mem8 2 4) ≠ 0 ∧ cell.hears (relScope (mem8 2 4)) = none ∧
    { at_ 0 cell with writes := [wr] }.quiet (.thread 0) (relScope (mem8 2 4)) = false :=
  ⟨by decide, ⟨_, rfl⟩, by decide, by decide, by decide⟩

/-- A thread that waits in a FENCE, with a write on its way or none. -/
def fenced (ws : List PWrite) : State :=
  { at_ 0 { cell with status := .waiting (.fence true true 4) } with writes := ws }

theorem witness_FencesHoldUntilTheirWritesAreAcknowledged :
    ((fenced []).thread 0).status = .waiting (.fence true true 4) ∧ ((fenced []).thread 0).hears 4 = none ∧
    (fenced []).quiet (.thread 0) 4 = true ∧ (fenced [wr]).quiet (.thread 0) 4 = false := by decide

theorem witness_EnqLinksAnEntryAtTheTail :
    (at_ 0 cell).cur = .thread 0 ∧ ((at_ 0 cell).thread 0).chainOf (((at_ 0 cell).thread 0).reads 3) = some 1 ∧
    (∃ x, (at_ 0 cell).checkAccess ((at_ 0 cell).thread 0) 0x1000 64 64 .enq = .ok x) ∧ (at_ 0 cell).clear 0 4 :=
  ⟨by decide, by decide, ⟨_, rfl⟩, .inr (by decide)⟩

/-- The handle of counter 1 of this package. -/
def own : Word := BitVec.ofNat 64 (4096 * Config.pkgId.toNat + 1)
theorem own_nat : own.toNat = 4096 * Config.pkgId.toNat + 1 := by
  have := Config.pkgId.isLt
  simp only [own, BitVec.toNat_ofNat]; omega
theorem own_local : handleLocal own = true := by
  have := Config.pkgId.isLt
  simp only [handleLocal, handlePkg, bitsOf, own_nat, decide_eq_true_eq]; omega
theorem own_idx : handleIdx own = 1 := by
  simp only [handleIdx, bitsOf, own_nat]; omega
theorem own_of (T : Thread) (h : T.asCellar = true) : handleOf T own = true := by
  have := Config.pkgId.isLt
  simp only [handleOf, own_nat, h, Bool.true_or, Bool.and_true, decide_eq_true_eq]; omega

/-- A state with event 1 pending, chain 1 at sequence 0, counter 1 at 3, and the handle of that counter in s4. -/
def ready : State :=
  { at_ 0 { cell with regs := [(1, 0x1000), (2, 3), (3, 1), (4, own)] } with events := 2, counters := [(1, 3)] }

theorem ready_own : (ready.thread 0).reads 4 = own := rfl

theorem witness_WaitsThatAreMetReleaseAtOnce :
    ready.cur = .thread 0 ∧ (ready.thread 0).chainOf ((ready.thread 0).reads 3) = some 1 ∧
    reached (ready.chain 1).seq ((ready.thread 0).reads 0) = true ∧
    handleOf (ready.thread 0) ((ready.thread 0).reads 4) = true ∧ handleLocal ((ready.thread 0).reads 4) = true ∧
    ready.tlwtMet 0 (handleIdx ((ready.thread 0).reads 4)) ((ready.thread 0).reads 2) = true ∧
    Nat.land (ready.pendingEvents (ready.thread 0) ((ready.thread 0).reads 0)) 2 ≠ 0 := by
  rw [ready_own]
  refine ⟨by decide, by decide, by decide, own_of _ (by decide), own_local, ?_, by decide⟩
  rw [own_idx]
  decide

theorem witness_WaitsThatAreNotMetHoldTheThread :
    reached (ready.chain 1).seq ((ready.thread 0).reads 2) = false ∧
    ready.tlwtMet 0 (handleIdx ((ready.thread 0).reads 4)) ((ready.thread 0).reads 1) = false ∧
    Nat.land (ready.pendingEvents (ready.thread 0) 0) 4 = 0 ∧
    (at_ 130 rau).cur = .thread 130 ∧ ((at_ 130 rau).thread 130).kindIn [.runAhead] = true ∧
    ({ at_ 130 rau with regions := [(0, { Region.zero with sealed := true })] }.region (rauRegion 130)).sealed = true ∧
    (at_ 130 rau).iterReached 130 1 ((at_ 130 rau).region 0).fired = false := by
  rw [ready_own, own_idx]
  decide
/-- Registers of the window by address, over the reset values. -/
def regs (rs : List (Nat × Word)) (s : State) : State := rs.foldl (fun s e => s.setW e.1 e.2) s

theorem witness_ReleasesOfWaitsWriteTheirResult :
    reached (ready.chain 1).seq 0 = true ∧ ready.tlwtMet 0 1 3 = true ∧
    (0 ≤ ready.now ∧ reached (ready.chain 1).seq 1 = false) ∧ ready.tlwtMet 0 1 4 = false ∧
    Nat.land (ready.pendingEvents (ready.thread 0) 1) 2 ≠ 0 ∧
    (at_ 130 rau).iterReached 130 0 0 = true ∧ ((at_ 130 rau).region (rauRegion 130)).sealed = false ∧
    ((at_ 130 rau).deliverCond (rauRegion 130) false true).isSome = true := by decide

/-- A DUAL region whose conditions come from its run-ahead thread. -/
def dual : Region := { Region.zero with hdr := 0x200 }

theorem witness_CondsetAndIterwtActOnTheirRegion :
    (at_ 130 rau).cur = .thread 130 ∧ ((at_ 130 rau).thread 130).kindIn [.runAhead] = true ∧ dual.sealed = false ∧
    hDual dual.hdr = true ∧ hCsrc dual.hdr = false ∧ ([true, true, true] : List Bool).length < 4 ∧
    (at_ 130 rau).iterReached 130 0 0 = true := by decide

theorem witness_TrapAndSvcFreezeAfterTheirOwnEffect :
    (at_ 2 serv).cur = .thread 2 ∧ ((at_ 2 serv).thread 2).stepBy = none ∧
    ((at_ 2 serv).thread 2).kindIn [.service, .runAhead] = true := by decide

theorem witness_ThreadsEndWithHaltAndHend :
    (at_ 0 cell).cur = .thread 0 ∧ ((at_ 0 cell).thread 0).takeover = false ∧ cell.kind = .cellar ∧ rau.kind = .runAhead ∧
    serv.kind = .service ∧ hand.kind = .handler := by decide

theorem witness_ControlRegistersReadAndWriteAsR41Says :
    (at_ 0 cell).cur = .thread 0 ∧ ((at_ 0 cell).thread 0).priv = 3 ∧ ((at_ 2 serv).thread 2).priv ≠ 3 ∧
    ((0x35 : BitVec 12), (at_ 0 cell).w (dcAt 0 5)) ∈ [((0x35 : BitVec 12), (at_ 0 cell).w (dcAt (at_ 0 cell).tband 5))] := by
  decide

theorem witness_CycleAndCapabilityQueriesWriteD :
    (at_ 0 cell).clear 0 5 ∧ ((at_ 2 hand).thread 2).kindIn [.handler] = true ∧ ((at_ 2 hand).thread 2).tag 32 = true :=
  ⟨.inr (by decide), by decide, by decide⟩

theorem witness_CountersAreSignalledSetAndCountedDown :
    ready.cur = .thread 0 ∧ (ready.thread 0).kindIn [.cellar] = true ∧
    handleOf (ready.thread 0) ((ready.thread 0).reads 4) = true ∧ handleLocal ((ready.thread 0).reads 4) = true ∧
    (ready.thread 0).hears 4 = none ∧ ready.holdsOf (ready.thread 0) = false ∧
    ready.signalling 0 (handleIdx ((ready.thread 0).reads 4)) = false ∧
    { ready with writes := [{ wr with kind := .tlsig 1 true }] }.mayPerform { wr with kind := .tlsig 1 true } = true ∧
    ((ready.thread 0).reads 3).toNat < 2 ^ 12 ∧ (ready.thread 0).asCellar = true ∧ ready.clear 0 4 ∧
    ((ready.thread 0).reads 2).toNat < 2 ^ 32 := by
  rw [ready_own, own_idx]
  exact ⟨by decide, by decide, own_of _ (by decide), own_local, by decide, by decide, by decide, by decide, by decide,
    by decide, .inr (by decide), by decide⟩

theorem witness_KicksJournalAndWatchdogOfTheCellar :
    (regs [(crbAt 0x28, 0x8000000000000000)] (at_ 0 cell)).kickBit ((0 + 255) % 256) = true ∧
    (∀ i < 255, (regs [(crbAt 0x28, 0x8000000000000000)] (at_ 0 cell)).kickBit ((0 + i) % 256) = false) ∧
    (∀ k < 256, (at_ 0 cell).kickBit k = false) ∧ (at_ 0 cell).clear 0 4 ∧ ((at_ 0 cell).thread 0).kindIn [.cellar] = true :=
  ⟨by decide, by decide +kernel, by decide +kernel, .inr (by decide), by decide⟩

/-- Range entry 3 of partition 0 with a shadow copy: VALID, SHD, and a SHST. -/
def shadowed (shst : Word) : State := regs [(rangeAt 0 3 0, 0x11 + 64 * shst)] (at_ 2 { serv with regs := [(1, 3), (2, 64)] })

theorem witness_PublicationAndSnapshotsActOnARangeEntry :
    ((shadowed 0).thread 2).kindIn [.service, .handler, .cellar] = true ∧ (shadowed 0).clear 2 5 ∧ (shadowed 0).clear 2 4 ∧
    (shadowed 0).rShd 0 3 = true ∧ (shadowed 0).rSink 0 3 = false ∧ (shadowed 0).rShst 0 3 = 0 ∧
    (shadowed 0).stagedInto 0 3 = false ∧ (64 ≤ (((shadowed 0).thread 2).reads 2).toNat) ∧
    (shadowed 0).entryWrites 0 3 = false ∧ (shadowed 2).rShst 0 3 = 2 ∧ (shadowed 2).snapReads 0 3 = false ∧
    (0, 3) ∈ { shadowed 3 with folds := [(0, 3)] }.folds ∧ (shadowed 3).rShst 0 3 = 3 :=
  ⟨by decide, .inr (by decide), .inr (by decide), by decide, by decide, by decide, by decide, by decide, by decide,
    by decide, by decide, by decide, by decide⟩

/-- A launch record at 0x1000 whose mask names region 0, which is placed in partition 0. -/
def launchable : State :=
  { regs [(trbAt 0, 16)] (at_ 0 cell) with mem := [(memKey 0x1020, 1)], regions := [(0, { Region.zero with placed := true, w := 1, h := 1 })] }

theorem witness_LaunchStartsAGraphOrAnswersZero :
    launchable.cur = .thread 0 ∧ (launchable.thread 0).kindIn [.cellar] = true ∧ launchable.clear 0 4 ∧
    launchable.launchSerial < 2 ^ 64 - 1 ∧ (launchable.launchGraph (memKey ((launchable.thread 0).reads 1).toNat)).2 ≠ 0 ∧
    ((at_ 0 cell).launchGraph (memKey ((at_ 0 cell).thread 0 |>.reads 1).toNat)).2 = 0 :=
  ⟨by decide, by decide, .inr (by decide), by decide, by decide +kernel, by decide +kernel⟩

/-- Partition 0 runs graph 1 over region 0, whose tile 0 has a timeline input pond. -/
def sluicing : State :=
  { at_ 0 { cell with regs := [(1, 1)] } with
    parts := [(0, { Part.zero with
      stage := .compute
      graph := some ⟨0, 0, 0, 1, 0, 0, 0, 0, 0, 1, [0], none, [1]⟩ })]
    regions := [(0, { Region.zero with placed := true, w := 1, h := 1 })]
    tiles := [(0, { Tile.zero with ponds := [(0, { Pond.zero with entry := 0x100000000001 })] })] }

theorem witness_SluiceAndPlacementAnswerInD :
    sluicing.cur = .thread 0 ∧ (sluicing.thread 0).kindIn [.service, .cellar] = true ∧ sluicing.clear 0 4 ∧
    sluicing.graphOf ((sluicing.thread 0).reads 0).toNat = none ∧
    (sluicing.graphOf ((sluicing.thread 0).reads 1).toNat).isSome = true ∧ ((sluicing.thread 0).reads 0).toNat < 8 ∧
    (sluicing.part 0).sluice = none ∧ sluicing.timelineIn 0 = true ∧ (sluicing.sluiceFrame 0).isSome = true ∧
    pageplBad 0x10 = true ∧ pageplBad 0x81FF000F = false ∧ (regs [(trbAt 0, 0)] (at_ 0 cell)).tband ≠ 2 ∧
    (at_ 0 cell).tband = 2 ∧
    hRole (pageHeader { at_ 0 cell with mem := [(memKey 0x1002, 0x40)] } (memKey (cell.reads 1).toNat)) ≠ 0 :=
  ⟨by decide, by decide, .inr (by decide), by decide, by decide, by decide, by decide, by decide +kernel,
    by decide +kernel, by decide, by decide, by decide, by decide, by decide⟩

theorem witness_ShapeRecordsAreDroppedByShpfence :
    (at_ 0 cell).cur = .thread 0 ∧ ((at_ 0 cell).thread 0).kindIn [.service, .handler, .cellar] = true ∧
    (((at_ 0 cell).thread 0).reads 1).toNat % 64 = 0 ∧ (at_ 0 cell).clear 0 4 ∧
    (((at_ 0 cell).thread 0).reads 2).toNat % 64 ≠ 0 :=
  ⟨by decide, by decide, by decide, .inr (by decide), by decide⟩

/-- A freeze of the service thread 3, and the handler thread 2 that holds a capability with every right for it. -/
def frz : Freeze := ⟨1, .service 3, 0, 0, List.replicate 8 0, 8, 0, 0, some 0, some 2, false, false, false, 0⟩
def handling (f : Freeze) : State :=
  { at_ 2 { hand with h := [(0, 0x1F00000000000001)], regs := [(1, 0x2000000000000020), (2, 0x2000000000000025)] } with
    threads := [(2, { hand with
                  h := [(0, 0x1F00000000000001)]
                  regs := [(1, 0x2000000000000020), (2, 0x2000000000000025), (3, BitVec.allOnes 64)] }),
                (3, { serv with status := .frozen, saved := .running })]
    freezes := [f] }

theorem witness_CapabilitiesInspectAndPatchAFrozenThread :
    (handling frz).cur = .thread 2 ∧ ((handling frz).thread 2).kindIn [.handler] = true ∧ frz.unit = .service 3 ∧
    (handling frz).settled frz = true ∧ ixSpace 0x2000000000000020 = 0x20 ∧ ixCol 0x2000000000000020 = 0 ∧
    ixRow 0x2000000000000020 = 0 ∧ ixItem 0x2000000000000020 = 32 ∧ 36 < ixItem 0x2000000000000025 ∧
    (handling frz).capCheck ((handling frz).thread 2) 32 56 = .ok frz ∧
    (handling frz).capCheck ((handling frz).thread 2) 32 57 = .ok frz :=
  ⟨by decide, by decide, by decide, by decide, by decide, by decide, by decide, by decide, by decide, rfl, rfl⟩

theorem witness_CapabilitiesResumeKillAndStepAFrozenThread :
    ((handling frz).part frz.part).preheld = none ∧ ((handling frz).thread 3).kind = .service ∧
    ((handling frz).thread 2).reads 3 = BitVec.allOnes 64 ∧
    (handling frz).capCheck ((handling frz).thread 2) 32 58 = .ok frz ∧
    (handling frz).capCheck ((handling frz).thread 2) 32 59 = .ok frz ∧
    (handling frz).capCheck ((handling frz).thread 2) 32 60 = .ok frz :=
  ⟨by decide, by decide, by decide, rfl, rfl, rfl⟩

theorem witness_CapabilitiesAreRefusedOrGivenUp :
    (handling { frz with spent := true }).capCheck ((handling frz).thread 2) 32 60 = .error 2 ∧
    ((handling frz).thread 2).tag 33 = false ∧ ((handling frz).thread 2).tag 32 = true ∧
    (handling frz).freezeOf ((((handling frz).thread 2).reads 32).toNat % 2 ^ 32) = some frz ∧
    ((1 : Word).toNat.testBit 56 = false) ∧ frz ∈ (handling frz).freezes ∧ frz.handler = some 2 ∧ frz.spent = false :=
  ⟨rfl, by decide, by decide, by decide, by decide, by decide, by decide, by decide⟩

/-! ### Tiles: tile 0 of region 0 executes -/

/-- Operands v1 and v2, destination v3, under k1. -/
def vOps : VArgs := ⟨false, 3, 1, 2, 1, false⟩
def ctx : FabCtx := tileAt.fabCtx 0 0 0 0

theorem witness_ElementwiseVectorResults :
    tileAt.cur = .tile 0 0 0 0 ∧ ∃ o acc lat n f, elementwise (tileAt.tile 0) ctx (.vadd vOps) = some (o, acc, lat, n, f) :=
  ⟨by decide, _, _, _, _, _, rfl⟩

theorem witness_VectorComparisonsAndMasksWriteAMask :
    (∃ o m, maskResult 16 (fun k => ((tileAt.tile 0).kreg k).toNat) ((tileAt.tile 0).maskBit 1) (fun _ => some .eq)
      (.vcmpeq vOps) = some (o, m)) ∧
    (∀ j < 16, (tileAt.tile 0).maskBit 1 j = true → Line.zero.epois 32 j = false) ∧
    ∃ j < 16, (tileAt.tile 0).maskBit 0 j = true ∧ { Line.zero with pois := 1 }.epois 32 j = true :=
  ⟨⟨_, _, rfl⟩, by decide, 0, by decide, by decide, by decide⟩

theorem witness_VectorMovesSelectAndPack :
    ∃ o lat w n f, moved (.ofCode 5) true (fun _ => true) (fun _ => 0) (fun _ => 0) (.vpack vOps) = some (o, lat, w, n, f) :=
  ⟨_, _, _, _, _, rfl⟩

theorem witness_VectorConversionsRoundEachElement :
    tileAt.cur = .tile 0 0 0 0 ∧ convIndex 16 16 0 15 = some 15 ∧ ((tileAt.tile 0).etype 0).isFlt = true ∧
    (EType.ofCode 5).isFlt = false ∧ (tileAt.tile 0).maskBit 0 15 = true := by decide

theorem witness_VectorReductionsDeliverElementZero :
    tileAt.cur = .tile 0 0 0 0 ∧ (EType.ofCode 5).isFlt = false ∧ ((tileAt.tile 0).etype 0).isFlt = true ∧
    (RedKind.max, Instr.vrmax vOps) ∈ [(RedKind.sum, Instr.vrsum vOps), (.max, .vrmax vOps), (.min, .vrmin vOps)] := by
  decide

theorem witness_BlockFormatsAndMaskedStatistics :
    tileAt.cur = .tile 0 0 0 0 ∧ accQt (EType.ofCode 2) = true ∧ (EType.ofCode 2).w = 16 ∧ Line.zero.pois = 0 ∧
    accQt (EType.ofCode 0) = true ∧ (EType.ofCode 0).w = 32 ∧ accMs (EType.ofCode 5) = true := by decide

theorem witness_VectorDeliveriesLandInRegisters :
    (tileAt.tile 0).dels = [] ∧ 11 ≤ 11 ∧ 63 < 64 := by decide
/-- Tile 0 of region 0 executes with a state of its own; tile 1 is its partner. -/
def tileWith (T : Tile) : State := { tileAt with tiles := [(0, T)] }
def east : State := { tileAt with cur := .tile 0 1 0 0 }
/-- A tile with poison in ACC0 and in the B slot and the scale chunk that the next load would write. -/
def spoilt : Tile :=
  { Tile.zero with
    vat := { VatCore.empty with accPois := [(0, 5)], bbuf := [(32, ⟨0, 1, [(0, 7)]⟩)] }
    vctl := { VatCtl.zero with sclPois := [(0, 3)] } }

theorem witness_VatHeadersStatusAndBuffers :
    (tileAt.tile 0).vat.clearPois 0 = none ∧ (spoilt.vat.clearPois 0).isSome = true ∧
    { Line.zero with pois := 1 }.bytePois 0 3 = true ∧ Line.zero.bytePois 0 3 = false := by decide

theorem witness_VatLoadsFeedsAndDrains :
    (tget Col.zero (tileAt.tile 0).vat.bbuf 32).pois = 0 ∧ (tget Col.zero spoilt.vat.bbuf 32).pois ≠ 0 ∧
    (tileAt.tile 0).vctl.chunkPois 0 = none ∧ (spoilt.vctl.chunkPois 0).isSome = true ∧
    (VFmt.ofCode 2).block = false ∧ (List.range 32).any (fun k => (VFmt.ofCode k).block) = true ∧
    (tileAt.tile 0).vctl.paired = false ∧ { VatCtl.zero with vatst := 3 }.paired = true ∧
    ((tileAt.tile 0).takeFeed ctx 15).isBubble = true ∧ (tileAt.tile 0).vat.rowPois 0 31 = none ∧
    (spoilt.vat.rowPois 0 0).isSome = true ∧ east.cur = .tile 0 1 0 0 ∧ (east.tile 0).vctl.pend = [] := by decide

/-- A tile whose POUT latch and lane 0 hold a line, with a poisoned one beside it. -/
def driven (p : BitVec 64) : Tile :=
  { Tile.zero with dels := [⟨0, .pout, ⟨5, p, 0⟩, BitVec.allOnes 64⟩] }

theorem witness_PondInstructionsReadAndWriteSlots :
    latchAt (tileAt.tile 0).dels .pout ctx.cyc = none ∧ latchAt (driven 0).dels .pout ctx.cyc = some ⟨5, 0, 0⟩ ∧
    latchAt (driven 1).dels .pout ctx.cyc = some ⟨5, 1, 0⟩ ∧ smState ((tileAt.tile 0).slot 0 0) = 0 ∧
    smState ({ Tile.zero with slots := [(0, 2)] }.slot 0 0) = 2 ∧ (tileAt.tile 0).checkSlot 31 0 true = some 0x14 ∧
    { Tile.zero with slots := [(0, 2)] }.checkSlot 0 0 true = none ∧ neighbour ctx 0 = none ∧
    (neighbour ctx 1).isSome = true ∧ peLines 0 = 1 ∧ (tileAt.tile 0).passCheck 0 0 1 = some 0x14 ∧
    { Tile.zero with slots := [(0, 2)] }.passCheck 0 0 1 = none := by decide +kernel

theorem witness_GeneratorsPortsAndRegionSignals :
    gMode (Gen.zero.img) = 0 ∧ gMode (2 ^ 98 : BitVec 128) ≠ 0 ∧ (tileAt.tile 0).inWindow 0 0 = false ∧
    gLane (0 : BitVec 128) ≠ 15 ∧ gLane (15 * 2 ^ 94 : BitVec 128) = 15 ∧
    gLegal 0 = true ∧ gLegal (BitVec.allOnes 128) = false ∧ laneAt (tileAt.tile 0).dels 0 0 0 = none ∧
    latchAt (tileAt.tile 0).dels (.port 3) ctx.cyc = none := by decide +kernel

theorem witness_LongWordsConfigureTheirTile : tileAt.cur = .tile 0 0 0 0 ∧ tileAt.tile 0 = Tile.zero := by decide

/-- A DUAL region at the last row of an iteration that is not its last, with a condition or none. -/
def choosing (q : List Bool) : Region :=
  { Region.zero with
    placed := true
    hdr := 0x200 + 2 * 2 ^ 32
    ended := false
    condq := q
    kind := .normal }
/-- A partition of one region in a stage. -/
def framed (R : Region) (P : Part) : State :=
  { State.reset with
    agenda := []
    regions := [(0, { R with placed := true })]
    parts := [(0, { P with graph := some ⟨0, 0, 0, 1, 0, 0, 0, 5, 0, 1, [0], none, [1]⟩ })] }

theorem witness_FramesRunFromStartToRetirement :
    (choosing [true]).needsCond = true ∧ (choosing []).needsCond = true ∧ Region.zero.needsCond = false ∧
    (framed { Region.zero with endAt := some 0 } Part.zero).rateCheck 0 = none ∧
    ((({ framed Region.zero Part.zero with
      tiles := [(0, { Tile.zero with slots := [(0, 1)], ponds := [(0, { Pond.zero with entry := 1 + 2 ^ 41 })] })] }).rateCheck 0
        ).isSome = true) ∧
    ((framed { Region.zero with done := true } { Part.zero with stage := .compute }).graphRegions 0).all (fun r =>
      ((framed { Region.zero with done := true } Part.zero).region r).done) = true ∧
    (framed Region.zero { Part.zero with stage := .comm }).graphRegions 0 = [0] ∧
    (framed Region.zero { Part.zero with stage := .boundary }).anyFrozen 0 = false ∧
    (framed { Region.zero with frozen := true } Part.zero).anyFrozen 0 = true ∧
    0 < Config.tenMs := by decide +kernel

/-- Channel 0 runs a timeline of partition 0, whose shape record at 0x4000 stands in the record cache; range entry 3 is
locked over addresses 0 to 0xFFFF, at HBM address 0. -/
def walking (e : BitVec 128) (P : Part → Part) (R : Region) : State :=
  regs [(rangeAt 0 3 0, 7), (rangeAt 0 3 2, 0x10000), (Config.mat 0, 0x18000)]
    { framed R (P { Part.zero with locked := [(3, 0, 0, 1)], stage := .compute }) with
      chans := [(0, { Chan.zero with steps := [e], records := [0], open_ := [(0, 1)] })]
      twes := [(0, { Twe.zero with recs := [(0x4000, natBytes (2 ^ 128 + 64 * 2 ^ 160) 64 ++ natBytes 1 128)] })]
      tiles := [(0, { Tile.zero with ponds := [(0, { Pond.zero with entry := if teDrain e then 0x120000000001 else 0x100000000001 })] })] }

/-- The step of a fill: piece 0 of the record at 0x4000. -/
def fillStep : BitVec 128 := 0x4000
def drainStep : BitVec 128 := 0x4000 + 2 ^ 83

theorem witness_TimelineCommandsActOnTheirChannel :
    teDrain fillStep = false ∧ teDrain drainStep = true ∧ teLast fillStep = false ∧
    ((walking fillStep id Region.zero).useRecord 0 0 0x4000 false).2.isSome = true ∧
    ((walking drainStep id Region.zero).useRecord 0 0 0x4000 true).2.isSome = true ∧
    ((framed Region.zero Part.zero).useRecord 0 0 0x4000 false).2 = none ∧
    (walking fillStep id Region.zero).lockedPa 0 [0] 0 = some ⟨0, some 0, true, true, (0, 3)⟩ ∧ targetOf 0 = .hbm 0 ∧ otherPkg 0 = none ∧
  
    (walking fillStep id Region.zero).voteLine 0 = (walking fillStep id Region.zero, true) ∧
    (walking fillStep id Region.zero).tagOk 0 = true ∧ (walking fillStep id Region.zero).lineErr 0 = 0 ∧
    ((walking fillStep id Region.zero).asmTile 0 0x4000).last = none ∧
    (walking fillStep id Region.zero).oldestHeld 0 = none := by decide +kernel

/-- The timing rules of JEDEC are a constant of the model: where they allow the command, the read has no cause. -/
theorem witness_TimelineCommands_jedec (h : (walking fillStep id Region.zero).jedecBad 0 = false) :
    (walking fillStep id Region.zero).readCause 0 0 0 (some ([(0, 64)], true)) = none := by
  unfold State.readCause
  rw [h]
  rfl

/-- Partition 0 at a yield point of its one region, with a request. -/
def atYield (req : Option Nat) : State :=
  framed { Region.zero with hdr := 0x200000 }
    { Part.zero with
      stage := .boundary
      frame := 1
      req := req
      drainAt := some 0
      thermal := true }
/-- A victim of 10 tokens with a remaining time, at a yield point with a waiting EVAL (the table of R325). -/
def victim (trem newtok : Nat) : State :=
  { State.reset with
    regions := [(0, { Region.zero with placed := true, hdr := 0x200000 })]
    parts := [(0, { Part.zero with
      graph := some ⟨0, 0, 0, 1, 0, 0, 10, 5, 0, 1, [0], none, [1]⟩
      stage := .boundary
      frame := 1
      trem := trem
      req := some 1
      newtok := newtok })] }
/-- The rows of R325's table: a drain at 22,000 cycles, a kill at four times the tokens, else a checkpoint, which becomes
a kill where SVALID is 0. -/
theorem test_eval_choices :
    (((victim 22000 30).preemptKill 0).part 0).choice = 1 ∧ (((victim 22000 30).preemptKill 0).part 0).drainAt = some 22000 ∧
    (((victim 50000 39).preemptKill 0).part 0).req = some 3 ∧
    (((victim 50000 39).preemptKill 0).part 0).choice = 3 ∧
    (((victim 50000 40).preemptKill 0).part 0).choice = 2 ∧ (((victim 50000 40).preemptKill 0).part 0).graph = none ∧
    ((((victim 50000 39).preemptKill 0).checkpoint 0).part 0).choice = 2 := by decide +kernel
/-- Partition 0 holds a swapped graph and none that runs. -/
def swappedOut : State :=
  { State.reset with parts := [(0, { Part.zero with
      swapGraph := some ⟨0, 0, 0, 1, 0, 0, 0, 5, 0, 1, [0], none, [1]⟩
      restorePend := true })] }

theorem witness_RequestsOfAPartitionActAtYieldPoints :
    (State.reset.part 0).graph = none ∧ ((atYield none).part 0).graph.isSome = true ∧ (atYield none).anyFrozen 0 = false ∧
    (framed { Region.zero with frozen := true } Part.zero).anyFrozen 0 = true ∧
    (swappedOut.part 0).swapGraph.isSome = true ∧ (swappedOut.part 0).restorePend = true ∧ swappedOut.restoreFree 0 = true ∧
    (State.reset.part 0).swapGraph = none ∧ (State.reset.part 0).drainAt = none ∧ ((atYield none).part 0).drainAt = some 0 ∧
    (atYield (some 2)).yieldPoint 0 = true ∧ ((atYield (some 2)).part 0).req = some 2 ∧
    (victim 50000 40).yieldPoint 0 = true ∧ ((victim 50000 40).part 0).req = some 1 ∧
    (atYield (some 3)).yieldPoint 0 = true ∧ (atYield (some 3)).checkpointOk 0 = false ∧
    (regs [(prbAt 0 0x1020, 1)] (atYield (some 3))).checkpointOk 0 = true ∧ ((atYield none).part 0).thermal = true ∧
    State.reset.yieldPoint 0 = false ∧ (((atYield none).killAll 0).part 0).graph.isSome = true := by decide +kernel

/-- A run-off window 0 of partition 0 at 0x10000: VALID, two blocks, a mask at 0x20000, open or not. -/
def window (st : Word) : State := regs [(windowAt 0 0 0, 0x10001), (windowAt 0 0 1, 1), (windowAt 0 0 2, 0x20000), (windowAt 0 0 3, st)] State.reset

theorem witness_StoresToRegistersHaveTheirOwnEffect :
    (window 0).wnValid 0 0 = true ∧ (window 0).wnOpen 0 0 = false ∧ (window 4).wnOpen 0 0 = true ∧
    overlaps ((window 4).wnBase 0 0) (512 * (window 4).wnBlocks 0 0) ((window 4).wnMask 0 0)
      (8 * maskWords ((window 4).wnBlocks 0 0)) = false ∧
    ({ window 4 with windows := [(0, ⟨[], some 7, true⟩)] }.runWin 0 0).deadline = some 7 ∧
    ({ State.reset with chains := [(5, { Chain.zero with halted := true, entries := [⟨0x1000, 1, 2⟩] })] }.chain 5).halted = true ∧
    State.reset.goOk 383 = false ∧ (regs [(hcbAt 383 0, 8), (trbAt 0, 4)] State.reset).goOk 383 = true ∧
    lrepBad 0x0101 = true ∧ lrepBad 0 = false ∧ State.reset.rValid 0 63 = false ∧
    (regs [(rangeAt 0 63 0, 0x41)] State.reset).rValid 0 63 = true ∧
    (regs [(rangeAt 0 63 0, 0x41)] State.reset).rShst 0 63 ≠ 0 ∧
    (regs [(imageAt 1023 0, 0x10002)] State.reset).wf (imageAt 1023 0) 1 1 = 1 ∧
    (regs [(brbQueueAt 63 1, 1)] State.reset).wf (brbQueueAt 63 1) 0 32 = 1 ∧
    (at_ 2 serv).rowCause (crbAt 8) = some 0x03 ∧ (at_ 0 cell).rowCause (crbAt 8) = none ∧
    (State.reset.regStore 0 (crbAt 8) 1).isSome = true := by decide +kernel

/-- A read test of channel 383 has run out, with no deferred store. -/
theorem witness_StoresToRegisters_test :
    (regs [(hcbAt 383 0xD8, 1)] { State.reset with chans := [(383, { Chan.zero with test := 1 })] }).wf (hcbAt 383 0xD8) 0 1 = 1
    := by decide +kernel

/-- Cellar-A runs under a watchdog that has run out, or has frozen. -/
def dogged : State := { at_ 0 cell with watchdog := [(0, 1)], now := 5 }
def fallen : State :=
  { regs [(crbAt 0, 2)] (at_ 0 { cell with status := .frozen }) with
    freezes := [{ frz with unit := .cellar 0 }] }

theorem witness_BootSecurityAndThermalControl :
    trising State.reset.tiles = true ∧ State.reset.firmwareOk State.reset.flash = false ∧
    State.reset.recoveryWait = false ∧ { State.reset with recoveryWait := true }.firmwareOk
      ({ State.reset with recoveryWait := true }.recovery.take 5) = false ∧
    State.reset.xmssIndex < 2 ^ 20 ∧ 2 ^ 20 ≤ { State.reset with xmssIndex := 2 ^ 20 }.xmssIndex ∧
    State.reset.powered = true ∧ { State.reset with powered := false }.powered = false ∧
    (regs [(trbAt 0, 12)] State.reset).tstate = 3 ∧ tget 0 dogged.watchdog 0 = 1 ∧ 1 ≤ dogged.now ∧
    (dogged.thread 0).status = .running ∧ (dogged.thread 0).stepBy = none ∧
    (regs [(crbAt 0, 8)] State.reset).wf (crbAt 0) 3 1 = 1 ∧ State.reset.wf (crbAt 0) 3 1 = 0 ∧
    { State.reset with threads := [(1, { cell with status := .frozen })] }.isFrozen 1 = true ∧
    fallen.wf (crbAt 0) 0 4 = 2 ∧ fallen.isFrozen 1 = false ∧ fallen.isFrozen 0 = true ∧ fallen.writes = [] ∧
    fallen.freezes.find? (fun (f : Freeze) => decide (f.unit = .cellar 0) && !f.spent) = some { frz with unit := .cellar 0 } := by
  decide +kernel

/-- A settled machine in the state that settling ends. -/
theorem witness_BootSecurity_settled : (regs [(trbAt 0, BitVec.ofNat 64 (4 * tsCOLD_SETTLE))] { State.reset with settle := settleSamples }).tstate =
    tsCOLD_SETTLE ∧ settleSamples ≤ { State.reset with settle := settleSamples }.settle := by decide +kernel

/-- A header that passes every check but the signature, which the constant xmssVerify answers. -/
theorem witness_BootSecurity_firmware (bs : List Byte) (h : ∀ a b c, Config.xmssVerify a b c = true)
    (hn : imgNum bs 8 8 = 0) (h6 : imgNum bs 6 2 = 0)
    (h12 : imgNum bs 0xB14 12 = 0) (h0 : imgNum bs 0 4 = fwMagic) (h4 : imgNum bs 4 2 = 1) (hl : fwHead ≤ bs.length) :
    State.reset.firmwareOk bs = true := by
  have : State.reset.fuseVersion = 0 := rfl
  simp [State.firmwareOk, hn, h6, h12, h0, h4, hl, h, this]

/-- A latched record of a service thread of partition 0, and the same with an entry in die 0. -/
def latch : Freeze := { frz with entry := none, handler := none }
def queued : Freeze := { frz with serial := 2, entry := some 0, handler := none }
/-- An image whose control sections are a default handler and entry 0. -/
def decl : ImageDecl where
  file := natBytes (2 * 2 ^ 48 + 64 * 2 ^ 64) 64 ++ natBytes (3 + 128 * 2 ^ 64 + 10 * 2 ^ 128) 32 ++
    natBytes (3 + 138 * 2 ^ 64 + 10 * 2 ^ 128 + 256 * 2 ^ 192) 32 ++ List.replicate 20 0
  graph := ⟨0, 0, [], [], []⟩
  others := []
/-- Partition 0 runs a graph of image 0, which is loaded. -/
def served (fs : List Freeze) : State :=
  { framed Region.zero Part.zero with freezes := fs, images := [((framed Region.zero Part.zero).imagePa 0, decl)], now := 9 }
/-- A released task with a service thread, for version 0 of image 0. -/
def task (started : Bool) : Task :=
  { id := 4
    queue := 0
    rec_ := [0, 0, 0, 0, 2]
    refused := false
    ready := true
    waits := []
    started := started
    ended := none
    released := false
    cold := false
    gens := [] }
def tasking (b : Bool) : State := { served [] with tasks := [task b] }
/-- The pool of partition 0 holds its cap. -/
def full (fs : List Freeze) : State := regs [(prbAt 0 0x1040, 0x10000)] (served fs)

theorem witness_FaultQueueRepairsAndImages :
    State.reset.freezeOf 1 = none ∧ (served [latch]).freezeOf 1 = some latch ∧ latch.latched = true ∧
    queued.latched = false ∧ latch.level2 = none ∧ (served [latch]).grantPlace latch = some (0, 0) ∧
    { latch with unit := .handler 30, nest := 2 }.level2 = some 30 ∧
    (served [latch, { latch with serial := 3, unit := .partition 0 }]).grantPlace latch = none ∧
    (full [latch, queued]).refusedFull latch = true ∧ (full [latch, queued]).fullFrozen 0 = false ∧
    (served [latch]).refusedFull latch = false ∧ latch.spent = false ∧ latch.reported = false ∧ latch.unit.isRemote = false ∧
    ({ served [latch] with now := Config.tenMs }).freezeOf 1 = some latch ∧ latch.at_ + Config.tenMs ≤ Config.tenMs ∧
    State.reset.nextRecord 0 = none ∧ (served [queued]).nextRecord 0 = some queued ∧
    (served [queued]).handlerCode queued = some [0] ∧ { served [queued] with images := [] }.handlerCode queued = none ∧
    (served [queued]).freeCtx (diesFrom 0) queued.ctxs = some 2 ∧ queued.entry = some 0 ∧
    (task false).service = true ∧ (tasking false).staged (task false) = true ∧
    ((tasking true).tasks.find? (fun t => decide (t.id = 4))) = some (task true) ∧
    (((tasking false).imageDecl ((tasking false).imageKey (task false).image (task false).ver)).bind fun d =>
      ctlSection d ((task false).f 0x20 2)) = some [0] ∧
    (tasking false).freeCtx (List.range 4) (List.range 28) = some 2 ∧
    0 ∈ (framed Region.zero Part.zero).graphRegions ((framed Region.zero Part.zero).region 0).part ∧
    (7 ∉ (framed Region.zero Part.zero).graphRegions ((framed Region.zero Part.zero).region 7).part) ∧
    ({ State.reset with regions := [(2047, { Region.zero with placed := true })] }.region 2047).placed = true := by
  decide +kernel

/-- An image that is no Izyan image is refused. -/
theorem witness_FaultQueue_refused : ∃ f fs, refusal decl Config.pkgId.toNat = f :: fs := ⟨_, _, rfl⟩

/-- The table of an image with one section, a GRAPH of eight bytes, and the image: its MEAS is their digest. -/
def okTable : List Byte := natBytes (1 + 96 * 2 ^ 64 + 8 * 2 ^ 128) 32 ++ List.replicate 8 7
def okDecl : ImageDecl where
  file := natBytes (0x4E595A49 + 2 ^ 32 + 2 ^ 48 + 64 * 2 ^ 64) 16 ++ natBytes (Config.shake256 okTable).toNat 32 ++
    natBytes 0 16 ++ okTable
  graph := ⟨64, 16, [], [], [[]]⟩
  others := []

theorem okDecl_meas : okDecl.meas = Config.shake256 okDecl.measured := by
  have h : okDecl.measured = okTable := rfl
  have m : sliceOf okDecl.file 0x10 32 = natBytes (Config.shake256 okTable).toNat 32 := rfl
  rw [h, ImageFile.meas, pgNum, m, bytesNat_natBytes, Nat.mod_eq_of_lt (by simpa using (Config.shake256 okTable).isLt)]
  simp

/-- An image whose MEAS is the digest of its table and its section, and that has no actor, is accepted. -/
theorem witness_FaultQueue_accepted : refusal okDecl Config.pkgId.toNat = [] := by
  have h : badImage okDecl = [] := by
    unfold badImage
    rw [show badSections okDecl = [] from rfl, okDecl_meas,
      decide_eq_false (p := Config.shake256 okDecl.measured ≠ Config.shake256 okDecl.measured) (by simp)]
    decide +kernel
  unfold refusal
  rw [h]
  decide +kernel

/-- Chain 0 holds one entry that a cellar thread linked, at 0x2000: a fill of 64 bytes, or an entry of zeros. -/
def chained (C : Chain) (zero : Bool) : State :=
  { State.reset with
    chains := [(0, { C with entries := [⟨0x2000, 1, 0⟩] })]
    mem := if zero then [] else [(0x2018, 64), (0x201C, 1), (0x2030, 1)] }
/-- The same where every unit of partition 0 may read and write the channel of the entry. -/
def righted (zero : Bool) : State := regs [(Config.mat (chanOf 0x2000), BitVec.allOnes 64)] (chained Chain.zero zero)
def copied (zero : Bool) : CopyEntry := .ofBytes (((chained Chain.zero zero).hbmServe 0x2000).1.bytes (memKey 0x2000) 64)

theorem witness_CopyEnginesAndLinksMoveLines :
    ((chained Chain.zero true).chain 0).entries = [⟨0x2000, 1, 0⟩] ∧ (chained Chain.zero true).engineBusy 0 = false ∧
    (righted true).entryRight 0 ⟨0x2000, 1, 0⟩ false = true ∧ (righted true).entryRight 0 ⟨0x2000, 1, 0⟩ true = true ∧
    ((righted true).countEntry 0 ⟨0x2000, 1, 0⟩ 0x2000).serveLine 0x2000 = (righted true, true) ∧
    ((righted false).countEntry 0 ⟨0x2000, 1, 0⟩ 0x2000).serveLine 0x2000 = (righted false, true) ∧
    (State.reset.chain 255).entries = [] ∧ (chained Chain.zero true).entryPa 0 ⟨0x2000, 1, 0⟩ = some 0x2000 ∧
    otherPkg 0x2000 = none ∧ targetOf 0x2000 = .hbm 0x2000 ∧ (chained Chain.zero true).homeServes 0x2000 = true ∧
    (copied true).bad = true ∧ (copied false).bad = false ∧
    ((copied false).lines fun va => ((righted false).copyTarget 0 va).unit).all (fun l =>
      !copyMisfit ((righted false).copyTarget 0 l.2.1) (copied false)) = true ∧
    (righted false).copyConflict 0 ((copied false).lines fun va => ((righted false).copyTarget 0 va).unit) = false ∧
    (righted false).copyReady 0 (copied false) ((copied false).lines fun va => ((righted false).copyTarget 0 va).unit) = true ∧
    ((chained { Chain.zero with busy := true } false).chain 0).busy = true ∧ (chained Chain.zero false).writes = [] ∧
    ((chained { Chain.zero with ending := some stRANGE } false).chain 0).ending = some stRANGE ∧
    (chained Chain.zero false).entryReady 0 ⟨0x2000, 1, 0⟩ = true ∧
    (regs [(hcbAt (chanOf 0x2000) 0xD8, 1)] (chained Chain.zero false)).entryReady 0 ⟨0x2000, 1, 0⟩ = false ∧
    (chained { Chain.zero with busy := true } false |>.writeStatus 0 ⟨0x2000, 1, 0⟩ 1).2 = false ∧
    ((regs [(Config.mat (chanOf 0x2000), BitVec.allOnes 64)] (chained { Chain.zero with busy := true } false)).writeStatus 0
      ⟨0x2000, 1, 0⟩ 1).2 = true ∧
    (righted false).entryPlace 0 ⟨0x2000, 1, 0⟩ = (righted false, some 0x2000) ∧
    [wr].find? (fun w => decide (w.id = 7)) = some wr ∧ ([wr].find? fun w => decide (w.id = 8)) = none := by decide +kernel

theorem witness_CopyEngines_arrivals :
    State.reset.windowOf 0x10000 = none ∧ (window 4).windowOf 0x10000 = some (0, 0, 0) ∧ (window 4).wnOpen 0 0 = true ∧
    (window 0).wnOpen 0 0 = false ∧ ((window 4).wake.gateway 0 0 8 false).2 = .admitted ∧
    ((window 4).wake.gateway 0 9 8 false).2 = .denied ∧
    ((regs [(prbAt 0 0x1068, 1)] State.reset).wake.gateway 0 0 8 false).2 = .held ∧
    (regs [(Config.mat (chanOf 0x10000), BitVec.allOnes 64)] State.reset).remoteRight 0 0x10000 1 = true ∧
    (window 4).wf (windowAt 0 0 3) 32 17 + 1 < (window 4).wnBlocks 0 0 ∧ 0 ∉ ((window 4).runWin 0 0).filled ∧
    0 ∈ ({ window 4 with windows := [(0, ⟨[0], none, true⟩)] }.runWin 0 0).filled ∧
    (State.reset.wake.placeRecord 63 5 0 (some 0) false (natBytes 0 56)).2 = .denied ∧
    ((regs [(brbQueueAt 63 0, 1)] State.reset).wake.placeRecord 63 5 0 (some 0) false (natBytes 0 56)).2 = .placed ∧
    ((regs [(brbQueueAt 63 0, 1), (brbQueueAt 63 1, 1)] State.reset).wake.placeRecord 63 5 0 (some 0) false (natBytes 0 56)).2 = .retry ∧
    ((regs [(prbAt 0 0x1068, 1), (brbQueueAt 63 0, 1)] State.reset).wake.placeRecord 63 5 0 (some 0) false (natBytes 0 56)).2 = .held
    := by decide +kernel

/-- An arc of this package's own: from actor 1 to pond 3 of actor 0, which region 0 runs. -/
def arc : ArcDecl := ⟨Config.pkgId.toNat, 1, 0, Config.pkgId.toNat, 0, 3, 1⟩
def arced (bad : List Nat) (R : Region) : State :=
  { framed R { Part.zero with graph := none } with
    parts := [(0, { Part.zero with graph := some ⟨0, 0, 0, 1, 0, 0, 0, 5, 0, 1, [0], some ⟨0, 0, [], [arc], []⟩, [1]⟩ })]
    arcBad := bad }
/-- A route of path 3 to arc 7. -/
def arcRoute : Route := ⟨3 * 2 + 7 * 2 ^ 74, 0, 0, true, 0, 0, 0, 0, 0, 0⟩
/-- Port 23 up with lane 7, which has had eight errors. -/
def failing : State :=
  { regs [(brbPortAt 23 0, 0x1FF)] State.reset with ports := [(23, { Port.zero with errs := [(7, List.replicate 8 0)] })] }

theorem witness_CopyEngines_arcs :
    (arced [] Region.zero).findArc 0 0 true = some arc ∧ (arced [] Region.zero).regionOfActor 0 arc.cons = some 0 ∧
    State.reset.findArc 0 0 true = none ∧ State.reset.arcRoute 0 7 = none ∧
    (arced [] { Region.zero with routes := [arcRoute] }).arcRoute 0 7 = some (0, arcRoute) ∧
    failing.wf (brbPortAt 23 0) 0 1 = 1 ∧ failing.wf (brbPortAt 23 0) 9 1 = 0 ∧ failing.laneIn 23 7 = true ∧
    failing.laneBad 23 7 = true ∧ failing.laneBad 23 6 = false ∧
    (tget Port.zero { failing with ports := [(23, { Port.zero with repair := some (7, 0) })] }.ports 23).repair = some (7, 0) := by
  refine ⟨?_, by decide +kernel⟩
  simp [State.findArc, arced, framed, arc, State.part, tget]

/-- The request queue 0 of this package, by its remote address, and a line of another package. -/
def ownQueue : Nat := 2 ^ 51 + 2 ^ 41 * Config.pkgId.toNat + Config.hbmBytes
def foreign : Nat := 2 ^ 51 + 2 ^ 41 * ((Config.pkgId.toNat + 1) % 1024)

theorem target_remote (n : Nat) (h : 2 ^ 51 ≤ n) (h2 : n < 2 ^ 52) : targetOf n = remoteTarget (n % 2 ^ 41) := by
  have n1 : ¬ n < Config.hbmBytes := by unfold Config.hbmBytes; omega
  have n2 : inWin n = false := by
    have : ¬ n < Config.winHi := by unfold Config.winHi; omega
    simp [inWin, this]
  rw [targetOf, if_neg n1, n2, if_neg Bool.false_ne_true, if_pos ⟨h, h2⟩]
theorem own_lo : 2 ^ 51 ≤ ownQueue := by unfold ownQueue; omega
theorem pkg_lt : Config.pkgId.toNat < 1024 := Config.pkgId.isLt
theorem own_hi : ownQueue < 2 ^ 52 := by
  have := pkg_lt
  rw [ownQueue, Config.hbmBytes]
  generalize Config.pkgId.toNat = p at *
  omega
theorem own_mod : ownQueue % 2 ^ 41 = 0xC000000000 := by
  rw [ownQueue, Config.hbmBytes]
  omega
theorem own_pkg : ownQueue / 2 ^ 41 % 1024 = Config.pkgId.toNat := by
  have := pkg_lt
  rw [ownQueue, Config.hbmBytes]
  generalize Config.pkgId.toNat = p at *
  omega
theorem foreign_lo : 2 ^ 51 ≤ foreign := by unfold foreign; omega
theorem foreign_hi : foreign < 2 ^ 52 := by
  unfold foreign
  generalize Config.pkgId.toNat = p
  omega
theorem foreign_pkg : foreign / 2 ^ 41 % 1024 ≠ Config.pkgId.toNat := by
  have := pkg_lt
  unfold foreign
  generalize Config.pkgId.toNat = p at *
  omega
theorem own_target : targetOf ownQueue = .request 0 := by
  rw [target_remote ownQueue own_lo own_hi, own_mod]
  decide
theorem witness_CopyEngines_requests :
    otherPkg ownQueue = none ∧ targetOf ownQueue = .request 0 ∧ (otherPkg foreign).isSome = true := by
  refine ⟨?_, own_target, ?_⟩
  · rw [otherPkg, if_neg fun h => h.2.2 own_pkg]
  · rw [otherPkg, if_pos ⟨foreign_lo, foreign_hi, foreign_pkg⟩]
    exact Option.isSome_some

theorem witness_DivisionsWriteTheirResultOrFreeze :
    (at_ 0 cell).cur = .thread 0 ∧ ((at_ 0 cell).thread 0).reads 2 ≠ 0 ∧ ((at_ 0 cell).thread 0).reads 0 = 0 ∧
    ((at_ 0 { cell with regs := [(1, BitVec.intMin 64), (2, BitVec.allOnes 64)] }).thread 0).reads 1 = BitVec.intMin 64 ∧
    ((at_ 0 { cell with regs := [(1, BitVec.intMin 64), (2, BitVec.allOnes 64)] }).thread 0).reads 2 = BitVec.allOnes 64 := by
  decide

theorem witness_RngcWritesTheGeneratorsDraw : (at_ 2 serv).cur = .thread 2 := rfl

/-- A thread that stands at a word, and a region whose row 0 holds a word. -/
def atWord (w : W80) : State := { at_ 0 { cell with code := [(0, w)], codeLen := 1 } with agenda := [.thread 0] }
def rowWord (w : W80) : State :=
  { State.reset with agenda := [.slot 0 0 0 0 0], regions := [(0, { Region.zero with rows := [(rowKey 0 0 0, w)] })] }

theorem witness_AStepRunsTheDecodedInstruction :
    (atWord 0x9010C300000000200000).agenda = [.thread 0] ∧ ((atWord 0x9010C300000000200000).thread 0).loads = [] ∧
    ((atWord 0x9010C300000000200000).thread 0).stepBy = none ∧ ((atWord 0x9010C300000000200000).thread 0).regUe = [] ∧
    (atWord 0x9010C300000000200000).mayIssue ((atWord 0x9010C300000000200000).thread 0) = true ∧
    ((atWord 0x9010C300000000200000).thread 0).nextAt ≤ (atWord 0x9010C300000000200000).now ∧
    ((atWord 0x9010C300000000200000).thread 0).codeUe = [] ∧ usesH 0x9010C300000000200000 = false ∧
    controlInstr 0x9010C300000000200000 = some (.addi 3 3 8) ∧ controlInstr 1 = none ∧
    ((atWord 0x9010C300000000200000).thread 0).canStart 0 (.addi 3 3 8) = true ∧
    ((rowWord 0x100880000822C2023000).region 0).frozen = false ∧ ((rowWord 0x100880000822C2023000).region 0).rowUe = [] ∧
    decode (tget 0 ((rowWord 0x100880000822C2023000).region 0).rows (rowKey 0 0 0)).toNat =
      .ok (.ft false 0 (some (.mxfeed 1 0 false 0)) (some (.vfma ⟨false, 2, 2, 12, 1, false⟩)) (some (.prd 3 0))) ∧
    slotInstr (.ft false 0 (some (.mxfeed 1 0 false 0)) none none) (fun k inv => (Tile.zero).guard k.toNat inv) 1 = none := by
  refine ⟨rfl, rfl, rfl, rfl, by decide, by decide, rfl, by decide, by decide +kernel, by decide +kernel, by decide, rfl, rfl, by rfl, rfl⟩

theorem witness_DecodeAndEncodeAgree :
    Legal (.ft false 0 none (some (.vadd vOps)) none) ∧ hasWord (.addi 3 3 8) = true ∧ wellFormed (.addi 3 3 8) = true ∧
    decode 0 = .ok .nul := by
  refine ⟨⟨by simp, ?_, by simp⟩, by decide, by decide, by rfl⟩
  intro i h
  cases h
  exact ⟨by decide, by decide⟩

/-- The memory after reset is canonical, and the step from reset answers a next state. -/
theorem witness_EveryStepKeepsMemoryCanonical : State.reset.memOk ∧ ∃ t, step State.reset = .next t :=
  ⟨rfl, _, rfl⟩
theorem witness_NoStepTakesAFuseOrAKeyIndexBack : State.reset.memOk ∧ ∃ t, step State.reset = .next t :=
  ⟨rfl, _, rfl⟩

/-! ## More witnesses: clauses of the statements above that no witness above reaches -/

/-- Stack 0 degraded: the DEGR bit of the channel that serves HBM address a. -/
def degradedAt (a : Nat) (s : State) : State := regs [(hcbAt (chanOf a) 0, 0x10)] s
/-- A service thread with range entry 3 over its address, for whose SNAP thread 5 waits. -/
def snapping : State :=
  { regs [(rangeAt 0 3 0, 0x11), (rangeAt 0 3 1, 0), (rangeAt 0 3 2, 0x10000)] (at_ 2 serv) with
    snaps := [(5, 0, 3)]
    threads := [(2, serv), (5, { serv with held := true })] }
theorem witness_loads_and_stores :
    { ldl with atomic := true, val := some 5 }.val = some 5 ∧ targetOf (crbAt 8) = .window ∧
    snapping.snapHolds (snapping.thread 2) 0x1000 = true ∧ (at_ 2 serv).snapHolds ((at_ 2 serv).thread 2) 0x1000 = false ∧
    (at_ 0 cell).snapHolds ((at_ 0 cell).thread 0) 0x1000 = false ∧
    ((degradedAt 0x1000 State.reset).voteLine 0x1000).2 = false ∧ wr.deny = 0 := by decide +kernel

theorem witness_ControlRegisters_each :
    2 ≤ ((at_ 2 hand).thread 2).priv ∧
    ((at_ 2 serv).thread 2).priv < 2 ∧ (0x2B : BitVec 12).toNat = 0x20 + 11 ∧ (0x35 : BitVec 12).toNat = 0x30 + 5 ∧
    (0x36 : BitVec 12) ∉ ([0, 1, 2, 3, 4, 8, 9, 0xA, 0x10, 0x11, 0x12] : List (BitVec 12)) ∧
    ¬(0x20 ≤ (0x36 : BitVec 12).toNat ∧ (0x36 : BitVec 12).toNat ≤ 0x2B) ∧
    ¬(0x30 ≤ (0x36 : BitVec 12).toNat ∧ (0x36 : BitVec 12).toNat ≤ 0x35) := by decide

/-- Counter 1 is signalled by thread 0 and waited for by thread 5. -/
def counting : State :=
  { ready with
    threads := [(0, cell), (5, { serv with status := .waiting (.tlwt 3 1 4 none) })]
    writes := [{ wr with kind := .tlsig 1 true, data := natBytes 1 8 }] }
theorem witness_Counters_released :
    counting.writes.find? (fun v => decide (v.id = 7)) = some { wr with kind := .tlsig 1 true, data := natBytes 1 8 } ∧
    counting.mayPerform { wr with kind := .tlsig 1 true, data := natBytes 1 8 } = true ∧ counting.signalling 0 1 = true ∧
    (counting.thread 5).status = .waiting (.tlwt 3 1 4 none) ∧ reached ((counting.counter 1) + 1) 4 = true ∧
    (counting.dropWrite 7).signalling 5 1 = false := by decide

theorem witness_Publication_each :
    (shadowed 2).rShst 0 3 ≠ 0 ∧ 2 ≤ (shadowed 2).rShst 0 3 ∧ (at_ 2 serv).rShd 0 3 = false ∧
    (regs [(rangeAt 0 3 0, 0x111)] (at_ 2 serv)).rSink 0 3 = true ∧
    { shadowed 0 with writes := [{ wr with pa := 0 }] }.entryWrites 0 3 = false ∧
    { regs [(rangeAt 0 3 2, 0x10000)] (shadowed 0) with writes := [wr] }.entryWrites 0 3 = true ∧
    { regs [(rangeAt 0 3 2, 0x10000)] (shadowed 2) with
      writes := [{ wr with kind := .copy 0 0x1000 }] }.snapReads 0 3 = true ∧
    (shadowed 0).rShst 0 3 ≠ 2 ∧ (0, 3) ∉ (shadowed 0).folds := by decide

theorem witness_Vector_types :
    accPack (EType.ofCode 4) = false ∧ accUnpk (EType.ofCode 0) = false ∧ accQt (EType.ofCode 5) = false ∧
    accMs (EType.ofCode 11) = false ∧ (EType.ofCode 2).w ≠ 32 ∧ 11 % 2 = 1 := by decide

/-- A paired tile whose west partner fed two cycles ago, and a bubble. -/
def westFed : VatCtl := { VatCtl.zero with pend := [(0, .feed 1 false 0 [1] ⟨Col.zero, 15, 0, [], [], 1, 1⟩ false 0 VatCore.empty VatCore.empty)] }
theorem witness_Vat_pairs :
    { VatCtl.zero with vatst := 6 }.paired = true ∧ { VatCtl.zero with vatst := 6 }.peast = true ∧
    { VatCtl.zero with vatst := 2 }.peast = false ∧
    (westFed.westFeed 1).isSome = true ∧ VatCtl.zero.westFeed 1 = none ∧ spoilt.firstPois 0 = some 5 ∧
    (tileAt.tile 0).firstPois 0 = none ∧ accFormat (hFmt 0x3E02) (hFmt 0x3E02) 0 false = some 1 := by decide +kernel

theorem witness_Ponds_staged :
    (tileAt.tile 0).mayStage (slotKey 0 0 0) = true ∧ { Tile.zero with slots := [(0, 1)] }.mayStage 0 = false ∧
    smState ({ Tile.zero with slots := [(0, 1)] }.slot 0 0) ≠ 0 := by decide +kernel

/-- A channel in its retreat timeline that has missed its refresh count. -/
def retreating : Chan := { Chan.zero with retreat := true, refMiss := true }
theorem witness_Timeline_each :
    retreating.retreat = true ∧ retreating.refMiss = true ∧ Chan.zero.refMiss = false ∧ Chan.zero.shortOfRefs 0 = false ∧
    (walking fillStep id Region.zero).lockedParts 0 [0] 0 = some ([(0, 64)], true) ∧
    (walking drainStep id Region.zero).drainParts 0 0 0 = some ([(3, 0, 64)], true) ∧
    (walking drainStep id Region.zero).voteLine 0 = (walking drainStep id Region.zero, true) ∧
    (State.reset.partsErr [(0, 64)] ≤ 1) ∧
    ({ State.reset with chans := [(0, { Chan.zero with held := [⟨0, 0, 0, [(0, 64)], natBytes 5 64, 1⟩] })] }.oldestHeld 0).isSome = true := by
  decide +kernel

/-- The key of slot 0, which every route entry names after reset, and a state that holds it. -/
def key5 : BitVec 768 := 7
def keyed (s : State) : State := { s with keys := [(0, ⟨some key5, none, 0⟩)] }
/-- A line of package 5 for this package, at port 0, with sequence number 3; its tag is that of key5. -/
def line5 (a len : Nat) (arc : Option (Nat × Nat)) : LineIn :=
  { src := 5, part := 0, owner := 0, port := 0, vc := 1, dst := Config.pkgId.toNat, seq := 3, addr := a, len := len, data := 5,
    tag := Config.gmacTag key5 5 3 (a / 128 * 128) 5, crcOk := true, lane := 0, arc := arc }
theorem line5_key (s : State) (a len : Nat) (arc : Option (Nat × Nat)) (h : s.routeSlot 5 = 0) :
    (keyed s).lineKey (line5 a len arc) = some key5 := by
  have h2 : (keyed s).routeSlot 5 = 0 := h
  have h3 : (keyed s).key 0 = ⟨some key5, none, 0⟩ := rfl
  simp [State.lineKey, State.tagKey, line5, lineBase, h2, h3]
/-- Without a key no tag passes. -/
theorem line5_none (a len : Nat) (arc : Option (Nat × Nat)) : State.reset.lineKey (line5 a len arc) = none := rfl
theorem line5_admit (a len : Nat) (arc : Option (Nat × Nat)) (again : Turn) :
    (keyed State.reset).wake.checkLine (line5 a len arc) again = ((keyed State.reset).wake, some key5) := by
  have h : (keyed State.reset).wake.lineKey (line5 a len arc) = some key5 := line5_key State.reset.wake a len arc (by decide)
  have b : (keyed State.reset).wake.rxBlocked (line5 a len arc) = false := rfl
  have n : (keyed State.reset).wake.rxNext (line5 a len arc) key5 = 0 := by rfl
  have c : (line5 a len arc).crcOk = true := rfl
  have d : (line5 a len arc).dst = Config.pkgId.toNat := rfl
  simp [State.checkLine, h, b, n, c, d]
/-- Four lines of a runoff block of package 5, whose tags pass. -/
def run5 : BlockIn :=
  ⟨5, 0, 0, 0, 0, Config.pkgId.toNat, 0x10000,
    (List.range 4).map fun i => ⟨i, 5, Config.gmacTag key5 5 i (0x10000 + 128 * i) 5, true, 0⟩⟩
theorem run5_key (s : State) (h : s.routeSlot 5 = 0) (i : Nat) :
    (keyed s).blockKey run5 i ⟨i, 5, Config.gmacTag key5 5 i (0x10000 + 128 * i) 5, true, 0⟩ = some key5 := by
  have h2 : (keyed s).routeSlot 5 = 0 := h
  have k : (keyed s).key 0 = ⟨some key5, none, 0⟩ := rfl
  simp [State.blockKey, State.tagKey, run5, h2, k]
theorem run5_keys : (blockPlaces run5).filterMap (fun e =>
    if e.2.crcOk then (keyed (window 4)).blockKey run5 e.1 e.2 else none) = List.replicate 4 key5 := by
  have b := run5_key (window 4) (by decide +kernel)
  rw [show blockPlaces run5 = [0, 1, 2, 3].map fun i =>
    (i, (⟨i, 5, Config.gmacTag key5 5 i (0x10000 + 128 * i) 5, true, 0⟩ : RunLine)) from rfl]
  simp only [List.map_cons, List.map_nil, List.filterMap_cons, List.filterMap_nil, if_true, b]
  rfl
/-- A line of this package on its way: to package foreign, from thread 0, sent once. -/
def sent5 : PWrite := { wr with pa := 2 ^ 51, sealed_ := [1, 2, 3] }
theorem witness_Arrivals_order :
    (keyed State.reset).rxNext (line5 0x1000 8 none) key5 = 0 ∧ State.reset.rxBlocked (line5 0x1000 8 none) = false ∧
    { State.reset with rxSeq := [(21, [(key5, 4)])] }.rxNext (line5 0x1000 8 none) key5 = 4 ∧
    State.reset.tagCount 5 3 < 2 ∧ State.reset.homeServes 0x1000 = true ∧ remoteTarget 0x1000 = .hbm 0x1000 ∧
    (State.reset.wake.lineGate (line5 0x1000 8 none)).2 = .admitted ∧
    (State.reset.wake.lineGate { line5 0x1000 8 none with owner := 9 }).2 = .denied ∧
    ((regs [(prbAt 0 0x1068, 1)] State.reset).wake.lineGate (line5 0x1000 8 none)).2 = .held ∧
    State.reset.routeValid 6 = false ∧
    (regs [(brbRouteAt 6, 1), (brbPortAt 0 0, 1)] State.reset).routeValid 6 = true ∧
    (regs [(brbRouteAt 6, 1), (brbPortAt 0 0, 1)] State.reset).portUp
      ((regs [(brbRouteAt 6, 1), (brbPortAt 0 0, 1)] State.reset).routePort 6) = true ∧
    (regs [(brbRouteAt 6, 0x40001)] State.reset).routeHeld 6 = true ∧
    remoteTarget 0xC000000000 = .request 0 ∧ (window 4).chanServes 0x10000 = true ∧
    ((window 4).wake.gateway 0 0 8 false).1.wnOpen 0 0 = true ∧
    ([wr].find? (fun v => decide (v.id = 7))) = some wr ∧ wr.performed = false ∧ wr.retryAt ≠ some heldBack ∧
    sent5.sealed_ ≠ [] ∧ sent5.retryAt = none ∧ sent5.fails < 2 ∧ 2 ≤ { sent5 with fails := 2 }.fails ∧
    (State.reset.thread 0).denied = none ∧ sent5.issued + Config.tenMs ≤ Config.tenMs ∧
    (regs [(brbPortAt 0 0, 1)] State.reset).wf (brbPortAt 0 0) 0 1 = 1 ∧ (tget Port.zero State.reset.ports 0).repair = none ∧
    { wr with by_ := .arc 0 7 }.by_ = .arc 0 7 ∧ (framed Region.zero Part.zero).findArc 0 0 true = none ∧
    arcKey 0 0 ∉ (arced [] Region.zero).arcBad ∧ arcKey 0 0 ∈ (arced [0] Region.zero).arcBad := by decide +kernel

/-- What opaque constants stand in: whose package a line is for. -/
theorem witness_Arrivals_waits :
    { State.reset with rx := [⟨5, Config.pkgId.toNat, 1, 2, none, 0, false⟩] }.rxBlocked (line5 0x1000 8 none) = true ∧
    { State.reset with rx := [⟨5, Config.pkgId.toNat, 1, 2, some 7, 0, false⟩] }.arcOpen (line5 0 0 (some (7, 0))) = true ∧
    State.reset.arcOpen (line5 0 0 (some (7, 0))) = false ∧ (line5 0 0 none).dst = Config.pkgId.toNat ∧
    { line5 0 0 none with dst := Config.pkgId.toNat + 1 }.dst ≠ Config.pkgId.toNat ∧
    run5.dst = Config.pkgId.toNat := by
  simp [State.rxBlocked, State.arcOpen, RxWait.isWith, line5, run5, State.reset, Config.tenMs]

/-- Task 4 of queue 0 and task 3 of the same queue, both ready. -/
def two : State := { served [] with tasks := [task false, { task false with id := 3 }] }
theorem witness_Tasks_each :
    (tasking false).overtaken (task false) = false ∧ two.overtaken (task false) = true ∧
    two.overtaken { task false with id := 3 } = false ∧ (task false).cold = false ∧ (task false).waited = true ∧
    { task false with rec_ := List.replicate 0x60 0 ++ List.replicate 64 0xFF }.waited = false ∧
    (((framed Region.zero Part.zero).killFrozen 0).part 0).graph.isSome = true ∧
    ((framed Region.zero Part.zero).killFrozen 0).channelsOf 0 = [] ∧
    (at_ 0 cell).linkReady 1 0 0x1000 = true ∧
    (regs [(hcbAt (chanOf 0x1000) 0xD8, 1)] (at_ 0 cell)).linkReady 1 0 0x1000 = false ∧
    (State.reset.chan 383).latch[5]? = none ∧
    ({ State.reset with chans := [(383, { Chan.zero with latch := [0, 0, 0, 0, 0, 6] })] }.chan 383).latch[5]? = some 6 := by
  decide +kernel

theorem witness_Entries_each :
    (State.reset.wake.remapVote (chanOf 0x1000)).2 = true ∧ (State.reset.wake.hbmServe 0x1000).2 = true ∧
    ({ State.reset with hbmErr := [(0x40, 2)] }.hbmServe 0x1000).2 = false ∧
    (chained Chain.zero true).entryRight 0 ⟨0x2000, 1, 0⟩ true = false ∧
    (State.reset.entryPa 0 ⟨0x2000, 1, 9⟩ = none) ∧
    ((State.reset.entryPlace 0 ⟨0x2000, 1, 0⟩).2 = some 0x2000) := by decide +kernel

/-! ## Words written out from the encoding tables of the spec, a word for each constructor that has one -/

/-- Each word decodes to the instruction beside it. -/
def reads (l : List (Nat × Instr)) : Bool := l.all fun e => decide (decodeTableWord 80 e.1 = some e.2)

/-- R44. -/
theorem test_words_both : reads [(0, .nop), (2 ^ 80 - 1, .guard)] = true := by decide +kernel

/-- M slot (R58, R122). -/
theorem test_words_M : reads [
    (0x10020082000000000000, .mxhdr true false 0 false 2),
    (0x10026D80000000000000, .mxhdr true true 13 true 0),
    (0x10042987000000000000, .mxldb true true 5 7),
    (0x1004781F000000000000, .mxldb false false 15 31),
    (0x1006381E000000000000, .mxldbt 7 30),
    (0x1009189D000000000000, .mxfeed 2 3 true 29),
    (0x100B8000000000000000, .mxbub 3),
    (0x100C8000000000000000, .mxclr 1),
    (0x100FF85F000000000000, .mxdrn 3 15 31 2),
    (0x1010B071000000000000, .mxdrnc 1 6 17 3),
    (0x10120000000000000000, .mxpair),
    (0x10140000000000000000, .mxsolo),
    (0x1017290B000000000000, .mxaccf 2 5 false true 11),
    (0x1018DD80000000000000, .mxstat 1 3 11 true),
    (0x1019B900000000000000, .mxstat 3 2 7 false),
    (0x101A0000000000000000, .mxswapb)] = true := by decide +kernel

/-- V slot (R59, R143). -/
theorem test_words_V : reads [
    (0x1000000003CDEB000000, .vadd ⟨true, 12, 13, 14, 5, true⟩),
    (0x1000000005CDEB000000, .vsub ⟨true, 12, 13, 14, 5, true⟩),
    (0x1000000007CDEB000000, .vmul ⟨true, 12, 13, 14, 5, true⟩),
    (0x1000000009BDEB000000, .vfma ⟨true, 11, 13, 14, 5, true⟩),
    (0x100000000BBDEB000000, .vfms ⟨true, 11, 13, 14, 5, true⟩),
    (0x100000000DBDEB000000, .vfnma ⟨true, 11, 13, 14, 5, true⟩),
    (0x100000000FCDEB000000, .vmin ⟨true, 12, 13, 14, 5, true⟩),
    (0x1000000011CDEB000000, .vmax ⟨true, 12, 13, 14, 5, true⟩),
    (0x1000000013CD0B000000, .vabs ⟨true, 12, 13, 0, 5, true⟩),
    (0x1000000015CD0B000000, .vneg ⟨true, 12, 13, 0, 5, true⟩),
    (0x1000000017CD0B000000, .vrcp ⟨true, 12, 13, 0, 5, true⟩),
    (0x1000000019CD0B000000, .vrsq ⟨true, 12, 13, 0, 5, true⟩),
    (0x100000001BCD0B000000, .vsqrt ⟨true, 12, 13, 0, 5, true⟩),
    (0x100000001DCD0B000000, .vexp2 ⟨true, 12, 13, 0, 5, true⟩),
    (0x100000001FCD0B000000, .vlog2 ⟨true, 12, 13, 0, 5, true⟩),
    (0x1000000021CDEB000000, .vdiv ⟨true, 12, 13, 14, 5, true⟩),
    (0x1000000023CDEB000000, .viadd ⟨true, 12, 13, 14, 5, true⟩),
    (0x1000000025CDEB000000, .visub ⟨true, 12, 13, 14, 5, true⟩),
    (0x1000000027CDEB000000, .vimul ⟨true, 12, 13, 14, 5, true⟩),
    (0x1000000029BDEB000000, .vimad ⟨true, 11, 13, 14, 5, true⟩),
    (0x100000002BCDEB000000, .vimin ⟨true, 12, 13, 14, 5, true⟩),
    (0x100000002DCDEB000000, .vimax ⟨true, 12, 13, 14, 5, true⟩),
    (0x100000002FCDEB000000, .vand ⟨true, 12, 13, 14, 5, true⟩),
    (0x1000000031CDEB000000, .vor ⟨true, 12, 13, 14, 5, true⟩),
    (0x1000000033CDEB000000, .vxor ⟨true, 12, 13, 14, 5, true⟩),
    (0x1000000035CD0B000000, .vnot ⟨true, 12, 13, 0, 5, true⟩),
    (0x1000000037CDEB000000, .vshl ⟨true, 12, 13, 14, 5, true⟩),
    (0x1000000039CDEB000000, .vshr ⟨true, 12, 13, 14, 5, true⟩),
    (0x100000003BCDEB000000, .vsar ⟨true, 12, 13, 14, 5, true⟩),
    (0x100000003DCD0B000000, .vclz ⟨true, 12, 13, 0, 5, true⟩),
    (0x100000003FCD0B000000, .vpopc ⟨true, 12, 13, 0, 5, true⟩),
    (0x10000000417DEA000000, .vcmpeq ⟨true, 7, 13, 14, 5, false⟩),
    (0x10000000437DEA000000, .vcmpne ⟨true, 7, 13, 14, 5, false⟩),
    (0x10000000457DEA000000, .vcmplt ⟨true, 7, 13, 14, 5, false⟩),
    (0x10000000477DEA000000, .vcmple ⟨true, 7, 13, 14, 5, false⟩),
    (0x1000000049CDEB000000, .vsel ⟨true, 12, 13, 14, 5, true⟩),
    (0x100000004B1760000000, .vkand ⟨true, 1, 7, 6, 0, false⟩),
    (0x100000004D1760000000, .vkor ⟨true, 1, 7, 6, 0, false⟩),
    (0x100000004F1700000000, .vknot ⟨true, 1, 7, 0, 0, false⟩),
    (0x10000000512F01000000, .vkmov ⟨true, 2, 15, 0, 0, true⟩),
    (0x1000000053CDBB000000, .vcvt ⟨true, 12, 13, 11, 5, true⟩),
    (0x1000000055CDBB000000, .vcvtc ⟨true, 12, 13, 11, 5, true⟩),
    (0x1000000057CA71000000, .vqnt ⟨true, 12, 10, 7, 0, true⟩),
    (0x1000000059CA7B000000, .vdqnt ⟨true, 12, 10, 7, 5, true⟩),
    (0x100000005BEDEB000000, .vpack ⟨true, 14, 13, 14, 5, true⟩),
    (0x100000005DCD0B000000, .vunpk ⟨true, 12, 13, 0, 5, true⟩),
    (0x100000005FCDCB000000, .vrsum ⟨true, 12, 13, 12, 5, true⟩),
    (0x1000000061CDCB000000, .vrmax ⟨true, 12, 13, 12, 5, true⟩),
    (0x1000000063CDCB000000, .vrmin ⟨true, 12, 13, 12, 5, true⟩),
    (0x1000000065AD0B000000, .vrsumm ⟨true, 10, 13, 0, 5, true⟩),
    (0x1000000067EAEB000000, .vrscl ⟨true, 14, 10, 14, 5, true⟩),
    (0x1000000069CDEB000000, .vperm ⟨true, 12, 13, 14, 5, true⟩),
    (0x100000006BCDEB000000, .vbcst ⟨true, 12, 13, 14, 5, true⟩),
    (0x100000006DCDEB000000, .vrot ⟨true, 12, 13, 14, 5, true⟩),
    (0x100000006FED0B000000, .vmov ⟨true, 14, 13, 0, 5, true⟩),
    (0x1000000071ED0B000000, .viota ⟨true, 14, 13, 0, 5, true⟩),
    (0x1000000073CDEB000000, .vrng ⟨true, 12, 13, 14, 5, true⟩),
    (0x1000000075CDEB000000, .vdrop ⟨true, 12, 13, 14, 5, true⟩)] = true := by decide +kernel

/-- S slot (R60, R164). -/
theorem test_words_S : reads [
    (0x1000000000000003F255, .prd 31 0x255),
    (0x100000000000000503FF, .pwr 16 0x3FF),
    (0x100000000000000693FF, .prw 9 3 255),
    (0x1000000000000009E0FF, .padv 30 255),
    (0x100000000000000BD0FE, .ptagc 29 254),
    (0x100000000000000C71C8, .ldt 7 true 200),
    (0x100000000000000E6003, .stt 6 false 3),
    (0x1000000000000010010F, .sin 1 15),
    (0x10000000000000120207, .sout 2 7),
    (0x100000000000001401F6, .tap true 6 15),
    (0x10000000000000165001, .aggo 5 true),
    (0x10000000000000184000, .agstop 4),
    (0x100000000000001A3700, .agld 3 7),
    (0x100000000000001C073F, .kedge 7 63),
    (0x100000000000001FC600, .slck 28 6),
    (0x1000000000000021B201, .slfwd 27 2 true),
    (0x1000000000000023A681, .twprm 26 2 true 129),
    (0x10000000000000240700, .poisk 7)] = true := by decide +kernel

/-- Long words (R60, R130, R159, R170, R178). -/
theorem test_words_FL : reads [
    (0x2B010000001BDEADBEEF, .vimm true 11 0xDEADBEEF),
    (0x2002FEDCBA9876543210, .vimm64 0xFEDCBA9876543210),
    (0x200300000000000002DB, .vsetm 11 5 true false true),
    (0x20040000001780000001, .kset 7 2 0x80000001),
    (0x2008C000FFFFFFFFFFFE, .rngkey 3 0xFFFFFFFFFFFE),
    (0x2009000000003F800000, .sclset 0x3F800000),
    (0x20050000002007FFEFFE, .agcfg 6 1535 0xFFF 0x801),
    (0x2006000003F3F891BFFD, .agcfg2 5 0x7FF 0x123 7 15 4 31),
    (0x20078000000000557C6C, .hdrset 2 12 3 30 0x155),
    (0x200A3F80000012345678, .dropcfg 0x12345678 0x3F800000),
    (0x200B00000000000006A9, .mxcfg 9 5 true true)] = true := by decide +kernel

/-- C-ALU (R61, R188). -/
theorem test_words_CALU : reads [
    (0x8018E17C000000000000, .add 35 33 31),
    (0x8028E17C000000000000, .sub 35 33 31),
    (0x8038E17C000000000000, .mul 35 33 31),
    (0x8048E17C000000000000, .mulh 35 33 31),
    (0x8058E17C000000000000, .mulhu 35 33 31),
    (0x8068E17C000000000000, .div 35 33 31),
    (0x8078E17C000000000000, .divu 35 33 31),
    (0x8088E17C000000000000, .rem 35 33 31),
    (0x8098E17C000000000000, .remu 35 33 31),
    (0x80A8E17C000000000000, .and 35 33 31),
    (0x80B8E17C000000000000, .or 35 33 31),
    (0x80C8E17C000000000000, .xor 35 33 31),
    (0x80D8E17C000000000000, .andn 35 33 31),
    (0x80E8E17C000000000000, .shl 35 33 31),
    (0x80F8E17C000000000000, .shr 35 33 31),
    (0x8108E17C000000000000, .sar 35 33 31),
    (0x8118E17C000000000000, .rotl 35 33 31),
    (0x8128E17C000000000000, .min 35 33 31),
    (0x8138E17C000000000000, .max 35 33 31),
    (0x8148E17C000000000000, .minu 35 33 31),
    (0x8158E17C000000000000, .maxu 35 33 31),
    (0x8168E100000000000000, .clz 35 33),
    (0x8178E100000000000000, .ctz 35 33),
    (0x8188E100000000000000, .popc 35 33),
    (0x8198E100000000000000, .bswap 35 33),
    (0x81A8E17C000000000000, .sext 35 33 31),
    (0x81B8E17C000000000000, .zext 35 33 31),
    (0x81C8E17C000000000000, .cmpeq 35 33 31),
    (0x81D8E17C000000000000, .cmpne 35 33 31),
    (0x81E8E17C000000000000, .cmplt 35 33 31),
    (0x81F8E17C000000000000, .cmpltu 35 33 31),
    (0x8208E17C000000000000, .sel 35 33 31),
    (0x8218E100000000000000, .mov 35 33)] = true := by decide +kernel

/-- C-IMM and C-WIDE (R62, R190, R191). -/
theorem test_words_CIMM : reads [
    (0x90179D02000000040000, .addi 30 29 0x80000001),
    (0x90279D02000000040000, .muli 30 29 0x80000001),
    (0x90379D02000000040000, .andi 30 29 0x80000001),
    (0x90479D02000000040000, .ori 30 29 0x80000001),
    (0x90579D02000000040000, .xori 30 29 0x80000001),
    (0x90679D00000000FC0000, .shli 30 29 0x3F),
    (0x90779D00000000FC0000, .shri 30 29 0x3F),
    (0x90879D00000000FC0000, .sari 30 29 0x3F),
    (0x90979D00000000FC0000, .rotli 30 29 0x3F),
    (0x90A79D02000000040000, .cmpeqi 30 29 0x80000001),
    (0x90B79D02000000040000, .cmpnei 30 29 0x80000001),
    (0x90C79D02000000040000, .cmplti 30 29 0x80000001),
    (0x90D79D02000000040000, .cmpltui 30 29 0x80000001),
    (0x90E79D02000000040000, .mini 30 29 0x80000001),
    (0x90F79D02000000040000, .maxi 30 29 0x80000001),
    (0xD0188080000000000100, .limm 34 0x800000000001),
    (0xD0288080000000000100, .limmz 34 0x800000000001),
    (0xD0388000000000FFFE00, .limmh 34 0xFFFE)] = true := by decide +kernel

/-- C-BR (R62, R192). -/
theorem test_words_CBR : reads [
    (0xB0100383FFFFFFF80000, .beq 3 32 0xFFFFFFFE),
    (0xB0200383FFFFFFF80000, .bne 3 32 0xFFFFFFFE),
    (0xB0300383FFFFFFF80000, .blt 3 32 0xFFFFFFFE),
    (0xB0400383FFFFFFF80000, .bge 3 32 0xFFFFFFFE),
    (0xB0500383FFFFFFF80000, .bltu 3 32 0xFFFFFFFE),
    (0xB0600383FFFFFFF80000, .bgeu 3 32 0xFFFFFFFE),
    (0xB0700503FFFFFFF80000, .bz 5 0xFFFFFFFE),
    (0xB0800503FFFFFFF80000, .bnz 5 0xFFFFFFFE),
    (0xB09000000000001C0000, .jmp 7),
    (0xB0A040000000001C0000, .jal 1 7),
    (0xB0B042000000001C0000, .jalr 1 2 7)] = true := by decide +kernel

/-- C-MEM (R57, R62, R194). -/
theorem test_words_CMEM : reads [
    (0xA0178502504FFFFFFFE0, .ld ⟨30, 5, 0, 4, 5, 0, 1, 0, 0xFFFFFFFE⟩),
    (0xA028C501000000000040, .lds ⟨35, 5, 0, 2, 0, 0, 0, 0, 0x4⟩),
    (0xA0318501B08000000080, .st ⟨6, 5, 0, 3, 3, 0, 2, 0, 0x8⟩),
    (0xA041C825CAC000000100, .amo ⟨7, 8, 9, 3, 4, 10, 3, 0, 0x10⟩),
    (0xA0528832409000000100, .cas ⟨10, 8, 12, 4, 4, 0, 2, 1, 0x10⟩),
    (0xA060000050C000000000, .fence ⟨0, 0, 0, 0, 5, 0, 3, 0, 0x0⟩),
    (0xA070C414000000000400, .enq ⟨3, 4, 5, 0, 0, 0, 0, 0, 0x40⟩),
    (0xA080C414000000000090, .seqw ⟨3, 4, 5, 0, 0, 0, 0, 0, 0x9⟩)] = true := by decide +kernel

/-- C-SYS (R63, R202). -/
theorem test_words_CSYS : reads [
    (0xC0100003FFFFFFFC0000, .trap 0xFFFFFFFF),
    (0xC0200000000001340000, .svc 77),
    (0xC0300000000000000000, .hend),
    (0xC0414000000000000000, .getcr 5 0),
    (0xC0500600000000AC0000, .setcr 6 0x2B),
    (0xC061C000000000000000, .rdcyc 7),
    (0xC0720900000007FC0000, .waitev 8 9 0x1FF),
    (0xC0800928000000040000, .tlsig 9 10 true),
    (0xC092CC34000000140000, .tlwt 11 12 13 5),
    (0xC0A00C34000000000000, .tlset 12 13),
    (0xC0B34E00000000000000, .depdec 13 14),
    (0xC0C00E3C000000000000, .depset 14 15),
    (0xC0D3D000000000000000, .launch 15 16),
    (0xC0E41100000000000000, .publ 16 17),
    (0xC0F45200000000000000, .snap 17 18),
    (0xC1049300000000000000, .unsnap 18 19),
    (0xC114E350000000000000, .finsp 19 35 20),
    (0xC1252254000000000000, .fpatch 20 34 21),
    (0xC1302100000000000000, .fres 33),
    (0xC1402000000000040000, .fkill 32 true),
    (0xC1556100000000000000, .fstep 21 33),
    (0xC1602258000000000000, .fclrp 34 22),
    (0xC175A300000000000000, .hcapq 22 35),
    (0xC1802200000000000000, .hcapdrop 34),
    (0xC1901700000000000000, .condset 23),
    (0xC1A5D800000000000000, .iterwt 23 24),
    (0xC1B61900000000000000, .kickscan 24 25),
    (0xC1B61900000000040000, .kickscanClear 24 25),
    (0xC1C65A6E000000000000, .jrnl 25 26 27 0x80000000),
    (0xC1D01C00000000000000, .wdog 28),
    (0xC1E00000000000000000, .halt),
    (0xC1F75E7C000000000000, .sluice 29 30 31),
    (0xC2079F04000000000000, .rngc 30 31 1),
    (0xC2100000000000040000, .shpfence 0 true),
    (0xC220C414000000000000, .pagepl 3 4 5)] = true := by decide +kernel

/-! ## Ill-formed terms: one for each check, which the check refuses -/

/-- Every term of a list is refused by the well-formedness check. -/
def refused (l : List Instr) : Bool := l.all fun i => !wellFormed i

/-- R48 to R53, R122: operand and lane codes of the M slot. -/
theorem test_wf_m : refused [.mxhdr true true 0 false 1, .mxhdr true false 3 false 0, .mxhdr true false 0 true 0,
    .mxldb true false 8 0, .mxldb true true 0 8, .mxldb false true 0 0, .mxldbt 14 0, .mxfeed 0 9 true 0,
    .mxdrn 0 8 0 0, .mxdrnc 0 14 0 0, .mxaccf 0 6 false false 0, .mxaccf 0 0 false false 12,
    .mxstat 0 3 12 false, .mxstat 0 0 0 false, .mxstat 0 1 8 false, .mxstat 0 2 1 true] = true := by decide
/-- R139, R143: operand codes, pairs and variants of the V slot. -/
theorem test_wf_v : refused [.vadd ⟨false, 14, 0, 0, 0, false⟩, .vadd ⟨false, 13, 0, 0, 0, true⟩,
    .vfma ⟨false, 12, 0, 0, 0, false⟩, .vimad ⟨false, 15, 0, 0, 0, false⟩, .vabs ⟨false, 0, 0, 1, 0, false⟩,
    .vnot ⟨false, 0, 0, 1, 0, false⟩, .vcmpeq ⟨false, 0, 0, 0, 0, false⟩, .vcmplt ⟨false, 8, 0, 0, 0, false⟩,
    .vcmple ⟨false, 1, 0, 0, 0, true⟩, .vsel ⟨false, 14, 0, 0, 0, false⟩, .vkand ⟨false, 1, 8, 0, 0, false⟩,
    .vkor ⟨false, 1, 0, 8, 0, false⟩, .vkand ⟨false, 1, 0, 0, 1, false⟩, .vknot ⟨false, 1, 0, 1, 0, false⟩,
    .vkmov ⟨false, 1, 8, 0, 0, false⟩, .vcvt ⟨false, 0, 0, 12, 0, false⟩, .vqnt ⟨false, 0, 0, 8, 0, false⟩,
    .vqnt ⟨false, 0, 0, 0, 1, false⟩, .vdqnt ⟨false, 0, 0, 8, 0, false⟩, .vpack ⟨false, 0, 0, 0, 0, true⟩,
    .vunpk ⟨false, 0, 0, 1, 0, false⟩, .vrsum ⟨false, 0, 0, 1, 0, false⟩, .vrsumm ⟨false, 1, 0, 0, 0, false⟩,
    .vrscl ⟨false, 0, 1, 0, 0, false⟩, .vbcst ⟨false, 14, 0, 0, 0, false⟩, .vmov ⟨false, 0, 0, 0, 0, true⟩,
    .viota ⟨false, 0, 0, 1, 0, false⟩, .vdrop ⟨false, 14, 0, 0, 0, false⟩] = true := by decide
/-- R52, R159, R164, R170: the S slot and the long words. -/
theorem test_wf_s : refused [.padv 0 0, .sin 0 8, .sout 0 14, .tap false 8 0, .tap false 0 9, .agld 0 15, .slck 0 0,
    .slfwd 0 1 false, .twprm 0 0 false 0, .poisk 0, .vimm false 12 0, .vsetm 12 0 false true true,
    .vsetm 0 6 false true true, .vsetm 0 0 false false false, .kset 0 0 0, .kset 1 3 0, .rngkey 0 0x100000000,
    .rngkey 2 0x8000, .agcfg 0 1536 0 0, .agcfg2 0 0 0 0 8 0 0, .agcfg2 0 0 0 0 0 5 0, .agcfg2 0 0 0 0 0 2 1] = true := by
  decide
/-- R56, R57, R190, R191, R194, R200, R202, R203: the control classes. -/
theorem test_wf_c : refused [.add 36 0 0, .sub 0 36 0, .sel 0 0 63, .clz 36 0, .addi 36 0 0, .shli 0 0 64,
    .limm 36 0, .limmh 0 0x10000, .beq 36 0 0, .bz 36 0, .jal 36 0, .jalr 0 36 0, .ld ⟨1, 0, 0, 4, 0, 0, 0, 0, 0⟩,
    .ld ⟨0, 0, 0, 5, 0, 0, 0, 0, 0⟩, .ld ⟨0, 0, 0, 3, 0, 0, 2, 0, 0⟩, .ld ⟨0, 0, 0, 3, 1, 0, 0, 0, 0⟩,
    .ld ⟨0, 0, 1, 3, 0, 0, 0, 0, 0⟩, .lds ⟨0, 0, 0, 4, 0, 0, 0, 0, 0⟩, .st ⟨0, 0, 0, 3, 0, 0, 1, 0, 0⟩,
    .st ⟨0, 0, 0, 3, 6, 0, 2, 0, 0⟩, .amo ⟨0, 0, 0, 1, 0, 0, 0, 0, 0⟩, .amo ⟨0, 0, 0, 3, 0, 9, 0, 0, 0⟩,
    .amo ⟨0, 0, 0, 2, 0, 10, 0, 0, 0⟩, .amo ⟨0, 0, 0, 3, 0, 11, 0, 0, 0⟩, .cas ⟨0, 0, 0, 1, 0, 0, 0, 0, 0⟩,
    .cas ⟨0, 0, 0, 3, 0, 0, 0, 2, 0⟩, .cas ⟨0, 0, 1, 4, 0, 0, 0, 0, 0⟩, .fence ⟨0, 0, 0, 0, 0, 0, 0, 0, 0⟩,
    .fence ⟨1, 0, 0, 0, 0, 0, 1, 0, 0⟩, .enq ⟨0, 0, 0, 1, 0, 0, 0, 0, 0⟩, .seqw ⟨0, 0, 0, 0, 0, 0, 0, 0, 0x80000000⟩,
    .getcr 0 5, .setcr 0 0, .rdcyc 36, .waitev 0 0 0, .tlsig 36 0 false, .tlwt 0 0 0 0x80000000, .tlset 0 36,
    .depdec 36 0, .launch 0 36, .finsp 0 0 0, .fpatch 0 36 0, .fres 31, .fstep 0 31, .hcapq 36 32, .fclrp 31 0,
    .condset 36, .iterwt 0 36, .kickscan 36 0, .jrnl 0 0 36 0, .shpfence 1 true, .pagepl 0 0 36] = true := by decide
/-- R44, R45, R58 to R63: a class, a slot opcode and an operation that no table lists are no word. -/
theorem test_words_refused : ([1, 3 * 2 ^ 76, 14 * 2 ^ 76, 2 ^ 76 + 0x0E * 2 ^ 65, 2 ^ 76 + 0x3B * 2 ^ 41, 2 ^ 76 + 0x13 * 2 ^ 17,
    2 * 2 ^ 76, 2 * 2 ^ 76 + 0x0C * 2 ^ 64, 8 * 2 ^ 76, 8 * 2 ^ 76 + 0x22 * 2 ^ 68, 9 * 2 ^ 76 + 0x10 * 2 ^ 68,
    10 * 2 ^ 76 + 0x09 * 2 ^ 68, 11 * 2 ^ 76 + 0x0C * 2 ^ 68, 12 * 2 ^ 76 + 0x23 * 2 ^ 68, 13 * 2 ^ 76 + 0x04 * 2 ^ 68,
    0x9010C300000000200000 + 1] : List Nat).all (fun w => decide (decodeTableWord 80 w = none)) = true := by decide +kernel

/-! ## Single steps: values worked out from the spec's tables, or its own examples -/

/-- The outcome is a next state of which p holds. -/
def gives (o : Host.Outcome State Fault Refusal) (p : State → Bool) : Bool :=
  match o with
  | .next s => p s
  | _ => false

/-- Thread 0 with s1, s2 and s3. -/
def with3 (a b c : Word) : State := at_ 0 { cell with regs := [(1, a), (2, b), (3, c)] }
/-- An instruction writes v to s7 of thread 0. -/
def to7 (s : State) (i : Instr) (v : Word) : Bool := gives (exec i s) fun u => decide ((u.thread 0).getR 7 = v)

/-- R189: wrap, sign and width of the integer operations. -/
theorem test_alu : (to7 (with3 (BitVec.allOnes 64) 1 0) (.add 7 1 2) 0 && to7 (with3 0 1 0) (.sub 7 1 2) (BitVec.allOnes 64) &&
    to7 (with3 (BitVec.allOnes 64) (BitVec.allOnes 64) 0) (.mulh 7 1 2) 0 &&
    to7 (with3 (BitVec.allOnes 64) (BitVec.allOnes 64) 0) (.mulhu 7 1 2) 0xFFFFFFFFFFFFFFFE &&
    to7 (with3 0xFF 0x0F 0) (.andn 7 1 2) 0xF0 && to7 (with3 1 65 0) (.shl 7 1 2) 2 &&
    to7 (with3 0x8000000000000000 63 0) (.sar 7 1 2) (BitVec.allOnes 64) &&
    to7 (with3 0x8000000000000001 1 0) (.rotl 7 1 2) 3 && to7 (with3 (BitVec.allOnes 64) 1 0) (.min 7 1 2) (BitVec.allOnes 64) &&
    to7 (with3 (BitVec.allOnes 64) 1 0) (.minu 7 1 2) 1 && to7 (with3 0 0 0) (.ctz 7 1) 64 &&
    to7 (with3 0x0102030405060708 0 0) (.bswap 7 1) 0x0807060504030201 &&
    to7 (with3 (BitVec.allOnes 64) 1 0) (.cmplt 7 1 2) 1 && to7 (with3 (BitVec.allOnes 64) 1 0) (.cmpltu 7 1 2) 0) = true := by
  decide +kernel
/-- R189: a quotient is rounded towards zero, a remainder has the dividend's sign; division by zero freezes (0x08). -/
theorem test_divisions : (to7 (with3 (-7) 2 0) (.div 7 1 2) (-3) && to7 (with3 (-7) 2 0) (.rem 7 1 2) (-1) &&
    to7 (with3 7 2 0) (.divu 7 1 2) 3 && to7 (with3 7 2 0) (.remu 7 1 2) 1 &&
    gives (exec (.div 7 1 0) (with3 7 2 0)) (fun u => decide ((u.thread 0).status = .frozen) &&
      decide (u.freezes.map (·.cause) = [8]))) = true := by decide +kernel
/-- R190, R191: immediates are sign-extended, LIMMZ is not, LIMMH keeps the rest. -/
theorem test_immediates : (to7 (with3 5 0 0) (.addi 7 1 0xFFFFFFFF) 4 && to7 (with3 5 0 0) (.limm 7 0x800000000000) 0xFFFF800000000000 &&
    to7 (with3 5 0 0) (.limmz 7 0x800000000000) 0x0000800000000000 && to7 (with3 5 0 0) (.limmh 7 0x1234) 0x1234000000000000) =
    true := by decide +kernel
/-- R192: the displacement counts from the branch's own index; JAL links the next index. -/
theorem test_branches : (gives (exec (.blt 1 2 0xFFFFFFFE) { with3 (-1) 1 0 with threads := [(0, { cell with pc := 9, regs := [(1, -1), (2, 1)] })] })
      (fun u => decide ((u.thread 0).pc = 7)) &&
    gives (exec (.bltu 1 2 0xFFFFFFFE) { with3 (-1) 1 0 with threads := [(0, { cell with pc := 9, regs := [(1, -1), (2, 1)] })] })
      (fun u => decide ((u.thread 0).pc = 10)) &&
    gives (exec (.jal 7 4) { with3 0 0 0 with threads := [(0, { cell with pc := 9 })] })
      (fun u => decide ((u.thread 0).pc = 13) && decide ((u.thread 0).getR 7 = 10))) = true := by decide +kernel
/-- R195, R237: a store is on its way until its home performs it, least significant byte lowest. -/
theorem test_store : (gives (exec (.homeWritePerform 7) { State.reset with writes := [{ wr with data := natBytes 0x0807060504030201 8 }] })
    (fun u => decide ((List.range 8).map (fun k => u.byte (0x1000 + k)) = [1, 2, 3, 4, 5, 6, 7, 8]) &&
      decide (u.byte 0x1008 = 0))) = true := by decide +kernel
/-- R203: SETCR at PRIV 1 of a register that PRIV 3 writes freezes with PRIV (0x03). -/
theorem test_setcr : gives (exec (.setcr 1 0x30) (at_ 2 serv)) (fun u => decide (u.freezes.map (·.cause) = [3])) = true := by
  decide +kernel
/-- R111, R221: the four rounds for c0 = 1, c1 = 2, q0 = 3, q1 = 4, worked by hand. -/
theorem test_rngc : to7 (with3 0x200000001 0x400000003 0) (.rngc 7 1 2) 0xBA58D5EF = true := by decide +kernel
/-- Station 0 in FP32 and RNE, PIN of the example of chapter 05: 0.5, 3.0, -2.0, a NaN and zeros; v1 = 1.0. -/
def fp32 (vs : Tab Line) (ks : Tab Word) : State :=
  tileWith { Tile.zero with v := vs, k := ks }
def lineOf (xs : List Nat) : Line := ⟨BitVec.ofNat 512 (xs.foldr (fun x n => x % 2 ^ 32 + 2 ^ 32 * n) 0), 0, 0⟩
def pin5 : Line := lineOf [0x3F000000, 0x40400000, 0xC0000000, 0x7FC00000]
def ones : Line := lineOf (List.replicate 16 0x3F800000)
/-- What tile 0 has on its way to a destination. -/
def sent (o : Host.Outcome State Fault Refusal) (d : Dest) (p : Line → Bool) : Bool :=
  gives o fun u => ((u.tile 0).dels.filter fun x => decide (x.dst = d)).any fun x => p x.line
/-- The words of a line. -/
def words (l : Line) : List Nat := (List.range 16).map fun i => bitsOf l.bits.toNat (32 * i) 32

/-- The example of chapter 05: elements 1 (3.0) and 3 (NaN) are not below 1.0, every other is. -/
theorem test_vcmplt : sent (exec (.vcmplt ⟨false, 2, 0, 1, 0, false⟩) (fp32 [(0, pin5), (1, ones)] [])) (.kreg 2)
    (fun l => decide (bitsOf l.bits.toNat 0 64 = 0xFFF5)) = true := by decide +kernel
/-- The example of chapter 05: 1.5, 0, -1.0, 0 and 1.0 twelve times, under k2. -/
theorem test_vadd : sent (exec (.vadd ⟨false, 3, 0, 1, 2, false⟩) (fp32 [(0, pin5), (1, ones)] [(2, 0xFFF5)])) (.vreg 0 3)
    (fun l => decide ((words l).take 5 = [0x3FC00000, 0, 0xBF800000, 0, 0x3F800000])) = true := by decide +kernel
/-- The example of chapter 05: the sum is 12.5 in element 0. -/
theorem test_vrsum : sent (exec (.vrsum ⟨false, 4, 3, 0, 0, false⟩)
      (fp32 [(3, lineOf ([0x3FC00000, 0, 0xBF800000, 0] ++ List.replicate 12 0x3F800000))] [])) (.vreg 0 4)
    (fun l => decide ((words l).take 2 = [0x41480000, 0])) = true := by decide +kernel
/-- R97 to R99: FP32 127.4 is INT8 127 under RNE, and 300.0 is poison (chapter 03). -/
theorem test_vcvtc : sent (exec (.vcvtc ⟨false, 3, 0, 0, 0, false⟩)
      (tileWith { Tile.zero with vmode0 := 9, v := [(0, lineOf [0x42FECCCD, 0x43960000])] })) (.vreg 0 3)
    (fun l => decide (bitsOf l.bits.toNat 0 8 = 127) && decide (bitsOf l.pois.toNat 0 2 = 2)) = true := by decide +kernel
/-- VIOTA counts from element 0 of its operand: 1.0, 2.0, 3.0. -/
theorem test_viota : sent (exec (.viota ⟨false, 3, 0, 0, 0, false⟩) (fp32 [(0, ones)] [])) (.vreg 0 3)
    (fun l => decide ((words l).take 3 = [0x3F800000, 0x40000000, 0x40400000])) = true := by decide +kernel
/-- R159: VIMM fills every 32-bit word of its register; KSET both repeats the value. -/
theorem test_vimm : (sent (exec (.vimm true 11 0xDEADBEEF) tileAt) (.vreg 1 11)
      (fun l => decide (words l = List.replicate 16 0xDEADBEEF)) &&
    gives (exec (.kset 7 2 0x80000001) tileAt) (fun u => decide ((u.tile 0).kreg 7 = 0x8000000180000001))) = true := by
  decide +kernel
/-- R112, R159: the four parts of RNGKEY. -/
theorem test_rngkey : (gives (exec (.rngkey 1 0x12345678) tileAt) (fun u => decide ((u.tile 0).rngkey = 0x12345678 * 2 ^ 32)) &&
    gives (exec (.rngkey 2 0x7FFF) tileAt) (fun u => decide ((u.tile 0).rngkey = 0x7FFF * 2 ^ 64)) &&
    gives (exec (.rngkey 3 0xFFFFFFFFFFFF) tileAt) (fun u => decide (bitsOf (u.tile 0).rngkey.toNat 80 48 = 2 ^ 48 - 1))) = true := by
  decide +kernel
/-- R166: PADV moves the working read index and leaves the committed one. -/
theorem test_padv : gives (exec (.padv 1 1) (tileWith { Tile.zero with
      ponds := [(1, { Pond.zero with entry := 1 + 7 * 2 ^ 33, cr := 6, wr := 6 })], slots := [(32 * 0 + 6, 2)] }))
    (fun u => decide (((u.tile 0).pond 1).cr = 6)) = true := by decide +kernel
/-- R205: TRAP and SVC freeze the thread with the code in AUX. -/
theorem test_trap : (gives (exec (.trap 77) (at_ 2 serv)) (fun u =>
      decide (u.freezes.map (fun f => (f.cause, f.rec_.getD 7 0)) = [(0x31, 77)])) &&
    gives (exec (.svc 78) (at_ 2 serv)) (fun u => decide (u.freezes.map (fun f => f.rec_.getD 7 0) = [78]))) = true := by
  decide +kernel
/-- R210: HALT ends the thread. -/
theorem test_halt : gives (exec .halt (at_ 130 rau)) (fun u => decide ((u.thread 130).status = .idle))
    = true := by decide +kernel
/-- R195: a signed byte load is sign-extended. -/
theorem test_lds : gives (exec (.memoryReply 0 9 0)
      { at_ 0 { cell with loads := [{ ldl with sz := 0, signed := true, lo := 0 }] } with cur := .hub, mem := [(0x1000, 0x80)] })
    (fun u => decide ((u.thread 0).getR 3 = 0xFFFFFFFFFFFFFF80)) = true := by decide +kernel
/-- R196: AMO swap leaves its operand in memory. -/
theorem test_amo : gives (exec (.homeWritePerform 7) (atHome { amoWr with kind := .amo 8 9 }))
    (fun u => decide (u.byte 0x1000 = 5)) = true := by decide +kernel
/-- R197: a CAS whose comparison fails writes nothing. -/
theorem test_cas : gives (exec (.homeWritePerform 7) { atHome casWr with mem := [(0x1000, 9)] })
    (fun u => decide (u.byte 0x1000 = 9)) = true := by decide +kernel
/-- R308: KICK sets the queue's bit. -/
theorem test_kick : gives (exec (.kick 65) State.reset) (fun u => decide (u.wf (crbAt 0x18) 1 1 = 1)) = true := by decide +kernel
/-- The worked drain of chapter 04: 8 + 2^-20 in cell (0, 0) of acc2 leaves as BF16 8.0. -/
theorem test_mxdrn : sent (exec (.mxdrn 2 15 0 0) (tileWith { Tile.zero with
      vat := { VatCore.empty with acc := [(2 * 1024, 0x41000001)], accst := [(2, 1 + 2 * 2 ^ 28 + 2 ^ 32)] } })) .aout
    (fun l => decide (bitsOf l.bits.toNat 0 32 = 0x4100)) = true := by decide +kernel

/-! The worked table of R77: a result on cw1 from V0 in row 2 of a schedule, read by V1 in cycle 8, 9 or 10. -/

def lanePage (row : Nat) : SPage where
  fc := 64
  hdr := BitVec.ofNat 128 (2 ^ 32 + 11 * 2 ^ 10)
  words := [(0, encodeFl false 0 (.vimm false 0 1)), (1, encodeFt false 0 none none (some (.tap false 4 1))),
    (2, encodeFt false 0 none (some (.vadd ⟨false, 12, 0, 0, 0, false⟩)) none),
    (3, encodeFt false 0 none none (some (.tap true 1 0))),
    (row, encodeFt false 0 none (some (.vmov ⟨true, 0, 12, 0, 0, false⟩)) none)]
  ponds := []
  routed := []
  cross := none
  code := []

/-- R77: refused with E02 in cycle 8, where the value is at position 4. -/
theorem test_sched_lane_early : (schedFinds (lanePage 8)).map (·.code) = [2] := by decide +kernel
/-- R77: accepted in cycle 9. -/
theorem test_sched_lane_on_time : schedFinds (lanePage 9) = [] := by decide +kernel
/-- R142: v0 read before the firing writes it. -/
theorem test_sched_unwritten : (schedFinds { lanePage 9 with words := [(2, encodeFt false 0 none
    (some (.vadd ⟨false, 13, 0, 0, 0, false⟩)) none)] }).map (·.code) = [10] := by decide +kernel

end Sys2Proof.Tests
end

/-! PROOFS. Words and instructions: the decoder and the encoder are inverse to each other (R43 to R57, O58). -/

namespace Sys2Proof

open Laws

/-! ## Every constructor's layout is read back -/

theorem Laws.Encoding.all (i : Instr) : Encoding.Statement i := by
  cases i with
  | nop => exact Encoding.nop | guard => exact Encoding.guard
  | mxhdr => exact Encoding.mxhdr _ _ _ _ _ | mxldb => exact Encoding.mxldb _ _ _ _
  | mxldbt => exact Encoding.mxldbt _ _ | mxfeed => exact Encoding.mxfeed _ _ _ _ | mxbub => exact Encoding.mxbub _
  | mxclr => exact Encoding.mxclr _ | mxdrn => exact Encoding.mxdrn _ _ _ _ | mxdrnc => exact Encoding.mxdrnc _ _ _ _
  | mxpair => exact Encoding.mxpair | mxsolo => exact Encoding.mxsolo | mxaccf => exact Encoding.mxaccf _ _ _ _ _
  | mxstat => exact Encoding.mxstat _ _ _ _ | mxswapb => exact Encoding.mxswapb
  | vadd => exact Encoding.vadd _ | vsub => exact Encoding.vsub _ | vmul => exact Encoding.vmul _
  | vfma => exact Encoding.vfma _ | vfms => exact Encoding.vfms _ | vfnma => exact Encoding.vfnma _
  | vmin => exact Encoding.vmin _ | vmax => exact Encoding.vmax _ | vabs => exact Encoding.vabs _
  | vneg => exact Encoding.vneg _ | vrcp => exact Encoding.vrcp _ | vrsq => exact Encoding.vrsq _
  | vsqrt => exact Encoding.vsqrt _ | vexp2 => exact Encoding.vexp2 _ | vlog2 => exact Encoding.vlog2 _
  | vdiv => exact Encoding.vdiv _ | viadd => exact Encoding.viadd _ | visub => exact Encoding.visub _
  | vimul => exact Encoding.vimul _ | vimad => exact Encoding.vimad _ | vimin => exact Encoding.vimin _
  | vimax => exact Encoding.vimax _ | vand => exact Encoding.vand _ | vor => exact Encoding.vor _
  | vxor => exact Encoding.vxor _ | vnot => exact Encoding.vnot _ | vshl => exact Encoding.vshl _
  | vshr => exact Encoding.vshr _ | vsar => exact Encoding.vsar _ | vclz => exact Encoding.vclz _
  | vpopc => exact Encoding.vpopc _ | vcmpeq => exact Encoding.vcmpeq _ | vcmpne => exact Encoding.vcmpne _
  | vcmplt => exact Encoding.vcmplt _ | vcmple => exact Encoding.vcmple _ | vsel => exact Encoding.vsel _
  | vkand => exact Encoding.vkand _ | vkor => exact Encoding.vkor _ | vknot => exact Encoding.vknot _
  | vkmov => exact Encoding.vkmov _ | vcvt => exact Encoding.vcvt _ | vcvtc => exact Encoding.vcvtc _
  | vqnt => exact Encoding.vqnt _ | vdqnt => exact Encoding.vdqnt _ | vpack => exact Encoding.vpack _
  | vunpk => exact Encoding.vunpk _ | vrsum => exact Encoding.vrsum _ | vrmax => exact Encoding.vrmax _
  | vrmin => exact Encoding.vrmin _ | vrsumm => exact Encoding.vrsumm _ | vrscl => exact Encoding.vrscl _
  | vperm => exact Encoding.vperm _ | vbcst => exact Encoding.vbcst _ | vrot => exact Encoding.vrot _
  | vmov => exact Encoding.vmov _ | viota => exact Encoding.viota _ | vrng => exact Encoding.vrng _
  | vdrop => exact Encoding.vdrop _
  | prd => exact Encoding.prd _ _ | pwr => exact Encoding.pwr _ _ | prw => exact Encoding.prw _ _ _
  | padv => exact Encoding.padv _ _ | ptagc => exact Encoding.ptagc _ _ | ldt => exact Encoding.ldt _ _ _
  | stt => exact Encoding.stt _ _ _ | sin => exact Encoding.sin _ _ | sout => exact Encoding.sout _ _
  | tap => exact Encoding.tap _ _ _ | aggo => exact Encoding.aggo _ _ | agstop => exact Encoding.agstop _
  | agld => exact Encoding.agld _ _ | kedge => exact Encoding.kedge _ _ | slck => exact Encoding.slck _ _
  | slfwd => exact Encoding.slfwd _ _ _ | twprm => exact Encoding.twprm _ _ _ _ | poisk => exact Encoding.poisk _
  | vimm => exact Encoding.vimm _ _ _ | vimm64 => exact Encoding.vimm64 _ | vsetm => exact Encoding.vsetm _ _ _ _ _
  | kset => exact Encoding.kset _ _ _ | rngkey => exact Encoding.rngkey _ _ | sclset => exact Encoding.sclset _
  | agcfg => exact Encoding.agcfg _ _ _ _ | agcfg2 => exact Encoding.agcfg2 _ _ _ _ _ _ _
  | hdrset => exact Encoding.hdrset _ _ _ _ _ | dropcfg => exact Encoding.dropcfg _ _
  | mxcfg => exact Encoding.mxcfg _ _ _ _
  | add => exact Encoding.add _ _ _ | sub => exact Encoding.sub _ _ _ | mul => exact Encoding.mul _ _ _
  | mulh => exact Encoding.mulh _ _ _ | mulhu => exact Encoding.mulhu _ _ _ | div => exact Encoding.div _ _ _
  | divu => exact Encoding.divu _ _ _ | rem => exact Encoding.rem _ _ _ | remu => exact Encoding.remu _ _ _
  | and => exact Encoding.and _ _ _ | or => exact Encoding.or _ _ _ | xor => exact Encoding.xor _ _ _
  | andn => exact Encoding.andn _ _ _ | shl => exact Encoding.shl _ _ _ | shr => exact Encoding.shr _ _ _
  | sar => exact Encoding.sar _ _ _ | rotl => exact Encoding.rotl _ _ _ | min => exact Encoding.min _ _ _
  | max => exact Encoding.max _ _ _ | minu => exact Encoding.minu _ _ _ | maxu => exact Encoding.maxu _ _ _
  | clz => exact Encoding.clz _ _ | ctz => exact Encoding.ctz _ _ | popc => exact Encoding.popc _ _
  | bswap => exact Encoding.bswap _ _ | sext => exact Encoding.sext _ _ _ | zext => exact Encoding.zext _ _ _
  | cmpeq => exact Encoding.cmpeq _ _ _ | cmpne => exact Encoding.cmpne _ _ _ | cmplt => exact Encoding.cmplt _ _ _
  | cmpltu => exact Encoding.cmpltu _ _ _ | sel => exact Encoding.sel _ _ _ | mov => exact Encoding.mov _ _
  | addi => exact Encoding.addi _ _ _ | muli => exact Encoding.muli _ _ _ | andi => exact Encoding.andi _ _ _
  | ori => exact Encoding.ori _ _ _ | xori => exact Encoding.xori _ _ _ | shli => exact Encoding.shli _ _ _
  | shri => exact Encoding.shri _ _ _ | sari => exact Encoding.sari _ _ _ | rotli => exact Encoding.rotli _ _ _
  | cmpeqi => exact Encoding.cmpeqi _ _ _ | cmpnei => exact Encoding.cmpnei _ _ _
  | cmplti => exact Encoding.cmplti _ _ _ | cmpltui => exact Encoding.cmpltui _ _ _
  | mini => exact Encoding.mini _ _ _ | maxi => exact Encoding.maxi _ _ _
  | limm => exact Encoding.limm _ _ | limmz => exact Encoding.limmz _ _ | limmh => exact Encoding.limmh _ _
  | beq => exact Encoding.beq _ _ _ | bne => exact Encoding.bne _ _ _ | blt => exact Encoding.blt _ _ _
  | bge => exact Encoding.bge _ _ _ | bltu => exact Encoding.bltu _ _ _ | bgeu => exact Encoding.bgeu _ _ _
  | bz => exact Encoding.bz _ _ | bnz => exact Encoding.bnz _ _ | jmp => exact Encoding.jmp _
  | jal => exact Encoding.jal _ _ | jalr => exact Encoding.jalr _ _ _
  | ld => exact Encoding.ld _ | lds => exact Encoding.lds _ | st => exact Encoding.st _ | amo => exact Encoding.amo _
  | cas => exact Encoding.cas _ | fence => exact Encoding.fence _ | enq => exact Encoding.enq _
  | seqw => exact Encoding.seqw _
  | trap => exact Encoding.trap _ | svc => exact Encoding.svc _ | hend => exact Encoding.hend
  | getcr => exact Encoding.getcr _ _ | setcr => exact Encoding.setcr _ _ | rdcyc => exact Encoding.rdcyc _
  | waitev => exact Encoding.waitev _ _ _ | tlsig => exact Encoding.tlsig _ _ _ | tlwt => exact Encoding.tlwt _ _ _ _
  | tlset => exact Encoding.tlset _ _ | depdec => exact Encoding.depdec _ _ | depset => exact Encoding.depset _ _
  | launch => exact Encoding.launch _ _ | publ => exact Encoding.publ _ _ | snap => exact Encoding.snap _ _
  | unsnap => exact Encoding.unsnap _ _ | finsp => exact Encoding.finsp _ _ _ | fpatch => exact Encoding.fpatch _ _ _
  | fres => exact Encoding.fres _ | fkill => exact Encoding.fkill _ _ | fstep => exact Encoding.fstep _ _
  | fclrp => exact Encoding.fclrp _ _ | hcapq => exact Encoding.hcapq _ _ | hcapdrop => exact Encoding.hcapdrop _
  | condset => exact Encoding.condset _ | iterwt => exact Encoding.iterwt _ _
  | kickscan => exact Encoding.kickscan _ _ | kickscanClear => exact Encoding.kickscanClear _ _
  | jrnl => exact Encoding.jrnl _ _ _ _ | wdog => exact Encoding.wdog _ | halt => exact Encoding.halt
  | sluice => exact Encoding.sluice _ _ _ | rngc => exact Encoding.rngc _ _ _
  | shpfence => exact Encoding.shpfence _ _ | pagepl => exact Encoding.pagepl _ _ _
  | memoryReply | homeWritePerform | writeAck | fenceComplete | seqwRelease | seqwTimeout | waitevRelease |
  tlwtRelease | tlwtTimeout | foldComplete | condsetRelease | iterwtRelease | popCondition | firingDone | weirFire |
  commSuperstepStart | retirement | frameStart | arcWaitTimeout | act | pre | prea | rd | wr | wrc | ref | repair |
  openRec | twstep | timelineEnd | kick | recgo | endrWrite | pctlEval | pctlKill | pctlCheckpoint | restore |
  restorePerformed | drainlimExpiry | preemptKill | checkpoint | thermalFreeze | killall | endgraph | redispatch |
  arm | close | windowDeadline | resume | skip | cool | warm | off | trainingReadTest | trainingWriteTest |
  trainingTestDone | lrepWrite | degrClear | rangeEntryWrite | imageTableEdit | routeEntryWrite | ridxWrite |
  migctlWrite | queueLimitWrite | registerWrite | quote | keyload | keyclr | hostMailboxWrite | powerOnReset |
  thermalSample | settleComplete | cdrateWindow | watchdogExpiry | takeoverSpawn | handlerSpawn | faultRecordGrant |
  poolFull | reportDeadline | copyEntryStart | copyEntryComplete | requestRecordResend | orderedLineArrival |
  lineGiveUp | runoffBlockArrival | arcCommit | arcAbort | arcDenial | creditRecord | requestRecordArrival |
  remoteAtomicArrival | laneRepairStart | laneRetrainDone | gatewayRefill | scrubPass | powerStateEnter |
  powerStateWake | imageLoad | pageRemoval | serviceThreadSpawn | portUp | powerLoss | flashWrite | versionFuseBlow |
  remapTableReload | repairRecordWrite | dynamicModeRefresh =>
    exact Encoding.no_word rfl

theorem hasWord_iff {i : Instr} : hasWord i = true ↔ form i ≠ .none := by
  unfold hasWord
  split
  · next h => simp [h]
  · next h => simpa using h

theorem readForm_form {i : Instr} (h : form i ≠ .none) : readForm (form i) = some i :=
  (Encoding.all i (hasWord_iff.2 h)).1

theorem form_fits {i : Instr} (h : form i ≠ .none) : (form i).Fits :=
  (Encoding.all i (hasWord_iff.2 h)).2

theorem readChecked_form {i : Instr} (h : form i ≠ .none) (hw : wellFormed i = true) :
    readChecked (form i) = some i := by
  unfold readChecked
  rw [readForm_form h]
  simp [hw]

theorem of_readChecked {f : Form} {i : Instr} (h : readChecked f = some i) : form i = f ∧ wellFormed i = true := by
  unfold readChecked at h
  split at h
  · split at h
    · next hc =>
      cases h
      rw [Bool.and_eq_true, decide_eq_true_eq] at hc
      exact ⟨hc.2, hc.1⟩
    · cases h
  · cases h

/-! ## A layout and its bits -/

theorem toNat_bit (n lo : Nat) : (decide (bitsOf n lo 1 = 1)).toNat = bitsOf n lo 1 := by
  rcases Nat.mod_two_eq_zero_or_one (n / 2 ^ lo) with h | h <;> simp [bitsOf, h]

theorem toNat_bits (n lo len : Nat) : (BitVec.ofNat len (bitsOf n lo len)).toNat = bitsOf n lo len := by
  rw [BitVec.toNat_ofNat, bitsOf, Nat.mod_mod]

theorem encodeForm_m {op acc src md imm : Nat} (h : (Form.m op acc src md imm).Fits) :
    0 < encodeForm (.m op acc src md imm) ∧ encodeForm (.m op acc src md imm) < 2 ^ 24 ∧
      mForm (encodeForm (.m op acc src md imm)) = .m op acc src md imm := by
  obtain ⟨h0, hop, hacc, hsrc, hmd, himm⟩ := h
  simp only [mForm, encodeForm, bitsOf, pack_cons, pack_nil, Form.m.injEq]
  omega

theorem encodeForm_v {op : Nat} {o : VArgs} (h : (Form.v op o).Fits) :
    0 < encodeForm (.v op o) ∧ encodeForm (.v op o) < 2 ^ 24 ∧ vForm (encodeForm (.v op o)) = .v op o := by
  obtain ⟨h0, hop⟩ := h
  obtain ⟨st, vd, va, vb, k, x⟩ := o
  have := Bool.toNat_le st; have := vd.isLt; have := va.isLt; have := vb.isLt; have := k.isLt
  have := Bool.toNat_le x
  simp only [vForm, Form.v.injEq, VArgs.mk.injEq]
  refine ⟨?_, ?_, ?_, bool_of _ _ ?_, bv_of _ _ ?_, bv_of _ _ ?_, bv_of _ _ ?_, bv_of _ _ ?_, bool_of _ _ ?_⟩ <;>
    (simp only [encodeForm, bitsOf, pack_cons, pack_nil]; omega)

theorem encodeForm_s {op pd sp simm : Nat} (h : (Form.s op pd sp simm).Fits) :
    0 < encodeForm (.s op pd sp simm) ∧ encodeForm (.s op pd sp simm) < 2 ^ 24 ∧
      sForm (encodeForm (.s op pd sp simm)) = .s op pd sp simm := by
  obtain ⟨h0, hop, hpd, hsp, himm⟩ := h
  simp only [sForm, encodeForm, bitsOf, pack_cons, pack_nil, Form.s.injEq]
  omega

theorem encodeForm_ctl_lt (cls op d rest : Nat) : encodeForm (.ctl cls op d rest) < 2 ^ 80 := by
  simp only [encodeForm, pack_cons, pack_nil]
  omega

theorem ctlForm_encodeForm {cls op d rest : Nat} (h : (Form.ctl cls op d rest).Fits) :
    ctlForm (encodeForm (.ctl cls op d rest)) = .ctl cls op d rest := by
  obtain ⟨hlo, hhi, hop, hd, hrest⟩ := h
  simp only [ctlForm, encodeForm, bitsOf, pack_cons, pack_nil, Form.ctl.injEq]
  omega

theorem encodeForm_mForm {w : Nat} (h : w < 2 ^ 24) : encodeForm (mForm w) = w := by
  simp only [mForm, encodeForm, bitsOf, pack_cons, pack_nil]
  omega

theorem encodeForm_sForm {w : Nat} (h : w < 2 ^ 24) : encodeForm (sForm w) = w := by
  simp only [sForm, encodeForm, bitsOf, pack_cons, pack_nil]
  omega

theorem encodeForm_vForm {w : Nat} (h : w < 2 ^ 24) : encodeForm (vForm w) = w := by
  simp only [vForm, encodeForm, toNat_bit, toNat_bits]
  simp only [bitsOf, pack_cons, pack_nil]
  omega

theorem encodeForm_ctlForm {w : Nat} (h : w < 2 ^ 80) : encodeForm (ctlForm w) = w := by
  simp only [ctlForm, encodeForm, bitsOf, pack_cons, pack_nil]
  omega

end Sys2Proof

namespace Sys2Proof.Machine

open Laws

/-! ## The three slots of an FT word (R46, R47) -/

/-- The layout of slot n of an FT word. -/
def slotForm : Nat → Nat → Form
  | 0 => mForm
  | 1 => vForm
  | _ => sForm

theorem encodeForm_slotForm (n : Nat) {w : Nat} (h : w < 2 ^ 24) : encodeForm (slotForm n w) = w := by
  unfold slotForm
  split
  · exact encodeForm_mForm h
  · exact encodeForm_vForm h
  · exact encodeForm_sForm h

/-- An instruction of a slot: its word is not the empty slot's, it is 24 bits long, and its layout is read back. -/
theorem InSlot.word {n : Nat} {i : Instr} (h : InSlot n i) :
    form i ≠ .none ∧ 0 < encodeForm (form i) ∧ encodeForm (form i) < 2 ^ 24 ∧
      slotForm n (encodeForm (form i)) = form i := by
  obtain ⟨hslot, -⟩ := h
  have hfits : form i ≠ .none → (form i).Fits := form_fits
  unfold slotOfInstr at hslot
  split at hslot
  case h_1 hf =>
    cases hslot
    rw [hf] at hfits ⊢
    exact ⟨Form.noConfusion, encodeForm_m (hfits Form.noConfusion)⟩
  case h_2 hf =>
    cases hslot
    rw [hf] at hfits ⊢
    exact ⟨Form.noConfusion, encodeForm_v (hfits Form.noConfusion)⟩
  case h_3 hf =>
    cases hslot
    rw [hf] at hfits ⊢
    exact ⟨Form.noConfusion, encodeForm_s (hfits Form.noConfusion)⟩
  case h_4 => cases hslot

theorem inSlot_of_form {n w : Nat} {i : Instr} (hn : n < 3) (hf : form i = slotForm n w) (hw : wellFormed i = true) :
    InSlot n i := by
  refine ⟨?_, hw⟩
  unfold slotOfInstr
  rw [hf]
  match n, hn with
  | 0, _ => rfl
  | 1, _ => rfl
  | 2, _ => rfl

theorem inSlot_none (n : Nat) (i : Instr) (h : none = some i) : InSlot n i := by
  cases h

theorem inSlot_some {n : Nat} {i : Instr} (hin : InSlot n i) (j : Instr) (h : some i = some j) : InSlot n j := by
  cases h
  exact hin

theorem encodeSlot_lt {n : Nat} {x : Option Instr} (h : ∀ i, x = some i → InSlot n i) : encodeSlot x < 2 ^ 24 := by
  cases x with
  | none => decide
  | some i =>
    obtain ⟨-, -, hlt, -⟩ := (h i rfl).word
    exact hlt

theorem slotOf_encodeSlot {n : Nat} {x : Option Instr} (bad : BadWord) (h : ∀ i, x = some i → InSlot n i) :
    slotOf bad (encodeSlot x) (slotForm n (encodeSlot x)) = .ok x := by
  unfold slotOf
  cases x with
  | none => rfl
  | some i =>
    have hin := h i rfl
    obtain ⟨hne, hpos, -, hform⟩ := hin.word
    rw [if_neg (show encodeSlot (some i) ≠ 0 from Nat.ne_of_gt hpos),
      show slotForm n (encodeSlot (some i)) = form i from hform, readChecked_form hne hin.2]

theorem of_slotOf {n w : Nat} {bad : BadWord} {x : Option Instr} (hn : n < 3) (hw : w < 2 ^ 24)
    (h : slotOf bad w (slotForm n w) = .ok x) : (∀ i, x = some i → InSlot n i) ∧ encodeSlot x = w := by
  unfold slotOf at h
  split at h
  · next h0 =>
    cases h
    exact ⟨inSlot_none n, h0.symm⟩
  · split at h
    · next i hi =>
      cases h
      obtain ⟨hform, hwf⟩ := of_readChecked hi
      refine ⟨fun j hj => ?_, ?_⟩
      · cases hj
        exact inSlot_of_form hn hform hwf
      · show encodeForm (form i) = w
        rw [hform, encodeForm_slotForm n hw]
    · cases h

/-! ## The decoder, class by class (R43) -/

theorem decode_ft {w : Nat} {m v x : Option Instr} (hc : classOf w = 1)
    (hm : slotOf .mSlot (bitsOf w 48 24) (slotForm 0 (bitsOf w 48 24)) = .ok m)
    (hv : slotOf .vSlot (bitsOf w 24 24) (slotForm 1 (bitsOf w 24 24)) = .ok v)
    (hx : slotOf .sSlot (bitsOf w 0 24) (slotForm 2 (bitsOf w 0 24)) = .ok x) :
    decode w = .ok (.ft (decide (bitsOf w 75 1 = 1)) (BitVec.ofNat 3 (bitsOf w 72 3)) m v x) := by
  simp only [slotForm] at hm hv hx
  simp only [decode, hc, hm, hv, hx]

theorem decode_fl {w : Nat} {i : Instr} (hc : classOf w = 2)
    (hi : readChecked (.long (bitsOf w 64 8) (bitsOf w 0 64)) = some i) :
    decode w = .ok (.fl (decide (bitsOf w 75 1 = 1)) (BitVec.ofNat 3 (bitsOf w 72 3)) i) := by
  simp only [decode, hc, hi]

theorem decode_ctl {w : Nat} {i : Instr} (hlo : 8 ≤ classOf w) (hhi : classOf w ≤ 13)
    (hi : readChecked (ctlForm w) = some i) : decode w = .ok (.ctl i) := by
  unfold decode
  split
  case h_11 => rw [hi]
  all_goals omega

/-- What a word that decodes is, class by class. -/
theorem decode_cases {w : Nat} {f : Fetched} (h : decode w = .ok f) :
    (w % 2 ^ 80 = 0 ∧ f = .nul) ∨ (w % 2 ^ 80 = 2 ^ 80 - 1 ∧ f = .guard) ∨
    (classOf w = 1 ∧ ∃ m v x, slotOf .mSlot (bitsOf w 48 24) (slotForm 0 (bitsOf w 48 24)) = .ok m ∧
      slotOf .vSlot (bitsOf w 24 24) (slotForm 1 (bitsOf w 24 24)) = .ok v ∧
      slotOf .sSlot (bitsOf w 0 24) (slotForm 2 (bitsOf w 0 24)) = .ok x ∧
      f = .ft (decide (bitsOf w 75 1 = 1)) (BitVec.ofNat 3 (bitsOf w 72 3)) m v x) ∨
    (classOf w = 2 ∧ ∃ i, readChecked (.long (bitsOf w 64 8) (bitsOf w 0 64)) = some i ∧
      f = .fl (decide (bitsOf w 75 1 = 1)) (BitVec.ofNat 3 (bitsOf w 72 3)) i) ∨
    ∃ i, readChecked (ctlForm w) = some i ∧ f = .ctl i := by
  unfold decode at h
  dsimp only at h
  split at h
  case h_1 =>
    split at h <;> cases h
    next h0 => exact .inl ⟨h0, rfl⟩
  case h_2 hc =>
    split at h
    · cases h
    next m hm =>
      split at h
      · cases h
      next v hv =>
        split at h
        · cases h
        next x hx =>
          cases h
          exact .inr (.inr (.inl ⟨hc, m, v, x, hm, hv, hx, rfl⟩))
  case h_3 hc =>
    split at h <;> cases h
    next i hi => exact .inr (.inr (.inr (.inl ⟨hc, i, hi, rfl⟩)))
  case h_10 =>
    split at h <;> cases h
    next h1 => exact .inr (.inl ⟨h1, rfl⟩)
  case h_11 =>
    split at h <;> cases h
    next i hi => exact .inr (.inr (.inr (.inr ⟨i, hi, rfl⟩)))
  all_goals cases h

/-! ## The fields of the encoder's words -/

theorem encodeFt_fields (g : Bool) (k : BitVec 3) {m v x : Option Instr} (hm : encodeSlot m < 2 ^ 24)
    (hv : encodeSlot v < 2 ^ 24) (hx : encodeSlot x < 2 ^ 24) :
    encodeFt g k m v x < 2 ^ 80 ∧ classOf (encodeFt g k m v x) = 1 ∧
    decide (bitsOf (encodeFt g k m v x) 75 1 = 1) = g ∧ BitVec.ofNat 3 (bitsOf (encodeFt g k m v x) 72 3) = k ∧
    bitsOf (encodeFt g k m v x) 48 24 = encodeSlot m ∧ bitsOf (encodeFt g k m v x) 24 24 = encodeSlot v ∧
    bitsOf (encodeFt g k m v x) 0 24 = encodeSlot x := by
  have := Bool.toNat_le g
  have := k.isLt
  refine ⟨?_, ?_, bool_of _ _ ?_, bv_of _ _ ?_, ?_, ?_, ?_⟩ <;>
    (simp only [encodeFt, classOf, bitsOf, pack_cons, pack_nil]; omega)

theorem encodeFt_of_bits {w : Nat} {m v x : Option Instr} (hw : w < 2 ^ 80) (hc : classOf w = 1)
    (hm : encodeSlot m = bitsOf w 48 24) (hv : encodeSlot v = bitsOf w 24 24) (hx : encodeSlot x = bitsOf w 0 24) :
    encodeFt (decide (bitsOf w 75 1 = 1)) (BitVec.ofNat 3 (bitsOf w 72 3)) m v x = w := by
  unfold encodeFt
  rw [hm, hv, hx, toNat_bit, toNat_bits]
  simp only [classOf, bitsOf, pack_cons, pack_nil] at hc ⊢
  omega

theorem encodeFl_fields (g : Bool) (k : BitVec 3) {i : Instr} {l p : Nat} (hf : form i = .long l p)
    (hfits : (Form.long l p).Fits) :
    encodeFl g k i < 2 ^ 80 ∧ classOf (encodeFl g k i) = 2 ∧
    decide (bitsOf (encodeFl g k i) 75 1 = 1) = g ∧ BitVec.ofNat 3 (bitsOf (encodeFl g k i) 72 3) = k ∧
    bitsOf (encodeFl g k i) 64 8 = l ∧ bitsOf (encodeFl g k i) 0 64 = p := by
  obtain ⟨hl, hp⟩ := hfits
  have := Bool.toNat_le g
  have := k.isLt
  unfold encodeFl
  rw [hf]
  refine ⟨?_, ?_, bool_of _ _ ?_, bv_of _ _ ?_, ?_, ?_⟩ <;>
    (simp only [encodeForm, classOf, bitsOf, pack_cons, pack_nil]; omega)

theorem encodeFl_of_bits {w : Nat} {i : Instr} (hw : w < 2 ^ 80) (hc : classOf w = 2)
    (hf : form i = .long (bitsOf w 64 8) (bitsOf w 0 64)) :
    encodeFl (decide (bitsOf w 75 1 = 1)) (BitVec.ofNat 3 (bitsOf w 72 3)) i = w := by
  unfold encodeFl
  rw [hf, toNat_bit, toNat_bits]
  simp only [encodeForm, classOf, bitsOf, pack_cons, pack_nil] at hc ⊢
  omega

/-! ## From a decoded word to its bits and back -/

theorem wordOf_ft (g : Bool) (k : BitVec 3) (m v x : Option Instr) : wordOf (.ft g k m v x) = encodeFt g k m v x := rfl
theorem wordOf_fl (g : Bool) (k : BitVec 3) (i : Instr) : wordOf (.fl g k i) = encodeFl g k i := rfl
theorem wordOf_ctl (i : Instr) : wordOf (.ctl i) = encodeForm (form i) := rfl

theorem decode_wordOf (f : Fetched) (h : Legal f) : wordOf f < 2 ^ 80 ∧ decode (wordOf f) = .ok f := by
  cases f with
  | nul => exact ⟨by decide, rfl⟩
  | guard => exact ⟨by decide, rfl⟩
  | ft g k m v x =>
    obtain ⟨hm, hv, hx⟩ := h
    obtain ⟨hlt, hc, hg, hk, bm, bv, bx⟩ := encodeFt_fields g k (encodeSlot_lt hm) (encodeSlot_lt hv) (encodeSlot_lt hx)
    refine ⟨hlt, ?_⟩
    rw [wordOf_ft, decode_ft hc (m := m) (v := v) (x := x) (by rw [bm]; exact slotOf_encodeSlot _ hm)
      (by rw [bv]; exact slotOf_encodeSlot _ hv) (by rw [bx]; exact slotOf_encodeSlot _ hx), hg, hk]
  | fl g k i =>
    obtain ⟨⟨l, p, hf⟩, hwf⟩ := h
    have hne : form i ≠ .none := hf ▸ Form.noConfusion
    obtain ⟨hlt, hc, hg, hk, bl, bp⟩ := encodeFl_fields g k hf (hf ▸ form_fits hne)
    refine ⟨hlt, ?_⟩
    rw [wordOf_fl, decode_fl hc (i := i) (by rw [bl, bp, ← hf]; exact readChecked_form hne hwf), hg, hk]
  | ctl i =>
    obtain ⟨⟨c, o, d, r, hf⟩, hwf⟩ := h
    have hne : form i ≠ .none := hf ▸ Form.noConfusion
    have hfits : (Form.ctl c o d r).Fits := hf ▸ form_fits hne
    have hform : ctlForm (encodeForm (form i)) = form i := by rw [hf]; exact ctlForm_encodeForm hfits
    have hclass : classOf (encodeForm (form i)) = c := (Form.ctl.inj (hform.trans hf)).1
    obtain ⟨hlo, hhi, -⟩ := hfits
    refine ⟨?_, decode_ctl (hclass ▸ hlo) (hclass ▸ hhi) (hform ▸ readChecked_form hne hwf)⟩
    rw [wordOf_ctl, hf]
    exact encodeForm_ctl_lt c o d r

theorem wordOf_of_decode {w : Nat} {f : Fetched} (hw : w < 2 ^ 80) (h : decode w = .ok f) :
    Legal f ∧ wordOf f = w := by
  have hbits (lo : Nat) : bitsOf w lo 24 < 2 ^ 24 := Nat.mod_lt _ (by decide)
  rcases decode_cases h with ⟨h0, rfl⟩ | ⟨h1, rfl⟩ | ⟨hc, m, v, x, hm, hv, hx, rfl⟩ | ⟨hc, i, hi, rfl⟩ | ⟨i, hi, rfl⟩
  · rw [Nat.mod_eq_of_lt hw] at h0
    exact ⟨trivial, h0.symm⟩
  · rw [Nat.mod_eq_of_lt hw] at h1
    exact ⟨trivial, h1.symm⟩
  · obtain ⟨lm, em⟩ := of_slotOf (by decide) (hbits 48) hm
    obtain ⟨lv, ev⟩ := of_slotOf (by decide) (hbits 24) hv
    obtain ⟨lx, ex⟩ := of_slotOf (by decide) (hbits 0) hx
    exact ⟨⟨lm, lv, lx⟩, encodeFt_of_bits hw hc em ev ex⟩
  · obtain ⟨hf, hwf⟩ := of_readChecked hi
    exact ⟨⟨⟨_, _, hf⟩, hwf⟩, encodeFl_of_bits hw hc hf⟩
  · obtain ⟨hf, hwf⟩ := of_readChecked hi
    refine ⟨⟨⟨_, _, _, _, hf⟩, hwf⟩, ?_⟩
    rw [wordOf_ctl, hf, encodeForm_ctlForm hw]

theorem encodeFl_unguarded (i : Instr) : encodeFl false 0 i = encodeForm (form i) := by
  have hguard : pack [(3, (0 : BitVec 3).toNat), (1, false.toNat)] = 0 := rfl
  rw [encodeFl, hguard, Nat.mul_zero, Nat.add_zero]

/-- The word of an instruction that stands alone is the word of a legal decoded word with that one instruction. -/
theorem encode_eq_wordOf {i : Instr} (hne : form i ≠ .none) (hwf : wellFormed i = true) :
    ∃ f, Legal f ∧ wordOf f = encode i ∧ f.first = some i := by
  have hread := readForm_form hne
  cases hf : form i with
  | m =>
    have hin : InSlot 0 i := ⟨by rw [slotOfInstr, hf], hwf⟩
    refine ⟨.ft false 0 (some i) none none, ⟨inSlot_some hin, inSlot_none 1, inSlot_none 2⟩, ?_, rfl⟩
    simp only [wordOf_ft, encode, hf]
  | v =>
    have hin : InSlot 1 i := ⟨by rw [slotOfInstr, hf], hwf⟩
    refine ⟨.ft false 0 none (some i) none, ⟨inSlot_none 0, inSlot_some hin, inSlot_none 2⟩, ?_, rfl⟩
    simp only [wordOf_ft, encode, hf]
  | s =>
    have hin : InSlot 2 i := ⟨by rw [slotOfInstr, hf], hwf⟩
    refine ⟨.ft false 0 none none (some i), ⟨inSlot_none 0, inSlot_none 1, inSlot_some hin⟩, ?_, rfl⟩
    simp only [wordOf_ft, encode, hf]
  | long l p => exact ⟨.fl false 0 i, ⟨⟨l, p, hf⟩, hwf⟩, by simp only [wordOf_fl, encodeFl_unguarded, encode, hf], rfl⟩
  | ctl c o d r => exact ⟨.ctl i, ⟨⟨c, o, d, r, hf⟩, hwf⟩, by simp only [wordOf_ctl, encode, hf], rfl⟩
  | nul =>
    rw [hf] at hread
    exact ⟨.nul, trivial, by rw [encode, hf]; rfl, hread⟩
  | guard =>
    rw [hf] at hread
    exact ⟨.guard, trivial, by rw [encode, hf]; rfl, hread⟩
  | none => exact absurd hf hne

theorem decodeTableWord_encode {i : Instr} (hne : form i ≠ .none) (hwf : wellFormed i = true) :
    decodeTableWord 80 (encode i) = some i := by
  obtain ⟨f, hlegal, hword, hfirst⟩ := encode_eq_wordOf hne hwf
  obtain ⟨hlt, hdec⟩ := decode_wordOf f hlegal
  rw [← hword]
  unfold decodeTableWord
  rw [Nat.mod_eq_of_lt hlt, hdec]
  exact hfirst

/-- Settles O58: each layout is read back from its bits and each bit pattern is written again from its layout; the slots
and classes of a word carry both over to whole words. -/
theorem decodeAndEncodeAgree : Obligations.DecodeAndEncodeAgree :=
  ⟨decode_wordOf, fun _ _ => wordOf_of_decode, fun _ hword hwf => decodeTableWord_encode (hasWord_iff.1 hword) hwf⟩

end Sys2Proof.Machine

/-! PROOFS. What every arm of the dispatch keeps, and so every step (O59). -/

namespace Sys2Proof.Machine

section

variable {init : State}

theorem execMov_kept (d a : BitVec 6) (s : State) (hs : Kept init s) : Keeps init (execMov d a s) :=
  onThread_kept _ _ _ hs fun _ _ => State.setThread_kept _ _ _ hs

theorem execFence_kept (m : MemArgs) (s : State) (hs : Kept init s) : Keeps init (execFence m s) :=
  onThread_kept _ _ _ hs fun _ _ =>
    kept_ite (fun _ => State.stepOn_kept _ _ hs) fun _ => State.waitFor_kept _ _ _ hs

theorem execGetcr_kept (d : BitVec 6) (cr : BitVec 12) (s : State) (hs : Kept init s) :
    Keeps init (execGetcr d cr s) := by
  refine onThread_kept _ _ _ hs fun t T => ?_
  split
  · exact State.setThread_kept _ _ _ hs
  · exact State.freezeThread_kept _ _ _ _ hs

theorem execSetcr_kept (a : BitVec 6) (cr : BitVec 12) (s : State) (hs : Kept init s) :
    Keeps init (execSetcr a cr s) := by
  refine onThread_kept _ _ _ hs fun t T => ?_
  split
  · next hw => exact State.stepOn_kept _ _ (kept_of_ok (State.crWrite_kept _ _ _ _ _ hs) hw)
  · exact State.freezeThread_kept _ _ _ _ hs

theorem execRdcyc_kept (d : BitVec 6) (s : State) (hs : Kept init s) : Keeps init (execRdcyc d s) :=
  onThread_kept _ _ _ hs fun _ _ => State.afterRelease_kept _ _ _ _ hs fun _ => State.setThread_kept _ _ _

/-! ## The instructions of a capability (R223 to R229): held until the unit is settled, else done or frozen -/

theorem execFinsp_kept (d a b : BitVec 6) (s : State) (hs : Kept init s) : Keeps init (execFinsp d a b s) := by
  refine onCap_kept _ _ _ _ hs fun t T f => kept_ite (fun _ => State.retryNext_kept _ _ hs) fun _ => ?_
  split
  · exact State.stepWith_kept _ _ _ _ hs
  · exact State.freezeCap_kept _ _ _ hs

theorem execFpatch_kept (d a b : BitVec 6) (s : State) (hs : Kept init s) : Keeps init (execFpatch d a b s) := by
  refine onCap_kept _ _ _ _ hs fun t T f => kept_ite (fun _ => State.retryNext_kept _ _ hs) fun _ => ?_
  split
  · next hp => exact State.stepOn_kept _ _ (kept_of_some (State.patch_kept _ _ _ _ hs) hp)
  · exact State.freezeCap_kept _ _ _ hs

theorem execFclrp_kept (a b : BitVec 6) (s : State) (hs : Kept init s) : Keeps init (execFclrp a b s) := by
  refine onCap_kept _ _ _ _ hs fun t T f => ?_
  split
  · next hp => exact State.stepOn_kept _ _ (kept_of_some (State.clearPoison_kept _ _ _ hs) hp)
  · exact State.freezeCap_kept _ _ _ hs

theorem execFstep_kept (d a : BitVec 6) (s : State) (hs : Kept init s) : Keeps init (execFstep d a s) := by
  refine onCap_kept _ _ _ _ hs fun t T f => ?_
  split
  · exact State.fstep_kept _ _ _ _ hs
  · exact State.freezeCap_kept _ _ _ hs

theorem execFres_kept (a : BitVec 6) (s : State) (hs : Kept init s) : Keeps init (execFres a s) := by
  have hr : ∀ (f : Freeze) (v : State), Kept init v → Kept init ((v.spend f).resumeUnit f) :=
    fun f v hv => State.resumeUnit_kept _ _ (State.spend_kept _ _ hv)
  refine onCap_kept _ _ _ _ hs fun t T f => ?_
  split
  · exact kept_ite
      (fun _ => State.afterHeld_kept _ _ _ hs fun v hv => State.stepOn_kept _ _ (State.setWf_kept _ _ _ _ _ (hr f v hv)))
      fun _ => State.stepOn_kept _ _ (State.setWf_kept _ _ _ _ _ (hr f s hs))
  · exact State.stepOn_kept _ _ (State.preheldResume_kept _ _ (hr f s hs))

theorem execFkill_kept (a : BitVec 6) (relocate : Bool) (s : State) (hs : Kept init s) :
    Keeps init (execFkill a relocate s) := by
  refine onCap_kept _ _ _ _ hs fun t T f => ?_
  have hcap : Kept init (s.freezeCap t 5) := State.freezeCap_kept _ _ _ hs
  have hspend : Kept init (((s.spend f).killUnit f.unit false).stepOn t) :=
    State.stepOn_kept _ _ (State.killUnit_kept _ _ _ (State.spend_kept _ _ hs))
  have hfire : Kept init ((((s.spendKill f).killUnit f.unit relocate).preheldKill f.part).stepOn t) :=
    State.stepOn_kept _ _ (State.preheldKill_kept _ _ (State.killUnit_kept _ _ _ (State.spendKill_kept _ _ hs)))
  split
  case h_1 => exact hfire
  case h_2 => exact hfire
  case h_3 => exact kept_ite (fun _ => hcap) fun _ => kept_ite (fun _ => State.finishTakeover_kept _ _ _ hs) fun _ => hspend
  case h_4 p =>
    exact kept_ite (fun _ => hcap) fun _ =>
      State.stepOn_kept _ _ (State.spend_kept _ _ (State.killPartition_kept _ _ _ _ hs))
  case h_5 => exact kept_ite (fun _ => hcap) fun _ => hspend

/-! ## Every arm of the dispatch, and the step -/

/-- Each instruction, operation and event is one of the shared operations, applied to an update that keeps. -/
theorem exec_kept (i : Instr) (s : State) (hs : Kept init s) : Keeps init (exec i s) := by
  unfold exec
  cases i with
  | add | sub | mul | mulh | mulhu | and | or | xor | andn | shl | shr | sar | rotl | min | max | minu | maxu | clz |
  ctz | popc | bswap | sext | zext | cmpeq | cmpne | cmplt | cmpltu | sel | addi | muli | andi | ori | xori | shli |
  shri | sari | rotli | cmpeqi | cmpnei | cmplti | cmpltui | mini | maxi | limm | limmz | limmh =>
    exact regOp_kept _ _ _ _ hs
  | div | divu | rem | remu => exact divOp_kept _ _ _ _ _ hs
  | beq | bne | blt | bge | bltu | bgeu | bz | bnz | jmp => exact branchOp_kept _ _ _ hs
  | jal | jalr => exact linkOp_kept _ _ _ hs
  | mxbub | mxaccf | mxstat | mxswapb | vadd | vsub | vmul | vfma | vfms | vfnma | vmin | vmax | vabs | vneg | vrcp |
  vrsq | vsqrt | vexp2 | vlog2 | vdiv | viadd | visub | vimul | vimad | vimin | vimax | vand | vor | vxor | vnot |
  vshl | vshr | vsar | vclz | vpopc | vcmpeq | vcmpne | vcmplt | vcmple | vsel | vkand | vkor | vknot | vkmov | vcvt
  | vcvtc | vqnt | vdqnt | vpack | vunpk | vrsum | vrmax | vrmin | vrsumm | vrscl | vperm | vbcst | vrot | vmov |
  viota | vrng | vdrop | ldt | sin | tap | agstop | slck | poisk =>
    exact tileOp1_kept _ _ hs
  | mxhdr | mxldb | mxldbt | mxclr | prd | pwr | padv | ptagc | stt | aggo | agld => exact tileOp_kept _ _ hs
  | mxfeed | mxdrn | mxdrnc | mxpair | mxsolo | prw | sout | kedge | slfwd | twprm => exact onFabric_kept _ _ hs
  | vimm | vimm64 | vsetm | kset | rngkey | sclset | agcfg | agcfg2 | hdrset | dropcfg | mxcfg =>
    exact longOp_kept _ _ _ hs
  | queueLimitWrite | registerWrite => exact windowRow_kept _ _ _ hs
  | nop => exact execNop_kept _ hs
  | guard => exact execGuard_kept _ hs
  | mov => exact execMov_kept _ _ _ hs
  | ld | lds => exact onThread_kept _ _ _ hs fun _ _ => State.load_kept _ _ _ _ _ hs
  | st => exact onThread_kept _ _ _ hs fun _ _ => State.store_kept _ _ _ _ hs
  | amo => exact onThread_kept _ _ _ hs fun _ _ => State.amo_kept _ _ _ _ hs
  | cas => exact onThread_kept _ _ _ hs fun _ _ => State.cas_kept _ _ _ _ hs
  | fence => exact execFence_kept _ _ hs
  | enq => exact onThread_kept _ _ _ hs fun _ _ => State.enq_kept _ _ _ _ hs
  | seqw => exact onThread_kept _ _ _ hs fun _ _ => State.seqw_kept _ _ _ _ hs
  | memoryReply => exact hubOp_kept _ (State.memoryReply_kept _ _ _ _ hs)
  | homeWritePerform => exact hubOp_kept _ (State.homePerform_kept _ _ hs)
  | writeAck => exact hubOp_kept _ (State.writeAck_kept _ _ _ _ hs)
  | fenceComplete => exact hubOp_kept _ (State.fenceComplete_kept _ _ hs)
  | seqwRelease => exact hubOp_kept _ (State.seqwRelease_kept _ _ hs)
  | seqwTimeout => exact hubOp_kept _ (State.seqwTimeout_kept _ _ hs)
  | trap | svc => exact onThread_kept _ _ _ hs fun _ _ => State.trap_kept _ _ _ _ hs
  | hend => exact onThread_kept _ _ _ hs fun _ _ => State.hend_kept _ _ _ hs
  | getcr => exact execGetcr_kept _ _ _ hs
  | setcr => exact execSetcr_kept _ _ _ hs
  | rdcyc => exact execRdcyc_kept _ _ hs
  | waitev => exact onThread_kept _ _ _ hs fun _ _ => State.waitev_kept _ _ _ _ _ _ hs
  | waitevRelease => exact hubOp_kept _ (State.waitevRelease_kept _ _ hs)
  | tlsig => exact onThread_kept _ _ _ hs fun _ _ => State.tlsig_kept _ _ _ _ _ _ hs
  | tlwt => exact onThread_kept _ _ _ hs fun _ _ => State.tlwt_kept _ _ _ _ _ _ _ hs
  | tlwtRelease => exact hubOp_kept _ (State.tlwtRelease_kept _ _ hs)
  | tlwtTimeout => exact hubOp_kept _ (State.tlwtTimeout_kept _ _ hs)
  | tlset => exact onThread_kept _ _ _ hs fun _ _ => State.tlset_kept _ _ _ _ _ hs
  | depdec => exact onThread_kept _ _ _ hs fun _ _ => State.depdec_kept _ _ _ _ _ hs
  | depset => exact onThread_kept _ _ _ hs fun _ _ => State.depset_kept _ _ _ _ hs
  | launch => exact releaseOp_kept _ _ _ _ _ hs fun _ _ => State.launchGraph_kept _ _
  | publ => exact releaseOp_kept _ _ _ _ _ hs fun _ _ => State.publ_kept _ _ _
  | snap =>
    exact onThread_kept _ _ _ hs fun _ _ => State.afterRelease_kept _ _ _ _ hs fun _ => State.snap_kept _ _ _ _ _
  | unsnap =>
    exact onThread_kept _ _ _ hs fun _ _ => State.afterRelease_kept _ _ _ _ hs fun _ => State.unsnap_kept _ _ _ _ _
  | foldComplete => exact hubOp_kept _ (State.foldComplete_kept _ _ _ hs)
  | finsp => exact execFinsp_kept _ _ _ _ hs
  | fpatch => exact execFpatch_kept _ _ _ _ hs
  | fres => exact execFres_kept _ _ hs
  | fkill => exact execFkill_kept _ _ _ hs
  | fstep => exact execFstep_kept _ _ _ hs
  | fclrp => exact execFclrp_kept _ _ _ hs
  | hcapq => exact onTag_kept _ _ _ hs fun _ _ => State.setThread_kept _ _ _ hs
  | hcapdrop =>
    exact onTag_kept _ _ _ hs fun _ _ =>
      State.stepOn_kept _ _ (State.dropFreeze_kept _ _ _ (State.setThread_kept _ _ _ hs))
  | condset => exact onThread_kept _ _ _ hs fun _ _ => State.condset_kept _ _ _ hs
  | condsetRelease => exact hubOp_kept _ (State.condsetRelease_kept _ _ hs)
  | iterwt => exact onThread_kept _ _ _ hs fun _ _ => State.iterwt_kept _ _ _ _ hs
  | iterwtRelease => exact hubOp_kept _ (State.iterwtRelease_kept _ _ hs)
  | kickscan => exact onThread_kept _ _ _ hs fun _ _ => State.stepWith_kept _ _ _ _ hs
  | kickscanClear =>
    exact onThread_kept _ _ _ hs fun _ _ => State.stepWith_kept _ _ _ _ (State.kickClear_kept _ _ hs)
  | jrnl => exact releaseOp_kept _ _ _ _ _ hs fun _ _ => State.journal_kept _ _ _ _
  | wdog => exact onThread_kept _ _ _ hs fun _ _ => State.stepOn_kept _ _ hs
  | halt => exact onThread_kept _ _ _ hs fun _ _ => State.haltThread_kept _ _ _ hs
  | sluice => exact releaseOp_kept _ _ _ _ _ hs fun _ _ => State.sluiceOf_kept _ _ _ _
  | rngc => exact onThread_kept _ _ _ hs fun _ _ => State.setThread_kept _ _ _ hs
  | shpfence => exact onThread_kept _ _ _ hs fun _ _ => State.shpfence_kept _ _ _ _ _ hs
  | pagepl => exact onThread_kept _ _ _ hs fun _ _ => State.pagepl_kept _ _ _ _ _ hs
  | popCondition => exact hubOp_kept _ (State.popCondition_kept _ _ hs)
  | firingDone => exact hubOp_kept _ (State.firingDone_kept _ _ hs)
  | weirFire => exact hubOp_kept _ (State.weirFire_kept _ _ hs)
  | commSuperstepStart => exact hubOp_kept _ (State.commStart_kept _ _ hs)
  | retirement => exact hubOp_kept _ (State.retirement_kept _ _ hs)
  | frameStart => exact hubOp_kept _ (State.frameStart_kept _ _ hs)
  | arcWaitTimeout => exact hubOp_kept _ (State.arcTimeout_kept _ _ hs)
  | act => exact hubOp_kept _ (State.timelineAct_kept _ _ _ _ hs)
  | pre => exact hubOp_kept _ (State.timelinePre_kept _ _ _ hs)
  | prea => exact hubOp_kept _ (State.timelinePrea_kept _ _ hs)
  | rd => exact hubOp_kept _ (State.timelineRead_kept _ _ _ _ _ hs)
  | wr => exact hubOp_kept _ (State.timelineWrite_kept _ _ _ hs)
  | wrc => exact hubOp_kept _ hs
  | ref => exact hubOp_kept _ (State.timelineRef_kept _ _ hs)
  | repair => exact hubOp_kept _ (State.timelineRepair_kept _ _ hs)
  | openRec => exact hubOp_kept _ (State.timelineOpen_kept _ _ _ hs)
  | twstep => exact hubOp_kept _ (State.timelineCache_kept _ _ _ hs)
  | timelineEnd => exact hubOp_kept _ (State.timelineEnd_kept _ _ hs)
  | kick => exact unitRow_kept _ _ _ hs (State.wake_kept _ (State.hostKick_kept _ _ hs))
  | recgo => exact hubOp_kept _ (State.recgo_kept _ _ hs)
  | endrWrite => exact hubOp_kept _ (State.storeEndr_kept _ _ hs)
  | pctlEval | pctlKill | pctlCheckpoint => exact unitRow_kept _ _ _ hs (State.request_kept _ _ _ _ hs)
  | restore => exact unitRow_kept _ _ _ hs (State.storeRestore_kept _ _ hs)
  | restorePerformed => exact hubOp_kept _ (State.restoreNow_kept _ _ hs)
  | drainlimExpiry => exact hubOp_kept _ (State.drainlim_kept _ _ hs)
  | preemptKill => exact hubOp_kept _ (State.preemptKill_kept _ _ hs)
  | checkpoint => exact hubOp_kept _ (State.checkpoint_kept _ _ hs)
  | thermalFreeze => exact hubOp_kept _ (State.thermalFreeze_kept _ _ hs)
  | killall => exact unitRow_kept _ _ _ hs (State.killAll_kept _ _ hs)
  | endgraph => exact unitRow_kept _ _ _ hs (State.killEnd_kept _ _ hs)
  | redispatch => exact unitRow_kept _ _ _ hs (State.redispatch_kept _ _ hs)
  | arm => exact unitRow_kept _ _ _ hs (State.armWindow_kept _ _ _ hs)
  | close => exact unitRow_kept _ _ _ hs (State.closeWindow_kept _ _ _ hs)
  | windowDeadline => exact unitRow_kept _ _ _ hs (State.windowDeadline_kept _ _ _ hs)
  | resume => exact unitRow_kept _ _ _ hs (State.chainResume_kept _ _ hs)
  | skip => exact unitRow_kept _ _ _ hs (State.chainSkip_kept _ _ hs)
  | cool | warm | off => exact hubOp_kept _ (State.storeCmd_kept _ _ hs)
  | trainingReadTest | trainingWriteTest => exact unitRow_kept _ _ _ hs (State.goTest_kept _ _ _ hs)
  | trainingTestDone => exact hubOp_kept _ (State.testDone_kept _ _ hs)
  | lrepWrite =>
    exact storeRow_kept _ _ _ (keepsO_ite (fun _ => State.storeLrep_kept _ _ _ _ hs) fun _ => keepsO_some hs) hs
  | degrClear => exact unitRow_kept _ _ _ hs (State.clearDegr_kept _ _ hs)
  | rangeEntryWrite =>
    exact storeRow_kept _ _ _ (keepsO_ite (fun _ => State.storeRange_kept _ _ _ _ _ hs) fun _ => keepsO_some hs) hs
  | imageTableEdit =>
    exact storeRow_kept _ _ _ (keepsO_ite (fun _ => State.imageEdit_kept _ _ _ _ hs) fun _ => keepsO_some hs) hs
  | routeEntryWrite => exact unitRow_kept _ _ _ hs (State.storeRoute_kept _ _ _ hs)
  | ridxWrite =>
    exact storeRow_kept _ _ _ (keepsO_ite (fun _ => State.storeRidx_kept _ _ _ hs) fun _ => keepsO_some hs) hs
  | migctlWrite => exact unitRow_kept _ _ _ hs (State.storeMigctl_kept _ _ _ hs)
  | quote => exact hubOp_kept _ (State.quote_kept _ _ hs)
  | keyload => exact hubOp_kept _ (State.keyload_kept _ _ _ hs)
  | keyclr => exact hubOp_kept _ (State.keyclr_kept _ _ hs)
  | hostMailboxWrite => exact hubOp_kept _ (State.mailbox_kept _ _ hs)
  | powerOnReset => exact hubOp_kept _ (State.powerOn_kept _ hs)
  | thermalSample => exact hubOp_kept _ (State.thermalSample_kept _ _ hs)
  | settleComplete => exact hubOp_kept _ (State.settleDone_kept _ hs)
  | cdrateWindow => exact hubOp_kept _ (State.cdrateWindow_kept _ hs)
  | watchdogExpiry => exact hubOp_kept _ (State.watchdogExpire_kept _ _ hs)
  | takeoverSpawn => exact hubOp_kept _ (State.takeover_kept _ hs)
  | handlerSpawn => exact hubOp_kept _ (State.spawnHandler_kept _ _ hs)
  | faultRecordGrant => exact hubOp_kept _ (State.grantRecord_kept _ _ hs)
  | poolFull => exact hubOp_kept _ (State.poolIsFull_kept _ _ hs)
  | reportDeadline => exact hubOp_kept _ (State.deadlineReport_kept _ _ hs)
  | copyEntryStart => exact hubOp_kept _ (State.copyStart_kept _ _ _ hs)
  | copyEntryComplete => exact hubOp_kept _ (State.copyDone_kept _ _ _ hs)
  | requestRecordResend => exact hubOp_kept _ (State.sendAgain_kept _ _ hs)
  | orderedLineArrival => exact hubOp_kept _ (State.lineArrive_kept _ _ (State.wake_kept _ hs))
  | lineGiveUp => exact hubOp_kept _ (State.giveUp_kept _ _ _ hs)
  | runoffBlockArrival => exact hubOp_kept _ (State.runoffArrive_kept _ _ (State.wake_kept _ hs))
  | arcCommit | arcAbort => exact hubOp_kept _ (State.arcRecord_kept _ _ _ (State.wake_kept _ hs))
  | arcDenial => exact hubOp_kept _ (State.arcDenial_kept _ _ _ hs)
  | creditRecord => exact hubOp_kept _ (State.creditArrive_kept _ _ (State.wake_kept _ hs))
  | requestRecordArrival => exact hubOp_kept _ (State.recordArrive_kept _ _ (State.wake_kept _ hs))
  | remoteAtomicArrival => exact hubOp_kept _ (State.atomicArrive_kept _ _ _ _ _ (State.wake_kept _ hs))
  | laneRepairStart => exact hubOp_kept _ (State.repairStart_kept _ _ _ hs)
  | laneRetrainDone => exact hubOp_kept _ (State.repairDone_kept _ _ hs)
  | gatewayRefill => exact hubOp_kept _ (foldl_kept (fun _ _ => State.gatewayRefill_kept _ _) hs)
  | scrubPass => exact hubOp_kept _ (State.scrub_kept _ _ hs)
  | powerStateEnter => exact hubOp_kept _ (State.enterPower_kept _ hs)
  | powerStateWake => exact hubOp_kept _ (State.wake_kept _ hs)
  | imageLoad => exact hubOp_kept _ (State.loadImage_kept _ _ _ _ hs)
  | pageRemoval => exact hubOp_kept _ (kept_ite (fun _ => hs) fun _ => State.removePage_kept _ _ hs)
  | serviceThreadSpawn => exact hubOp_kept _ (State.spawnService_kept _ _ hs)
  | portUp => exact hubOp_kept _ (State.bringUp_kept _ _ hs)
  | powerLoss => exact hubOp_kept _ (State.powerLoss_kept _ hs)
  | flashWrite => exact hubOp_kept _ (State.flashWrite_kept _ _ hs)
  | versionFuseBlow => exact hubOp_kept _ (State.blowFuses_kept _ hs)
  | remapTableReload => exact hubOp_kept _ (State.reloadRemap_kept _ _ hs)
  | repairRecordWrite => exact hubOp_kept _ (State.writeRepair_kept _ _ _ hs)
  | dynamicModeRefresh => exact hubOp_kept _ (State.refreshDynamic_kept _ _ hs)

/-- A step keeps memory canonical and lets the version fuses and the one-time index only rise. -/
theorem step_kept (s : State) (hs : Kept init s) : Keeps init (step s) := by
  unfold step
  split
  case h_1 => exact keeps_next (State.newCycle_kept _ hs)
  case h_2 => exact exec_kept _ _ hs
  case h_3 => exact State.threadTurn_kept _ _ exec_kept hs
  case h_4 => exact State.slotTurn_kept _ _ _ _ _ _ exec_kept hs
  case h_5 => exact keeps_next (State.hubTurn_kept _ _ hs)

end

/-- Settles O59: the canonical form of memory is a part of what every step keeps. -/
theorem everyStepKeepsMemoryCanonical : Obligations.EveryStepKeepsMemoryCanonical := by
  intro s t hs hstep
  obtain ⟨hmem, -, -⟩ := step_kept s (kept_self hs) t hstep
  exact hmem

end Sys2Proof.Machine

/-! PROOFS. The comparisons and mask operations of the V slot, and its reductions (R141, R146, R148, R153; O35, O38). -/

namespace Sys2Proof.Machine

/-! ## What a delivery to a mask register adds to its tile (R137, R141) -/

theorem Tile.emitK_none (T : Tile) (c : FabCtx) (slot k lat v : Nat) :
    T.emitK c slot k lat v none = { T with dels := T.dels ++
      [⟨c.cyc + lat, .kreg k, ⟨BitVec.ofNat 512 (v % 2 ^ 64), 0, 0⟩, BitVec.allOnes 64⟩] } := rfl

theorem Tile.emitK_some (T : Tile) (c : FabCtx) (slot k lat v : Nat) (org : Word) :
    T.emitK c slot k lat v (some org) = { T with dels := T.dels ++
      [⟨c.cyc + lat, .sink (c.sinkTok slot org skK lat), Line.zero, BitVec.allOnes 64⟩] } := rfl

theorem FabCtx.detail_sinkTok (c : FabCtx) (slot kind delay : Nat) (org : Word) :
    (c.sinkTok slot org kind delay).detail = kind := rfl

/-! ## Poison among the elements that a comparison reads (R141, R146) -/

theorem anyPois_eq_true_iff {n : Nat} {f : Nat → Bool} : anyPois n f = true ↔ ∃ j, j < n ∧ f j = true := by
  simp [anyPois]

/-- The origin of the poison that a comparison reads, that of A first; none where no selected element is poisoned. -/
def comparePoison (n : Nat) (m : Nat → Bool) (w : Nat) (a b : Line) : Option Word :=
  if anyPois n fun j => m j && a.epois w j then some a.org
  else if anyPois n fun j => m j && b.epois w j then some b.org else none

theorem vCmp_eq (p : Option Ordering → Bool) (c : FabCtx) (o : VArgs) (T : Tile) {t : EType} {a b : Line}
    (ht : t = T.etype o.st.toNat) (ha : a = T.operand c o.st.toNat o.va.toNat t.w)
    (hb : b = T.operand c o.st.toNat o.vb.toNat t.w) :
    vCmp p c o T = T.emitK c slotV o.vd.toNat 2
      (bitsFrom (fun j => T.maskBit o.k.toNat j && p (t.cmp (a.elem t.w j) (b.elem t.w j))) t.n)
      (comparePoison t.n (T.maskBit o.k.toNat) t.w a b) := by
  subst ht ha hb
  rfl

theorem comparePoison_eq_none {n w : Nat} {m : Nat → Bool} {a b : Line}
    (h : ∀ j, j < n → m j = true → a.epois w j = false ∧ b.epois w j = false) : comparePoison n m w a b = none := by
  have clean : ∀ l : Line, (∀ j, j < n → m j = true → l.epois w j = false) →
      ¬ anyPois n (fun j => m j && l.epois w j) = true := by
    intro l hl hp
    obtain ⟨j, hj, hmp⟩ := anyPois_eq_true_iff.1 hp
    rw [Bool.and_eq_true] at hmp
    exact Bool.false_ne_true ((hl j hj hmp.1).symm.trans hmp.2)
  unfold comparePoison
  rw [if_neg (clean a fun j hj hm => (h j hj hm).1), if_neg (clean b fun j hj hm => (h j hj hm).2)]

theorem comparePoison_eq_some {n w : Nat} {m : Nat → Bool} {a b : Line}
    (h : ∃ j, j < n ∧ m j = true ∧ (a.epois w j = true ∨ b.epois w j = true)) :
    ∃ org, comparePoison n m w a b = some org := by
  obtain ⟨j, hj, hm, hp⟩ := h
  unfold comparePoison
  split
  case isTrue => exact ⟨_, rfl⟩
  case isFalse hna =>
    have hb : b.epois w j = true :=
      hp.resolve_left fun ha => hna (anyPois_eq_true_iff.2 ⟨j, hj, by rw [hm, ha]; rfl⟩)
    rw [if_pos (anyPois_eq_true_iff.2 ⟨j, hj, by rw [hm, hb]; rfl⟩)]
    exact ⟨_, rfl⟩

/-! ## Two kinds of mask result (R146, R148) -/

/-- VKMOV of a mask register is the mask operation that keeps its first source. -/
theorem vMaskMov_eq_vMask (c : FabCtx) (o : VArgs) (T : Tile) (hx : o.x = false) :
    vMaskMov c o T = vMask (fun a _ => a) c o T := by
  simp [vMaskMov, vMask, hx]

/-- An instruction of the table is a comparison by a test `p` of the order of the elements, or an operation `f` on two
mask registers. -/
theorem maskResult_cases {n : Nat} {k : Nat → Nat} {m : Nat → Bool} {cmp : Nat → Option Ordering} {i : Instr}
    {o : VArgs} {x : Nat} (s : State) (h : maskResult n k m cmp i = some (o, x)) :
    (∃ p : Option Ordering → Bool, (exec i s = tileOp1 s fun c T => vCmp p c o T) ∧
      x = bitsFrom (fun j => m j && p (cmp j)) n ∧ ¬ (i = .vkand o ∨ i = .vkor o ∨ i = .vknot o ∨ i = .vkmov o)) ∨
    (∃ f : Nat → Nat → Nat, (exec i s = tileOp1 s fun c T => vMask f c o T) ∧
      x = f (k o.va.toNat) (k (o.vb.toNat % 8)) % 2 ^ n ∧
      ¬ (i = .vcmpeq o ∨ i = .vcmpne o ∨ i = .vcmplt o ∨ i = .vcmple o)) := by
  unfold maskResult at h
  split at h
  case h_1 => cases h; exact .inl ⟨fun r => r == some .eq, rfl, rfl, by simp⟩
  case h_2 => cases h; exact .inl ⟨fun r => r != some .eq, rfl, rfl, by simp⟩
  case h_3 => cases h; exact .inl ⟨fun r => r == some .lt, rfl, rfl, by simp⟩
  case h_4 => cases h; exact .inl ⟨fun r => r == some .lt || r == some .eq, rfl, rfl, by simp⟩
  case h_5 => cases h; exact .inr ⟨fun a b => Nat.land a b, rfl, rfl, by simp⟩
  case h_6 => cases h; exact .inr ⟨fun a b => Nat.lor a b, rfl, rfl, by simp⟩
  case h_7 => cases h; exact .inr ⟨fun a _ => 2 ^ 64 - 1 - a, rfl, rfl, by simp⟩
  case h_8 =>
    split at h
    case isTrue => cases h
    case isFalse hx =>
      cases h
      refine .inr ⟨fun a _ => a, ?_, rfl, by simp⟩
      exact congrArg (tileOp1 s) (funext fun c => funext fun T => vMaskMov_eq_vMask c _ T (by simpa using hx))
  case h_9 => cases h

/-- Settles O35: each instruction of the table is a comparison or an operation on masks; a comparison delivers a sink
exactly where comparePoison finds an origin, an operation on masks never does. -/
theorem vectorComparisonsAndMasksWriteAMask : Obligations.VectorComparisonsAndMasksWriteAMask := by
  intro i s r u word iter T c hcur hT hc o x t a b ht ha hb hx
  subst hT hc
  rcases maskResult_cases s hx with ⟨p, hexec, hval, hnot⟩ | ⟨f, hexec, hval, hnot⟩
  case inl =>
    obtain ⟨v, hrun, honly⟩ := tileOp1_runs (fun c T => vCmp p c o T) hcur
    rw [vCmp_eq p _ o _ ht ha hb, ← hval] at honly
    cases hpois : comparePoison t.n ((s.tile u).maskBit o.k.toNat) t.w a b with
    | none =>
      rw [hpois, Tile.emitK_none] at honly
      refine ⟨v, _, hexec.trans hrun, honly, rfl, fun _ => ⟨rfl, rfl⟩, fun _ hsink => ?_⟩
      obtain ⟨org, horg⟩ := comparePoison_eq_some hsink
      rw [hpois] at horg
      cases horg
    | some org =>
      rw [hpois, Tile.emitK_some] at honly
      refine ⟨v, _, hexec.trans hrun, honly, rfl, fun hclean => ?_,
        fun _ _ => ⟨_, rfl, FabCtx.detail_sinkTok _ _ _ _ _⟩⟩
      have hnone := comparePoison_eq_none (Or.resolve_left (by simpa only [or_assoc] using hclean) hnot)
      rw [hnone] at hpois
      cases hpois
  case inr =>
    obtain ⟨v, hrun, honly⟩ := tileOp1_runs (fun c T => vMask f c o T) hcur
    subst ht hval
    exact ⟨v, _, hexec.trans hrun, honly, rfl, fun _ => ⟨rfl, rfl⟩, fun hcmp => absurd hcmp hnot⟩

/-! ## Vector results by their elements -/

theorem VOut.holds_elems (w n : Nat) (f : Nat → Option (Nat × Bool)) (org : Word) :
    VOut.holds ⟨w, elems n f, org⟩ w n fun j => (f j).map Prod.fst := by
  refine ⟨rfl, by simp [elems], fun j hj => ?_⟩
  simp [elems, hj]

/-! ## Reductions (R153) -/

/-- The leaves of a reduction: the selected elements with their indices. -/
def redLeaves (t : EType) (m : Nat → Bool) (a : Line) : List (Option (Nat × Nat)) :=
  (List.range t.n).map fun j => if m j then some (a.elem t.w j, j) else none

/-- The tree reduction of R153, with element 0 of B in the accumulate form; a pair takes the draw of its first leaf (log
entry 132). -/
def redTree (T : Tile) (c : FabCtx) (o : VArgs) (k : RedKind) (t : EType) (a b : Line) : Nat :=
  match treeFold (redOp T c o.st.toNat k t) 6 (redLeaves t (T.maskBit o.k.toNat) a) with
  | some (y, j) => if o.x then redOp T c o.st.toNat k t j y (b.elem t.w 0) else y
  | none => if o.x then redOp T c o.st.toNat k t 0 (redEmpty k t) (b.elem t.w 0) else redEmpty k t

theorem EType.kind_flt_of_isFlt {t : EType} (h : t.isFlt = true) : ∃ f, t.kind = .flt f := by
  unfold EType.isFlt at h
  split at h
  case h_1 f hk => exact ⟨f, hk⟩
  case h_2 => cases h

theorem EType.kind_int_of_not_isFlt {t : EType} (h : t.isFlt = false) : ∃ g, t.kind = .int g := by
  unfold EType.isFlt at h
  split at h
  case h_1 => cases h
  case h_2 g hk => exact ⟨g, hk⟩

/-- The sum of the leaves is that of the selected elements. -/
theorem intSum_redLeaves (t : EType) (m : Nat → Bool) (a : Line) :
    intSum t (redLeaves t m a) =
      (List.range t.n).foldl (fun x k => if m k then x + t.int (a.elem t.w k) else x) 0 := by
  unfold intSum redLeaves
  rw [List.foldl_map]
  congr 1
  funext x k
  by_cases hm : m k = true <;> simp [hm]

/-- The result of a reduction: `x` in element 0, poisoned by a selected element and, in the accumulate form, by element 0
of B; zeros elsewhere. -/
def redOut (T : Tile) (c : FabCtx) (o : VArgs) (t : EType) (a b : Line) (x : Nat) : VOut :=
  let pa := anyPois t.n fun j => T.maskBit o.k.toNat j && a.epois t.w j
  let pb := o.x && b.epois t.w 0
  ⟨t.w, elems t.n fun j => some (if j = 0 then (x, pa || pb) else (0, false)),
    pickOrg (c.origin slotV 0) [(pa, a.org), (pb, b.org)]⟩

theorem redOut_holds (T : Tile) (c : FabCtx) (o : VArgs) (t : EType) (a b : Line) (x : Nat) :
    (redOut T c o t a b x).holds t.w t.n fun j => some (if j = 0 then x else 0) := by
  unfold redOut
  obtain ⟨hw, hlen, hels⟩ := VOut.holds_elems t.w t.n _ _
  refine ⟨hw, hlen, fun j hj => (hels j hj).trans ?_⟩
  by_cases h0 : j = 0 <;> simp [h0]

/-- VRSUM of an integer type: one wrap or clamp of the exact sum. -/
theorem vReduceTo_sum_int (c : FabCtx) (o : VArgs) (T : Tile) {t : EType} {a b : Line} (ht : t = T.etype o.st.toNat)
    (ha : a = T.operand c o.st.toNat o.va.toNat t.w) (hb : b = T.operand c o.st.toNat o.vb.toNat t.w)
    (hint : t.isFlt = false) :
    vReduceTo .sum c o T = T.emit c o.st.toNat o.vd.toNat o.x 6 (redOut T c o t a b
      (fitInt t.signed (T.sat o.st.toNat) t.w (intSum t (redLeaves t (T.maskBit o.k.toNat) a) +
        if o.x then t.int (b.elem t.w 0) else 0))) := by
  obtain ⟨g, hk⟩ := EType.kind_int_of_not_isFlt hint
  subst ht ha hb
  unfold vReduceTo
  dsimp only
  rw [hint, hk]
  rfl

/-- Every other reduction: the tree, rounded into a floating type. -/
theorem vReduceTo_tree (k : RedKind) (c : FabCtx) (o : VArgs) (T : Tile) {t : EType} {a b : Line}
    (ht : t = T.etype o.st.toNat) (ha : a = T.operand c o.st.toNat o.va.toNat t.w)
    (hb : b = T.operand c o.st.toNat o.vb.toNat t.w) (hsum : k = .sum → t.isFlt = true) :
    vReduceTo k c o T = T.emit c o.st.toNat o.vd.toNat o.x 6 (redOut T c o t a b
      (if t.isFlt then T.rnd c o.st.toNat 0 t (.exact (t.val (redTree T c o k t a b))) else redTree T c o k t a b)) := by
  subst ht ha hb
  unfold vReduceTo redTree
  cases k with
  | max => rfl
  | min => rfl
  | sum =>
    obtain ⟨f, hk⟩ := EType.kind_flt_of_isFlt (hsum rfl)
    dsimp only
    rw [hk]
    rfl

/-- A reduction in a tile delivers the result that its operation emits. -/
theorem reduction_delivers {s : State} {r u word iter : Nat} (k : RedKind) (o : VArgs) {out : VOut}
    (hcur : s.cur = .tile r u word iter)
    (h : vReduceTo k (s.fabCtx r u word iter) o (s.tile u) =
      (s.tile u).emit (s.fabCtx r u word iter) o.st.toNat o.vd.toNat o.x 6 out) :
    ∃ v, tileOp1 s (fun c T => vReduceTo k c o T) = .next v ∧
      s.delivers v u (s.fabCtx r u word iter) o [o.st.toNat] (fun _ => 6) fun _ => out := by
  obtain ⟨v, hrun, honly⟩ := tileOp1_runs (fun c T => vReduceTo k c o T) hcur
  rw [h] at honly
  exact ⟨v, hrun, honly⟩

theorem exec_reduction {k : RedKind} {i : Instr} {o : VArgs} (s : State)
    (h : (k, i) ∈ [(RedKind.sum, Instr.vrsum o), (.max, .vrmax o), (.min, .vrmin o)]) :
    exec i s = tileOp1 s fun c T => vReduceTo k c o T := by
  simp only [List.mem_cons, List.not_mem_nil, or_false, Prod.mk.injEq] at h
  rcases h with ⟨rfl, rfl⟩ | ⟨rfl, rfl⟩ | ⟨rfl, rfl⟩
  · rfl
  · rfl
  · rfl

/-- Settles O38: the sum of an integer type is the one reduction without a tree. -/
theorem vectorReductionsDeliverElementZero : Obligations.VectorReductionsDeliverElementZero := by
  intro s r u word iter T c hcur hT hc o st t a b m hst ht ha hb hm
  subst hT hc hst hm
  refine ⟨fun hint => ?_, fun k i hki hsum => ?_⟩
  · obtain ⟨v, hrun, hdel⟩ := reduction_delivers .sum o hcur (vReduceTo_sum_int _ o _ ht ha hb hint)
    refine ⟨v, _, hrun, hdel, ?_⟩
    rw [← intSum_redLeaves]
    exact redOut_holds _ _ _ _ _ _ _
  · obtain ⟨v, hrun, hdel⟩ := reduction_delivers k o hcur (vReduceTo_tree k _ o _ ht ha hb hsum)
    refine ⟨v, _, (exec_reduction s hki).trans hrun, hdel, fun z hz => ?_⟩
    subst hz
    exact redOut_holds _ _ _ _ _ _ _

end Sys2Proof.Machine

/-! PROOFS. The pond instructions of the S slot read, write, check and pass slots (R161 to R166, R266; O43). -/

namespace Sys2Proof.Machine

/-! ## A field of a word after a field is written -/

theorem setBits_mod_low (n lo len v : Nat) : setBits n lo len v % 2 ^ lo = n % 2 ^ lo := by
  rw [setBits, Nat.pow_add, Nat.mul_assoc, Nat.add_assoc, ← Nat.mul_add, Nat.add_mul_mod_self_left, Nat.mod_mod]

theorem setBits_div_low (n lo len v : Nat) :
    setBits n lo len v / 2 ^ lo = v % 2 ^ len + 2 ^ len * (n / 2 ^ (lo + len)) := by
  have hlow : n % 2 ^ lo / 2 ^ lo = 0 := Nat.div_eq_of_lt (Nat.mod_lt _ (Nat.two_pow_pos lo))
  rw [setBits, Nat.pow_add 2 lo len, Nat.mul_assoc, Nat.add_assoc, ← Nat.mul_add,
    Nat.add_mul_div_left _ _ (Nat.two_pow_pos lo), hlow, Nat.zero_add]

theorem setBits_div_high (n lo len v : Nat) : setBits n lo len v / 2 ^ (lo + len) = n / 2 ^ (lo + len) := by
  have hval : v % 2 ^ len / 2 ^ len = 0 := Nat.div_eq_of_lt (Nat.mod_lt _ (Nat.two_pow_pos len))
  rw [Nat.pow_add 2 lo len, ← Nat.div_div_eq_div_mul, setBits_div_low, Nat.add_mul_div_left _ _ (Nat.two_pow_pos len),
    hval, Nat.zero_add, Nat.pow_add]

theorem bitsOf_setBits_same (n lo len v : Nat) : bitsOf (setBits n lo len v) lo len = v % 2 ^ len := by
  rw [bitsOf, setBits_div_low, Nat.add_mul_mod_self_left, Nat.mod_mod]

/-- A field reads only the bits below its end. -/
theorem bitsOf_mod_two_pow {lo len k : Nat} (n : Nat) (h : lo + len ≤ k) :
    bitsOf (n % 2 ^ k) lo len = bitsOf n lo len := by
  have hlow : ∀ x, bitsOf x lo len = x % 2 ^ (lo + len) / 2 ^ lo := fun x => by
    rw [bitsOf, Nat.pow_add, Nat.mod_mul_right_div_self]
  rw [hlow, hlow, Nat.mod_mod_of_dvd _ (Nat.pow_dvd_pow 2 h)]

theorem bitsOf_setBits_below {lo len lo' len' : Nat} (n v : Nat) (h : lo' + len' ≤ lo) :
    bitsOf (setBits n lo len v) lo' len' = bitsOf n lo' len' := by
  rw [← bitsOf_mod_two_pow _ h, setBits_mod_low, bitsOf_mod_two_pow _ h]

theorem bitsOf_setBits_above {lo len lo' len' : Nat} (n v : Nat) (h : lo + len ≤ lo') :
    bitsOf (setBits n lo len v) lo' len' = bitsOf n lo' len' := by
  obtain ⟨k, rfl⟩ := Nat.exists_eq_add_of_le h
  rw [bitsOf, bitsOf, Nat.pow_add 2 (lo + len) k, ← Nat.div_div_eq_div_mul, ← Nat.div_div_eq_div_mul, setBits_div_high]

theorem bitsOf_smSet_same {lo len : Nat} (m : Word) (v : Nat) (h : lo + len ≤ 64) :
    bitsOf (smSet m lo len v).toNat lo len = v % 2 ^ len := by
  rw [smSet, BitVec.toNat_ofNat, bitsOf_mod_two_pow _ h, bitsOf_setBits_same]

theorem bitsOf_smSet_other {lo len lo' len' : Nat} (m : Word) (v : Nat) (h : lo' + len' ≤ 64)
    (hd : lo' + len' ≤ lo ∨ lo + len ≤ lo') : bitsOf (smSet m lo len v).toNat lo' len' = bitsOf m.toNat lo' len' := by
  rw [smSet, BitVec.toNat_ofNat, bitsOf_mod_two_pow _ h]
  rcases hd with hd | hd
  · exact bitsOf_setBits_below _ _ hd
  · exact bitsOf_setBits_above _ _ hd

/-! ## Slot metadata as a write leaves it (R161, R255) -/

/-- The slot is marked POIS. -/
theorem smPois_poison (m : Word) : smPois (smSet m 3 1 1) = true := by
  simp [smPois, bitsOf_smSet_same]

theorem smState_poison (m : Word) : smState (smSet m 3 1 1) = smState m :=
  bitsOf_smSet_other m 1 (by decide) (by decide)

/-- The slot is STAGED. -/
theorem smState_stage (m : Word) : smState (smSet m 0 2 1) = 1 := bitsOf_smSet_same m 1 (by decide)

theorem smPois_stage (m : Word) : smPois (smSet m 0 2 1) = smPois m := by
  simp (disch := decide) only [smPois, bitsOf_smSet_other]

/-- The metadata of a slot that the last line of a firing closes. -/
def smStageClose (m : Word) (x swz fmt : Nat) : Word := smClose (smSet m 0 2 1) x swz fmt

section

variable (m : Word) (x swz fmt : Nat)

theorem smState_stageClose : smState (smStageClose m x swz fmt) = 1 := by
  simp (disch := decide) [smState, smStageClose, smClose, bitsOf_smSet_other, bitsOf_smSet_same]

theorem smPois_stageClose : smPois (smStageClose m x swz fmt) = smPois m := by
  simp (disch := decide) only [smPois, smStageClose, smClose, bitsOf_smSet_other]

theorem smClosed_stageClose : smClosed (smStageClose m x swz fmt) = true := by
  simp (disch := decide) [smClosed, smStageClose, smClose, bitsOf_smSet_other, bitsOf_smSet_same]

theorem smTag_stageClose : smTag (smStageClose m x swz fmt) = x % 2 ^ 16 := by
  simp (disch := decide) only [smTag, smStageClose, smClose, bitsOf_smSet_other, bitsOf_smSet_same]

theorem smSwz_stageClose : smSwz (smStageClose m x swz fmt) = swz % 2 ^ 4 := by
  simp (disch := decide) only [smSwz, smStageClose, smClose, bitsOf_smSet_other, bitsOf_smSet_same]

theorem smFmt_stageClose : smFmt (smStageClose m x swz fmt) = fmt % 2 ^ 5 := by
  simp (disch := decide) only [smFmt, smStageClose, smClose, bitsOf_smSet_same]

end

theorem peSwz_mod (e : Word) : peSwz e % 2 ^ 4 = peSwz e := Nat.mod_mod _ _
theorem peFmt_mod (e : Word) : peFmt e % 2 ^ 5 = peFmt e := Nat.mod_mod _ _

/-! ## Rate monitors (R266) -/

/-- A counter of 10 bits that saturates at 1,023 holds its value. -/
theorem min_1023_mod (n : Nat) : min n 1023 % 2 ^ 10 = min n 1023 := Nat.mod_eq_of_lt (by omega)

theorem Pond.monProd_countProd (q : Pond) : monProd q.countProd.mon = min (monProd q.mon + 1) 1023 :=
  (bitsOf_smSet_same q.mon _ (by decide)).trans (min_1023_mod _)

theorem Pond.monCons_countCons (q : Pond) (n : Nat) : monCons (q.countCons n).mon = min (monCons q.mon + n) 1023 :=
  (bitsOf_smSet_same q.mon _ (by decide)).trans (min_1023_mod _)

/-! ## Ponds, slots and the tiles of a fabric operation -/

theorem Tile.pond_setPond_same (T : Tile) (p : Nat) (q : Pond) : (T.setPond p q).pond p = q := tget_tset_same _ _ _ _
theorem Tile.pond_setPond_ne (T : Tile) {p k : Nat} (q : Pond) (h : k ≠ p) : (T.setPond p q).pond k = T.pond k :=
  tget_tset_ne _ _ _ h

theorem Tile.slot_setSlot_same (T : Tile) (p x : Nat) (m : Word) : (T.setSlot p x m).slot p x = m :=
  tget_tset_same _ _ _ _

theorem Tile.pond_bumpWrite (T : Tile) (p : Nat) :
    (T.bumpWrite p).pond p = { T.pond p with ww := (T.pond p).ww + 1 } := T.pond_setPond_same _ _

theorem Tile.slot_bumpWrite (T : Tile) (p x : Nat) : (T.bumpWrite p).slot p x = T.slot p x := by
  rw [Tile.slot, Tile.pond_bumpWrite]
  rfl

/-- A fabric operation without a condition and a grant changes the tiles that its table changes, and adds its tokens to
the region's. -/
theorem onFabric_fabric {s : State} {r u word iter : Nat} {ts : Tab Tile} {toks : List Token} {ch : List (Nat × Tile)}
    (f : FabCtx → Tab Tile → FabOut) (hcur : s.cur = .tile r u word iter)
    (hf : f (s.fabCtx r u word iter) s.tiles = ⟨ts, toks, none, none⟩) (hch : ∀ e ∈ ch, tget Tile.zero ts e.1 = e.2)
    (hrest : ∀ k, (∀ e ∈ ch, e.1 ≠ k) → tget Tile.zero ts k = s.tile k) :
    ∃ v, onFabric s f = .next v ∧ s.fabric v r ch toks := by
  have hrun := onFabric_runs f hcur
  rw [hf] at hrun
  exact ⟨_, hrun, hch, hrest, tget_tset_same _ _ _ _, fun q hq => tget_tset_ne _ _ _ hq, s.putFab_rest r _⟩

theorem onFabric_pure {s : State} {r u word iter : Nat} (f : FabCtx → Tab Tile → FabOut)
    (hcur : s.cur = .tile r u word iter) (hf : f (s.fabCtx r u word iter) s.tiles = FabOut.pure s.tiles) :
    ∃ v, onFabric s f = .next v ∧ s.fabric v r [] [] :=
  onFabric_fabric f hcur hf (fun _ he => absurd he List.not_mem_nil) fun _ _ => rfl

/-- A fabric operation on the executing tile and another one changes these two. -/
theorem onFabric_two {s : State} {r u word iter n : Nat} {T N : Tile} {toks : List Token} (f : FabCtx → Tab Tile → FabOut)
    (hcur : s.cur = .tile r u word iter) (hne : n ≠ u)
    (hf : f (s.fabCtx r u word iter) s.tiles = ⟨tset Tile.zero (tset Tile.zero s.tiles n N) u T, toks, none, none⟩) :
    ∃ v, onFabric s f = .next v ∧ s.fabric v r [(u, T), (n, N)] toks := by
  refine onFabric_fabric f hcur hf ?_ ?_
  · intro e he
    rw [List.mem_cons, List.mem_singleton] at he
    rcases he with rfl | rfl
    · exact tget_tset_same _ _ _ _
    · exact (tget_tset_ne _ _ _ hne).trans (tget_tset_same _ _ _ _)
  · intro k hk
    have hku : k ≠ u := fun h => hk (u, T) (by simp) h.symm
    have hkn : k ≠ n := fun h => hk (n, N) (by simp) h.symm
    exact (tget_tset_ne _ _ _ hku).trans (tget_tset_ne _ _ _ hkn)

/-- A tile is no neighbour of its own (R10). -/
theorem neighbour_ne {c : FabCtx} {port n : Nat} (h : neighbour c port = some n) : n ≠ c.t := by
  unfold neighbour at h
  dsimp only at h
  split at h <;> (rw [Option.ite_none_right_eq_some, Option.some.injEq] at h; omega)

/-! ## First reads (R163) -/

theorem Tile.isSeen_addSeen (T : Tile) (p x : Nat) : (T.addSeen p x).isSeen p x = true := by
  unfold Tile.addSeen
  split
  case isTrue h => exact h
  case isFalse => simp [Tile.isSeen]

theorem Tile.firstRead_isSeen (T : Tile) (p x : Nat) : (T.firstRead p x).1.isSeen p x = true := by
  unfold Tile.firstRead
  split
  case isTrue h => exact h
  case isFalse => exact T.isSeen_addSeen p x

/-- A first read changes nothing but the list of slots read. -/
theorem Tile.firstRead_tile (T : Tile) (p x : Nat) : ∃ seen, (T.firstRead p x).1 = { T with seen := seen } := by
  unfold Tile.firstRead Tile.addSeen
  split
  · exact ⟨_, rfl⟩
  · exact ⟨_, rfl⟩

theorem Tile.firstRead_cause_some {T : Tile} {p x k : Nat} (hnew : T.isSeen p x = false)
    (hk : T.checkSlot p x true = some k) : (T.firstRead p x).2 = some k := by
  rw [Tile.firstRead, hnew]
  exact hk

theorem Tile.firstRead_cause_none {T : Tile} {p x : Nat} (h : T.isSeen p x = true ∨ T.checkSlot p x true = none) :
    (T.firstRead p x).2 = none := by
  unfold Tile.firstRead
  split
  case isTrue => rfl
  case isFalse hnew => exact h.resolve_left hnew

/-- What a read that passes its check delivers: a sluice slot reads as zero, a slot marked POIS as poison (R163, R175). -/
theorem Tile.slotLine_passed (T : Tile) (c : FabCtx) (p x l : Nat) {raw : Line}
    (hraw : raw = T.bankLine c (peBank (T.pond p).entry) (peLine (T.pond p).entry x l % 1536)) :
    T.slotLine c p x l none =
      if smPois (T.slot p x) then ⟨if smSluice (T.slot p x) then 0 else raw.bits, BitVec.allOnes 64, c.origin slotS 0x10⟩
      else if smSluice (T.slot p x) then Line.zero else raw := by
  subst hraw
  cases hs : smSluice (T.slot p x) <;> simp [Tile.slotLine, hs, Line.poisoned, Line.zero]

/-- Noting a read changes nothing but the count of corrections (R275). -/
theorem Tile.noteSlot_tile (T : Tile) (p x l : Nat) : ∃ n, T.noteSlot p x l = { T with ceReads := n } := by
  unfold Tile.noteSlot Tile.noteRead
  dsimp only
  split
  · exact ⟨_, rfl⟩
  · exact ⟨_, rfl⟩

/-! ## Slot writes (R161) -/

/-- The line that a write puts on its way to the bank of its slot. -/
def lineDeliv (c : FabCtx) (delay : Nat) (e : Word) (x l : Nat) (v : Line) : Deliv :=
  ⟨c.cyc + delay, .bank (peBank e) (peLine e x l % 1536), v, BitVec.allOnes 64⟩

/-- A tile in which a write of a line stages a slot: its metadata becomes `m`, its key is on the list of slots that the
firing has begun, and the line is on its way. -/
def Tile.stageLine (T : Tile) (key : Nat) (m : Word) (d : Deliv) : Tile :=
  { T with
    slots := tset 0 T.slots key m
    staged := addNew key T.staged
    dels := T.dels ++ [d] }

/-- A tile that counts a produced token of a pond (R266). -/
def Tile.countToken (T : Tile) (p : Nat) : Tile := T.setPond p (T.pond p).countProd

theorem Tile.pond_countToken (T : Tile) (p : Nat) : (T.countToken p).pond p = (T.pond p).countProd :=
  T.pond_setPond_same _ _

theorem Tile.slot_countToken (T : Tile) (p x : Nat) : (T.countToken p).slot p x = T.slot p x := by
  rw [Tile.slot, Tile.pond_countToken]
  rfl

theorem Tile.pond_stageLine (T : Tile) (key : Nat) (m : Word) (d : Deliv) (p : Nat) :
    (T.stageLine key m d).pond p = T.pond p := rfl

/-- Counting a token and moving the write index change the table of ponds alone. -/
theorem Tile.countToken_bumpWrite_tile (T : Tile) (p : Nat) :
    ∃ ps, (T.countToken p).bumpWrite p = { T with ponds := ps } := ⟨_, rfl⟩

theorem Tile.slot_stageLine (T : Tile) (p x : Nat) (m : Word) (d : Deliv) :
    (T.stageLine (slotKey p x (T.pond p).entry) m d).slot p x = m := tget_tset_same _ _ _ _

section

variable {T : Tile} {c : FabCtx} {p x l : Nat} {w : WTarget} {v : Line} {delay kind : Nat}

theorem Tile.writeSlot_poisoned (hp : v.pois ≠ 0) :
    T.writeSlot c p x l w v delay kind =
      ⟨{ T with slots := tset 0 T.slots (slotKey p x w.entry) (smSet (tget 0 T.slots (slotKey p x w.entry)) 3 1 1) },
        [c.sinkTok slotS v.org kind], false⟩ := by
  rw [Tile.writeSlot, if_pos hp]

theorem Tile.writeSlot_fullbit (hp : v.pois = 0) (hm : T.mayStage (slotKey p x w.entry) = false) :
    T.writeSlot c p x l w v delay kind = ⟨T, [c.direct slotS 0x14], false⟩ := by
  simp [Tile.writeSlot, hp, hm]

theorem Tile.writeSlot_inner (hp : v.pois = 0) (hm : T.mayStage (slotKey p x w.entry) = true) (hd : delay ≠ 0)
    (hl : l + 1 ≠ peLines w.entry) :
    T.writeSlot c p x l w v delay kind =
      ⟨T.stageLine (slotKey p x w.entry) (smSet (tget 0 T.slots (slotKey p x w.entry)) 0 2 1)
        (lineDeliv c delay w.entry x l v), [], false⟩ := by
  simp [Tile.writeSlot, Tile.stageLine, lineDeliv, hp, hm, hd, hl]

theorem Tile.writeSlot_last (hp : v.pois = 0) (hm : T.mayStage (slotKey p x w.entry) = true) (hd : delay ≠ 0)
    (hl : l + 1 = peLines w.entry) :
    T.writeSlot c p x l w v delay kind =
      ⟨(T.stageLine (slotKey p x w.entry)
          (smStageClose (tget 0 T.slots (slotKey p x w.entry)) x w.swz w.fmt)
          (lineDeliv c delay w.entry x l v)).countToken p, [], true⟩ := by
  simp [Tile.writeSlot, Tile.stageLine, Tile.countToken, smStageClose, lineDeliv, hp, hm, hd, hl]

end

/-! ## PWR (R161, R165) -/

section

variable {T : Tile} {c : FabCtx} {p l : Nat} {v : Line}

theorem Tile.localWrite_poisoned (hp : v.pois ≠ 0) :
    T.localWrite c p l v = (T.setSlot p (T.pond p).ww.toNat (smSet (T.slot p (T.pond p).ww.toNat) 3 1 1),
      [c.sinkTok slotS v.org skPond]) := by
  rw [Tile.localWrite, Tile.writeSlot_poisoned hp]
  rfl

theorem Tile.localWrite_fullbit (hp : v.pois = 0)
    (hm : T.mayStage (slotKey p (T.pond p).ww.toNat (T.pond p).entry) = false) :
    T.localWrite c p l v = (T, [c.direct slotS 0x14]) := by
  rw [Tile.localWrite, Tile.writeSlot_fullbit (w := T.ownTarget p) hp hm]
  rfl

theorem Tile.localWrite_inner (hp : v.pois = 0)
    (hm : T.mayStage (slotKey p (T.pond p).ww.toNat (T.pond p).entry) = true) (hl : l + 1 ≠ peLines (T.pond p).entry) :
    T.localWrite c p l v = (T.stageLine (slotKey p (T.pond p).ww.toNat (T.pond p).entry)
      (smSet (T.slot p (T.pond p).ww.toNat) 0 2 1) (lineDeliv c 1 (T.pond p).entry (T.pond p).ww.toNat l v), []) := by
  rw [Tile.localWrite, Tile.writeSlot_inner (w := T.ownTarget p) hp hm Nat.one_ne_zero hl]
  rfl

/-- The last line closes the slot, counts a token and moves the working write index. -/
theorem Tile.localWrite_last {x : Nat} (hx : x = (T.pond p).ww.toNat) (hp : v.pois = 0)
    (hm : T.mayStage (slotKey p x (T.pond p).entry) = true) (hl : l + 1 = peLines (T.pond p).entry) :
    ∃ ss ps X, T.localWrite c p l v = (X, []) ∧
      X = { T with
        slots := ss
        ponds := ps
        staged := addNew (slotKey p x (T.pond p).entry) T.staged
        dels := T.dels ++ [lineDeliv c 1 (T.pond p).entry x l v] } ∧
      X.slot p x = smStageClose (T.slot p x) x (peSwz (T.pond p).entry) (peFmt (T.pond p).entry) ∧
      X.pond p = { (T.pond p).countProd with ww := (T.pond p).ww + 1 } := by
  subst hx
  obtain ⟨ps, hps⟩ := (T.stageLine (slotKey p (T.pond p).ww.toNat (T.pond p).entry) (smStageClose
    (T.slot p (T.pond p).ww.toNat) (T.pond p).ww.toNat (peSwz (T.pond p).entry) (peFmt (T.pond p).entry))
    (lineDeliv c 1 (T.pond p).entry (T.pond p).ww.toNat l v)).countToken_bumpWrite_tile p
  refine ⟨_, ps, _, ?_, hps, ?_, ?_⟩
  · rw [Tile.localWrite, Tile.writeSlot_last (w := T.ownTarget p) hp hm Nat.one_ne_zero hl]
    rfl
  · rw [Tile.slot_bumpWrite, Tile.slot_countToken, Tile.slot_stageLine]
  · rw [Tile.pond_bumpWrite, Tile.pond_countToken, Tile.pond_stageLine]
    rfl

end

theorem exec_pwr (p : BitVec 5) (line : BitVec 10) (s : State) : exec (.pwr p line) s = execPwr p line s := rfl

section

variable {s : State} {r u word iter : Nat} {T : Tile} {c : FabCtx}

theorem exec_pwr_none (p : BitVec 5) (line : BitVec 10) (hcur : s.cur = .tile r u word iter) (hT : T = s.tile u)
    (hc : c = s.fabCtx r u word iter) (hl : latchAt T.dels .pout c.cyc = none) :
    ∃ v, exec (.pwr p line) s = .next v ∧ s.fabric v r [(u, T)] [] := by
  subst hT hc
  rw [exec_pwr, execPwr]
  obtain ⟨v, hrun, hfab⟩ := tileOp_runs _ hcur
  refine ⟨v, hrun, ?_⟩
  rw [hl] at hfab
  exact hfab

theorem exec_pwr_some (p : BitVec 5) (line : BitVec 10) {l : Line} (hcur : s.cur = .tile r u word iter)
    (hT : T = s.tile u) (hc : c = s.fabCtx r u word iter) (hl : latchAt T.dels .pout c.cyc = some l) :
    ∃ v, exec (.pwr p line) s = .next v ∧ s.fabric v r [(u, (T.localWrite c p.toNat line.toNat l).1)]
      (T.localWrite c p.toNat line.toNat l).2 := by
  subst hT hc
  rw [exec_pwr, execPwr]
  obtain ⟨v, hrun, hfab⟩ := tileOp_runs _ hcur
  refine ⟨v, hrun, ?_⟩
  rw [hl] at hfab
  exact hfab

end

/-! ## PRW (R162, R165) -/

theorem exec_prw (p : BitVec 5) (port : BitVec 2) (line : BitVec 8) (s : State) :
    exec (.prw p port line) s = execPrw p port line s := rfl

/-- What a remote write leaves in the writer and in the neighbour (R162): where the slot has closed, pointer and pond move
to the next index. -/
def remoteTiles (T : Tile) (k p : Nat) (q : RPtr) (o : WOut) : Tile × Tile :=
  if o.closed then ({ T with rptr := tset RPtr.zero T.rptr k { q with work := q.work + 1 } },
    o.tile.setPond p { o.tile.pond p with ww := q.work + 1 }) else (T, o.tile)

theorem remoteTiles_rest (T : Tile) (k p : Nat) (q : RPtr) (o : WOut) :
    { (remoteTiles T k p q o).1 with rptr := T.rptr } = T := by
  unfold remoteTiles
  split
  · rfl
  · rfl

/-- A remote write that closes its slot: the neighbour's slot and pond, and the writer's pointer (R162). -/
theorem remoteTiles_closed (T : Tile) (k : Nat) (q : RPtr) {N : Tile} {p key : Nat} {m : Word} {d : Deliv} {o : WOut}
    (ho : o = ⟨(N.stageLine key m d).countToken p, [], true⟩) :
    o.toks = [] ∧ tget 0 (remoteTiles T k p q o).2.slots key = m ∧ (remoteTiles T k p q o).2.dels = N.dels ++ [d] ∧
      ((remoteTiles T k p q o).2.pond p).ww = q.work + 1 ∧
      (tget RPtr.zero (remoteTiles T k p q o).1.rptr k).work = q.work + 1 := by
  subst ho
  exact ⟨rfl, tget_tset_same _ _ _ _, rfl, congrArg Pond.ww (Tile.pond_setPond_same _ _ _),
    congrArg RPtr.work (tget_tset_same _ _ _ _)⟩

theorem remoteWrite_eq {c : FabCtx} {ts : Tab Tile} {port p l n : Nat} {v : Line} {T N : Tile} {q : RPtr} {o : WOut}
    (hn : neighbour c port = some n) (hT : T = tget Tile.zero ts c.t) (hN : N = tget Tile.zero ts n)
    (hq : q = tget RPtr.zero T.rptr (rptrKey port p))
    (ho : N.writeSlot c p q.work.toNat l ⟨q.entry, q.swz, q.fmt⟩ v (1 + hopCycles c.t n) skRemote = o) :
    remoteWrite c ts port p l v =
      ⟨tset Tile.zero (tset Tile.zero ts n (remoteTiles T (rptrKey port p) p q o).2) c.t
        (remoteTiles T (rptrKey port p) p q o).1, o.toks, none, none⟩ := by
  subst hT hN hq
  rw [remoteWrite, hn]
  dsimp only
  rw [ho]
  unfold remoteTiles
  split
  · rfl
  · rfl

section

variable {s : State} {r u word iter n : Nat} {T : Tile} {c : FabCtx} {l : Line} {q : RPtr}

theorem exec_prw_none (p : BitVec 5) (port : BitVec 2) (line : BitVec 8) (hcur : s.cur = .tile r u word iter)
    (hT : T = s.tile u) (hc : c = s.fabCtx r u word iter)
    (h : latchAt T.dels .pout c.cyc = none ∨ neighbour c port.toNat = none) :
    ∃ v, exec (.prw p port line) s = .next v ∧ s.fabric v r [] [] := by
  subst hT hc
  rw [exec_prw, execPrw]
  refine onFabric_pure _ hcur ?_
  split
  case h_1 l hl =>
    have hpout : latchAt (s.tile u).dels .pout (s.fabCtx r u word iter).cyc = some l := hl
    have hn := h.resolve_left fun hnone => Option.some_ne_none l (hpout.symm.trans hnone)
    rw [remoteWrite, hn]
  case h_2 => rfl

theorem exec_prw_some (p : BitVec 5) (port : BitVec 2) (line : BitVec 8) (hcur : s.cur = .tile r u word iter)
    (hT : T = s.tile u) (hc : c = s.fabCtx r u word iter) (hl : latchAt T.dels .pout c.cyc = some l)
    (hn : neighbour c port.toNat = some n) (hq : q = tget RPtr.zero T.rptr (rptrKey port.toNat p.toNat)) {o : WOut}
    (ho : (s.tile n).writeSlot c p.toNat q.work.toNat line.toNat ⟨q.entry, q.swz, q.fmt⟩ l (1 + hopCycles u n)
      skRemote = o) :
    ∃ v, exec (.prw p port line) s = .next v ∧ s.fabric v r
      [(u, (remoteTiles T (rptrKey port.toNat p.toNat) p.toNat q o).1),
        (n, (remoteTiles T (rptrKey port.toNat p.toNat) p.toNat q o).2)] o.toks := by
  subst hT hc
  rw [exec_prw, execPrw]
  refine onFabric_two _ hcur (neighbour_ne hn) ?_
  have hpout : latchAt (tget Tile.zero s.tiles (s.fabCtx r u word iter).t).dels .pout (s.fabCtx r u word iter).cyc =
      some l := hl
  rw [hpout]
  exact remoteWrite_eq hn rfl rfl hq ho

end

/-! ## PADV (R163, R166, R266) -/

theorem exec_padv (p : BitVec 5) (n : BitVec 8) (s : State) : exec (.padv p n) s = execPadv p n s := rfl

/-- A pond whose working read index moves past `n` slots of which `sl` are sluice slots. -/
def Pond.passed (q : Pond) (sluice : Bool) (n sl : Nat) : Pond :=
  let q1 := { q with wr := q.wr + BitVec.ofNat 32 n }
  if sl ≠ 0 ∧ !sluice then { q1 with mon := monSet q1.mon 0 10 1023 } else q1.countCons (n - sl)

theorem Tile.advance_tile (T : Tile) (c : FabCtx) (p n : Nat) :
    (T.advance c p n).1 = T.setPond p ((T.pond p).passed c.sluice n (T.passSluice p (T.pond p).wr.toNat n)) := rfl

theorem Tile.advance_toks_none {T : Tile} {c : FabCtx} {p n : Nat}
    (h : T.passCheck p (T.pond p).wr.toNat n = none) : (T.advance c p n).2 = [] := by
  simp only [Tile.advance, h]

theorem Tile.advance_toks_some {T : Tile} {c : FabCtx} {p n k : Nat}
    (h : T.passCheck p (T.pond p).wr.toNat n = some k) : (T.advance c p n).2 = [c.direct slotS k] := by
  simp only [Tile.advance, h]

theorem Pond.passed_rest (q : Pond) (sluice : Bool) (n sl : Nat) :
    { q.passed sluice n sl with mon := q.mon } = { q with wr := q.wr + BitVec.ofNat 32 n } := by
  unfold Pond.passed
  dsimp only
  split
  · rfl
  · rfl

theorem Pond.monCons_passed (q : Pond) (sluice : Bool) (n sl : Nat) :
    monCons (q.passed sluice n sl).mon =
      if sl ≠ 0 ∧ sluice = false then 1023 else min (monCons q.mon + (n - sl)) 1023 := by
  unfold Pond.passed
  simp only [Bool.not_eq_true']
  split
  · exact bitsOf_smSet_same q.mon 1023 (by decide)
  · exact Pond.monCons_countCons _ _

/-! ## PRD, PTAGC (R165, R166) -/

/-- The token of a first read that fails its check (R163). -/
def checkToks (c : FabCtx) : Option Nat → List Token
  | some k => [c.direct slotS k]
  | none => []

theorem exec_prd (p : BitVec 5) (line : BitVec 10) (s : State) : exec (.prd p line) s = execPrd p line s := rfl
theorem exec_ptagc (p : BitVec 5) (j : BitVec 8) (s : State) : exec (.ptagc p j) s = execPtagc p j s := rfl

section

variable {s : State} {r u word iter x : Nat} {T : Tile} {c : FabCtx}

theorem exec_prd_runs (p : BitVec 5) (line : BitVec 10) (hcur : s.cur = .tile r u word iter) (hT : T = s.tile u)
    (hc : c = s.fabCtx r u word iter) (hx : x = (T.pond p.toNat).wr.toNat) :
    ∃ v, exec (.prd p line) s = .next v ∧ s.fabric v r
      [(u, ((T.firstRead p.toNat x).1.noteSlot p.toNat x line.toNat).send (c.cyc + 3) .pin
        ((T.firstRead p.toNat x).1.slotLine c p.toNat x line.toNat (T.firstRead p.toNat x).2))]
      (checkToks c (T.firstRead p.toNat x).2) := by
  subst hT hc hx
  rw [exec_prd, execPrd]
  obtain ⟨v, hrun, hfab⟩ := tileOp_runs _ hcur
  exact ⟨v, hrun, hfab⟩

theorem exec_ptagc_runs (p : BitVec 5) (j : BitVec 8) (hcur : s.cur = .tile r u word iter) (hT : T = s.tile u)
    (hc : c = s.fabCtx r u word iter) (hx : x = ((T.pond p.toNat).wr + j.setWidth 32).toNat) :
    ∃ v, exec (.ptagc p j) s = .next v ∧ s.fabric v r [(u, (T.firstRead p.toNat x).1)]
      (checkToks c (T.firstRead p.toNat x).2) := by
  subst hT hc hx
  rw [exec_ptagc, execPtagc, ← BitVec.ofNat_toNat]
  obtain ⟨v, hrun, hfab⟩ := tileOp_runs _ hcur
  exact ⟨v, hrun, hfab⟩

end

/-! ## The five pond instructions -/

/-- Settles O43: a first read and a slot write have one outcome for each result of their check (R161, R163); PRW is the same
write in the neighbour's tile, which the model judges and closes at its issue (R162). -/
theorem pondInstructionsReadAndWriteSlots : Obligations.PondInstructionsReadAndWriteSlots := by
  intro s r u word iter T c hcur hT hc
  refine ⟨fun p line q x raw hq hx hraw => ?prd, fun p line i q x m hi hq hx hm => ⟨fun hnone => ?pwrNone, fun l hl =>
    ⟨fun hp => ?pwrPoisoned, fun hp hfull => ?pwrFull, fun hp hopen => ?pwrOpen⟩⟩,
    fun p port line i q hi hq => ⟨fun hnone => ?prwNone, fun l n N key m hl hn hN hkey hm => ?prw⟩,
    fun p n q x sl hq hx hsl => ?padv, fun p j x hx => ?ptagc⟩
  case prd =>
    subst hq
    obtain ⟨v, hrun, hfab⟩ := exec_prd_runs p line hcur hT hc hx
    obtain ⟨seen, hseen⟩ := T.firstRead_tile p.toNat x
    obtain ⟨n, hnote⟩ := (T.firstRead p.toNat x).1.noteSlot_tile p.toNat x line.toNat
    have hread := T.firstRead_isSeen p.toNat x
    rw [hnote] at hfab
    rw [hseen] at hfab hread
    refine ⟨v, _, _, _, hrun, hfab, rfl, rfl, hread, fun k hnew hk => ?_, fun hpass => ?_⟩
    · rw [Tile.firstRead_cause_some hnew hk, hraw]
      exact ⟨rfl, rfl⟩
    · rw [Tile.firstRead_cause_none hpass]
      exact ⟨rfl, T.slotLine_passed c p.toNat x line.toNat hraw⟩
  case pwrNone =>
    subst hi
    exact exec_pwr_none p line hcur hT hc hnone
  case pwrPoisoned =>
    subst hi hq hx hm
    obtain ⟨v, hrun, hfab⟩ := exec_pwr_some p line hcur hT hc hl
    rw [Tile.localWrite_poisoned hp] at hfab
    refine ⟨v, _, hrun, hfab, rfl, ?_, ?_⟩
    · rw [Tile.slot_setSlot_same, smPois_poison]
    · rw [Tile.slot_setSlot_same, smState_poison]
  case pwrFull =>
    subst hi hq hx
    obtain ⟨v, hrun, hfab⟩ := exec_pwr_some p line hcur hT hc hl
    rw [Tile.localWrite_fullbit hp hfull] at hfab
    exact ⟨v, hrun, hfab⟩
  case pwrOpen =>
    subst hi hq hx hm
    obtain ⟨v, hrun, hfab⟩ := exec_pwr_some p line hcur hT hc hl
    by_cases hlast : line.toNat + 1 = peLines (T.pond p.toNat).entry
    · obtain ⟨ss, ps, X, hwrite, hX, hslot, hpond⟩ := Tile.localWrite_last (c := c) rfl hp hopen hlast
      rw [hwrite] at hfab
      refine ⟨v, X, hrun, hfab, by rw [hX]; rfl, by rw [hX], by rw [hX], ?_⟩
      rw [hslot, hpond]
      exact ⟨smState_stageClose _ _ _ _, smPois_stageClose _ _ _ _, fun _ => ⟨smClosed_stageClose _ _ _ _,
        smTag_stageClose _ _ _ _, (smSwz_stageClose _ _ _ _).trans (peSwz_mod _),
        (smFmt_stageClose _ _ _ _).trans (peFmt_mod _), rfl, Pond.monProd_countProd _⟩, fun h => absurd hlast h⟩
    · rw [Tile.localWrite_inner hp hopen hlast] at hfab
      refine ⟨v, _, hrun, hfab, rfl, rfl, rfl, ?_⟩
      rw [Tile.slot_stageLine]
      exact ⟨smState_stage _, smPois_stage _, fun h => absurd h hlast, fun _ => rfl⟩
  case prwNone =>
    subst hi
    exact exec_prw_none p port line hcur hT hc hnone
  case prw =>
    subst hi hkey hm
    let w : WTarget := ⟨q.entry, q.swz, q.fmt⟩
    obtain ⟨o, ho⟩ : ∃ o, N.writeSlot c p.toNat q.work.toNat line.toNat w l (1 + hopCycles u n) skRemote = o := ⟨_, rfl⟩
    obtain ⟨v, hrun, hfab⟩ := exec_prw_some p port line hcur hT hc hl hn hq (hN ▸ ho)
    have hdelay : 1 + hopCycles u n ≠ 0 := by omega
    refine ⟨v, _, _, _, hrun, hfab, remoteTiles_rest _ _ _ _ _, fun hp => ?_, fun hp hfull => ?_, fun hp hopen => ?_⟩
    · rw [Tile.writeSlot_poisoned hp] at ho
      subst ho
      exact ⟨rfl, rfl, rfl, (congrArg smPois (tget_tset_same _ _ _ _)).trans (smPois_poison _)⟩
    · rw [Tile.writeSlot_fullbit (w := w) hp hfull] at ho
      subst ho
      exact ⟨rfl, rfl, rfl⟩
    · by_cases hlast : line.toNat + 1 = peLines q.entry
      · obtain ⟨htoks, hslot, hdels, hpond, hptr⟩ := remoteTiles_closed T (rptrKey port.toNat p.toNat) q
          (ho.symm.trans (Tile.writeSlot_last (w := w) hp hopen hdelay hlast))
        refine ⟨htoks, ?_, hdels, fun _ => ⟨?_, ?_, hpond, hptr⟩, fun h => absurd hlast h⟩
        · exact (congrArg smState hslot).trans (smState_stageClose _ _ _ _)
        · exact (congrArg smClosed hslot).trans (smClosed_stageClose _ _ _ _)
        · exact (congrArg smTag hslot).trans (smTag_stageClose _ _ _ _)
      · rw [Tile.writeSlot_inner (w := w) hp hopen hdelay hlast] at ho
        subst ho
        exact ⟨rfl, (congrArg smState (tget_tset_same _ _ _ _)).trans (smState_stage _), rfl,
          fun h => absurd h hlast, fun _ => ⟨rfl, rfl⟩⟩
  case padv =>
    subst hq hx hsl
    rw [exec_padv, execPadv]
    obtain ⟨v, hrun, hfab⟩ := tileOp_runs (fun c T => T.advance c p.toNat n.toNat) hcur
    rw [← hT, ← hc, Tile.advance_tile] at hfab
    refine ⟨v, _, _, hrun, hfab, rfl, fun k hk => T.pond_setPond_ne _ hk, ?_, ?_, Tile.advance_toks_none,
      fun k => Tile.advance_toks_some⟩
    · rw [Tile.pond_setPond_same, Pond.passed_rest, BitVec.ofNat_toNat]
    · rw [Tile.pond_setPond_same, Pond.monCons_passed]
  case ptagc =>
    obtain ⟨v, hrun, hfab⟩ := exec_ptagc_runs p j hcur hT hc hx
    obtain ⟨seen, hseen⟩ := T.firstRead_tile p.toNat x
    refine ⟨v, _, _, hrun, hfab, by rw [hseen], T.firstRead_isSeen p.toNat x, fun k hnew hk => ?_, fun hpass => ?_⟩
    · rw [Tile.firstRead_cause_some hnew hk]
      rfl
    · rw [Tile.firstRead_cause_none hpass]
      rfl

end Sys2Proof.Machine

/-! PROOFS. An admitted line of another package at its home (R358, R364), and the header for which O52 fails. -/

namespace Sys2Proof.Machine

/-! ## An ordered write that its gateway admits -/

theorem exec_orderedLineArrival (l : LineIn) (s : State) : exec (.orderedLineArrival l) s = .next (s.wake.lineArrive l) := rfl

/-- A line that passes its checks, that its gateway admits and that may write its address is performed from the state in
which the gateway has counted it. -/
theorem State.lineArrive_admitted {s : State} {l : LineIn} {key : BitVec 768}
    (hcheck : s.checkLine l (.line l) = (s, some key)) (harc : l.arc = none) (hserves : s.homeServes l.addr = true)
    (hgate : (s.lineGate l).2 = .admitted) (hright : (s.lineGate l).1.remoteRight l.part l.addr 1 = true) :
    s.lineArrive l = ((s.lineGate l).1.rxPass l key).remoteWrite l key := by
  simp [State.lineArrive, hcheck, harc, hserves, hgate, hright]

theorem State.cipher_setCipher (s : State) (a : Nat) (c : Cipher) : tget none (s.setCipher a c).cipher (a / 128) = some c :=
  tget_tset_same none s.cipher (a / 128) (some c)

/-- The tag area takes the slot that the route entry names when the write is performed. -/
theorem State.cipher_remoteWrite {s : State} {l : LineIn} {a : Nat} (key : BitVec 768)
    (htarget : remoteTarget l.addr = .hbm a) (hvote : (s.remapVote (chanOf a)).2 = true) :
    tget none (s.remoteWrite l key).cipher (a / 128) = some ⟨s.routeSlot l.src, l.src, l.seq, l.tag, l.data⟩ := by
  simp only [State.remoteWrite, htarget, hvote, Bool.not_true, Bool.false_eq_true, if_false]
  exact State.cipher_setCipher _ _ _

/-! ## The counterexample: a header whose numbers are out of range

A partition is numbered to 15 (R12), and the route table has entries for 1,024 packages (R356). LineIn bounds neither number
of its header, and the model takes the address of a register from either as it stands. -/

/-- A source package and a partition that the counterexample's header names. -/
def farSrc : Nat := 7694
def farPart : Nat := 0x3E0001

/-- The gateway's count of that partition is the word that the route entry of that package is read from. -/
theorem prbAt_farPart : prbAt farPart 0x1070 = brbRouteAt farSrc := rfl

def farKey : BitVec 768 := 7

/-- Eight bytes to 0x1000, with the tag of farKey. -/
def farLine : LineIn :=
  { src := farSrc, part := farPart, owner := 0, port := 0, vc := 0, dst := Config.pkgId.toNat, seq := 0, addr := 0x1000,
    len := 8, data := 0, tag := Config.gmacTag farKey farSrc 0 0x1000 0, crcOk := true, lane := 0, arc := none }

/-- Slot 0 holds farKey, the partition may write the line's channel, and its gateway has admitted 255 units: the next one
carries into the bits that the route entry has for KSLOT. -/
def farState : State :=
  { State.reset with
    keys := [(0, ⟨some farKey, none, 0⟩)]
    win := [(Config.mat 0 + 8 * (farPart / 2), BitVec.allOnes 64), (prbAt farPart 0x1070, 0xFF)] }

theorem farState_lineKey : farState.wake.lineKey farLine = some farKey := by
  have hslot : farState.wake.routeSlot farSrc = 0 := by decide +kernel
  have hkey : farState.wake.key 0 = ⟨some farKey, none, 0⟩ := rfl
  simp [State.lineKey, State.tagKey, hslot, hkey, farLine, lineBase]

theorem farState_checkLine (again : Turn) : farState.wake.checkLine farLine again = (farState.wake, some farKey) :=
  State.checkLine_passes again rfl rfl farState_lineKey (Nat.zero_le _) rfl

theorem farState_admits :
    farState.wake.homeServes farLine.addr = true ∧ (farState.wake.lineGate farLine).2 = .admitted ∧
    (farState.wake.lineGate farLine).1.remoteRight farLine.part farLine.addr 1 = true ∧
    remoteTarget farLine.addr = .hbm 0x1000 ∧
    (((farState.wake.lineGate farLine).1.rxPass farLine farKey).remapVote (chanOf 0x1000)).2 = true := by decide +kernel

/-- Admitting the line turns KSLOT of its source's route entry from 0 to 1. -/
theorem farState_routeSlot :
    farState.routeSlot farSrc = 0 ∧ ((farState.wake.lineGate farLine).1.rxPass farLine farKey).routeSlot farSrc = 1 := by
  rw [State.routeSlot, State.routeSlot, ← prbAt_farPart]
  decide +kernel

/-- Refutes O52: the statement takes the slot that the tag area notes of a performed line from the state before the
arrival, and binds neither the source package nor the partition of the header. For package 7694 and partition 0x3E0001 the
gateway's count of admitted units stands at the route entry of the source, and admitting the line changes that slot. -/
theorem not_copyEnginesAndLinksMoveLines : ¬ Obligations.CopyEnginesAndLinksMoveLines := by
  intro h
  obtain ⟨hserves, hgate, hright, htarget, hvote⟩ := farState_admits
  obtain ⟨hbefore, hafter⟩ := farState_routeSlot
  obtain ⟨-, -, -, hline, -⟩ := h farState
  obtain ⟨-, -, hown⟩ := hline farLine _ rfl
  obtain ⟨-, -, -, hpass⟩ := hown rfl rfl
  obtain ⟨-, hdone⟩ := hpass farKey _ farState_lineKey (Nat.zero_le _) rfl rfl
  obtain ⟨u, hexec, -, -, -, hwrite⟩ := hdone (.inr hserves)
  obtain ⟨-, -, -, -, hcipher⟩ := hwrite 0x1000 _ hgate rfl hright htarget (Prod.ext rfl hvote)
  have hu : u = ((farState.wake.lineGate farLine).1.rxPass farLine farKey).remoteWrite farLine farKey := by
    rw [exec_orderedLineArrival, State.lineArrive_admitted (farState_checkLine _) rfl hserves hgate hright] at hexec
    exact (Host.Outcome.next.inj hexec).symm
  rw [hu, State.cipher_remoteWrite farKey htarget hvote] at hcipher
  have hslots : ((farState.wake.lineGate farLine).1.rxPass farLine farKey).routeSlot farSrc = farState.routeSlot farSrc :=
    congrArg Cipher.slot (Option.some.inj hcipher)
  rw [hbefore, hafter] at hslots
  exact absurd hslots (by decide)

end Sys2Proof.Machine

/-! PROOFS. The commands of a timeline act on their channel, its assembly buffer and memory (R287, R291 to R296, R300; O47). -/

namespace Sys2Proof.Machine

/-! ## Channels, assembly buffers and errors of lines after an update -/

theorem State.chan_setChan_same (s : State) (c : Nat) (C : Chan) : (s.setChan c C).chan c = C := tget_tset_same _ _ _ _
theorem State.chan_setChan_ne (s : State) {c k : Nat} (C : Chan) (h : k ≠ c) : (s.setChan c C).chan k = s.chan k :=
  tget_tset_ne _ _ _ h
theorem State.twe_setTwe_same (s : State) (u : Nat) (x : Twe) : (s.setTwe u x).twe u = x := tget_tset_same _ _ _ _

theorem tget_tset_eq {α : Type} [DecidableEq α] (d : α) (t : Tab α) (n k : Nat) (v : α) :
    tget d (tset d t n v) k = if k = n then v else tget d t k := by
  by_cases h : k = n
  · rw [if_pos h, h, tget_tset_same]
  · rw [if_neg h, tget_tset_ne _ _ _ h]

/-- The tile that the assembly buffer gives for a shape record is that record's. -/
theorem State.shape_asmTile (s : State) (u shape : Nat) : (s.asmTile u shape).shape = shape := by
  unfold State.asmTile
  cases hfind : (s.twe u).asm.find? fun a => decide (a.shape = shape) with
  | none => rfl
  | some a =>
    have found := List.find?_some hfind
    exact of_decide_eq_true found

theorem State.asmTile_setAsm (s : State) (u : Nat) {shape : Nat} {a : AsmTile} (h : a.shape = shape) :
    (s.setAsm u a).asmTile u shape = a := by
  subst h
  have others :
      ((s.twe u).asm.filter fun b => decide (b.shape ≠ a.shape)).find? (fun b => decide (b.shape = a.shape)) = none :=
    List.find?_eq_none.mpr fun b hb => by simpa using (List.mem_filter.mp hb).2
  rw [State.setAsm, State.asmTile, State.twe_setTwe_same, List.find?_append, others]
  simp

/-- Lines that a repair has corrected, and lines that had no error, have none. -/
theorem tget_mended (ps : List (Nat × Nat)) (m : Tab Nat) (k : Nat)
    (h : tget 0 m k = 0 ∨ ∃ q ∈ ps, memKey q.1 / 64 = k) :
    tget 0 (ps.foldl (fun m q => tset 0 m (memKey q.1 / 64) 0) m) k = 0 := by
  induction ps generalizing m with
  | nil => simpa using h
  | cons q ps ih =>
    refine ih _ ?_
    rw [tget_tset_eq]
    by_cases hk : k = memKey q.1 / 64
    · exact .inl (if_pos hk)
    · rw [if_neg hk]
      exact h.imp_right fun ⟨x, hx, he⟩ => ⟨x, (List.mem_cons.mp hx).resolve_left fun e => hk (by rw [← he, e]), he⟩

/-! ## The vote of a remap table (R297) -/

theorem State.foldl_setWf (f : Nat → Nat) (lo len v : Nat) (l : List Nat) (s : State) :
    ∃ w, l.foldl (fun s j => s.setWf (f j) lo len v) s = { s with win := w } := by
  induction l generalizing s with
  | nil => exact ⟨_, rfl⟩
  | cons j l ih => exact ih (s.setWf (f j) lo len v)

/-- A vote changes registers, the remap table and the interrupts, nothing else. -/
theorem State.remapVote_fst (s : State) (c : Nat) :
    ∃ w m q, (s.remapVote c).1 = { s with win := w, remap := m, irqs := q } := by
  obtain ⟨w, degraded⟩ := State.foldl_setWf (fun j => hcbAt (32 * (c / 32) + j) 0) 4 1 1 (List.range 32) s
  unfold State.remapVote
  dsimp only
  rw [degraded]
  iterate 5
    split
    · exact ⟨_, _, _, rfl⟩
  exact ⟨_, _, _, rfl⟩

theorem State.voteLine_fst (s : State) (pa : Nat) :
    ∃ w m q, (s.voteLine pa).1 = { s with win := w, remap := m, irqs := q } := by
  unfold State.voteLine
  split
  · exact s.remapVote_fst _
  · exact ⟨_, _, _, rfl⟩

theorem State.mem_voteLine (s : State) (pa : Nat) : (s.voteLine pa).1.mem = s.mem := by
  obtain ⟨w, m, q, h⟩ := s.voteLine_fst pa
  rw [h]
theorem State.asmTile_voteLine (s : State) (pa u shape : Nat) : (s.voteLine pa).1.asmTile u shape = s.asmTile u shape := by
  obtain ⟨w, m, q, h⟩ := s.voteLine_fst pa
  rw [h]
  rfl

theorem State.remapVote_setRegion (s : State) (r c : Nat) (R : Region) :
    ((s.setRegion r R).remapVote c).2 = (s.remapVote c).2 := by
  simp only [State.remapVote, apply_ite Prod.snd]
  rfl

theorem State.voteLine_setRegion (s : State) (r pa : Nat) (R : Region) :
    ((s.setRegion r R).voteLine pa).2 = (s.voteLine pa).2 := by
  unfold State.voteLine
  split
  · exact s.remapVote_setRegion r _ R
  · rfl

/-! ## What the steps of a tile leave as it was -/

/-- Serving a step changes no memory, no channel and no partition, and brings no error to a line without one. -/
structure ServesStep (s u : State) : Prop where
  mem : u.mem = s.mem
  chans : u.chans = s.chans
  parts : u.parts = s.parts
  errs : ∀ k, tget 0 s.hbmErr k = 0 → tget 0 u.hbmErr k = 0

namespace ServesStep

theorem refl (s : State) : ServesStep s s := ⟨rfl, rfl, rfl, fun _ h => h⟩
theorem trans {s t u : State} (h : ServesStep s t) (k : ServesStep t u) : ServesStep s u :=
  ⟨k.mem.trans h.mem, k.chans.trans h.chans, k.parts.trans h.parts, fun n e => k.errs n (h.errs n e)⟩

theorem setTwe (s : State) (u : Nat) (x : Twe) : ServesStep s (s.setTwe u x) := ⟨rfl, rfl, rfl, fun _ h => h⟩
theorem setRegion (s : State) (r : Nat) (R : Region) : ServesStep s (s.setRegion r R) := ⟨rfl, rfl, rfl, fun _ h => h⟩
theorem bumpW (s : State) (pa lo len n : Nat) : ServesStep s (s.bumpW pa lo len n) := ⟨rfl, rfl, rfl, fun _ h => h⟩
theorem setAsm (s : State) (u : Nat) (a : AsmTile) : ServesStep s (s.setAsm u a) := ⟨rfl, rfl, rfl, fun _ h => h⟩
theorem dropAsm (s : State) (u shape : Nat) : ServesStep s (s.dropAsm u shape) := ⟨rfl, rfl, rfl, fun _ h => h⟩
theorem bumpDc (s : State) (p n k : Nat) : ServesStep s (s.bumpDc p n k) := by
  unfold State.bumpDc
  split
  · exact bumpW s _ _ _ _
  · exact refl s

theorem foldl {α : Type} {f : State → α → State} (hf : ∀ s x, ServesStep s (f s x)) (l : List α) (s : State) :
    ServesStep s (l.foldl f s) := by
  induction l generalizing s with
  | nil => exact refl s
  | cons x l ih => exact (hf s x).trans (ih _)

theorem foldl_fst {α β : Type} {f : State × β → α → State × β} (hf : ∀ a x, ServesStep a.1 (f a x).1) (l : List α)
    (a : State × β) : ServesStep a.1 (l.foldl f a).1 := by
  induction l generalizing a with
  | nil => exact refl a.1
  | cons x l ih => exact (hf a x).trans (ih _)

theorem remapVote (s : State) (c : Nat) : ServesStep s (s.remapVote c).1 := by
  obtain ⟨w, m, q, h⟩ := s.remapVote_fst c
  rw [h]
  exact ⟨rfl, rfl, rfl, fun _ h => h⟩

/-- A line repaired in place has lost its error. -/
theorem clearErr (s : State) (n : Nat) : ServesStep s { s with hbmErr := tset 0 s.hbmErr n 0 } :=
  ⟨rfl, rfl, rfl, fun k h => by
    dsimp only
    rw [tget_tset_eq, h, ite_self]⟩

theorem hbmServe (s : State) (a : Nat) : ServesStep s (s.hbmServe a).1 := by
  have vote := remapVote s (chanOf a)
  unfold State.hbmServe
  dsimp only
  split
  · exact vote
  · split
    · exact vote
    · split
      · exact vote
      · exact vote.trans ((clearErr _ (a / 64)).trans (bumpW _ _ _ _ _))
      · exact vote.trans (bumpW _ _ _ _ _)

theorem serveLine (s : State) (pa : Nat) : ServesStep s (s.serveLine pa).1 := by
  unfold State.serveLine
  split
  · exact hbmServe s _
  · exact refl s

theorem recordBytes (s : State) (p : Nat) (us : List Nat) (va : Nat) : ServesStep s (s.recordBytes p us va).1 := by
  refine foldl_fst (fun a k => ?_) _ (s, some [])
  dsimp only
  split
  · split
    · exact refl a.1
    · split
      · exact serveLine a.1 _
      · exact serveLine a.1 _
  · exact refl a.1

theorem useRecord (s : State) (p n va : Nat) (drain : Bool) : ServesStep s (s.useRecord p n va drain).1 := by
  have read := recordBytes s p (s.tweUnits p n) va
  unfold State.useRecord
  dsimp only
  split
  · exact refl s
  · split
    · exact read
    · split
      · exact read
      · exact read.trans (setTwe _ _ _)

theorem takePermit (s : State) (n : Nat) (dest : Option Nat) (pond : Nat) (drain : Bool) (home : Nat) :
    ServesStep s (s.takePermit n dest pond drain home).1 := by
  unfold State.takePermit
  dsimp only
  split
  · exact bumpW s _ _ _ _
  · split
    · exact bumpW s _ _ _ _
    · exact setTwe s _ _

theorem deliverTile (s : State) (r n u : Nat) (x : Shape) (image : List Line) :
    ServesStep s (s.deliverTile r n u x image) := by
  unfold State.deliverTile
  split
  · exact refl s
  · dsimp only
    generalize hf : (fun (acc : State × List (Nat × Nat × Nat)) (d : Nat × Nat × Nat) => _) = f
    have served : ServesStep s (x.dest.foldl f (s, [])).1 := by
      refine foldl_fst (fun a d => ?_) x.dest (s, [])
      subst hf
      dsimp only
      split
      · exact takePermit a.1 _ _ _ _ _
      · exact takePermit a.1 _ _ _ _ _
    split
    · exact served
    · exact served.trans (setRegion _ _ _)

theorem fillCache (s : State) (p u slot : Nat) (x : Shape) (image : List Line) :
    ServesStep s (s.fillCache p u slot x image) :=
  foldl (fun s _ => setTwe s _ _) _ s

theorem finishTile (s : State) (p r t u : Nat) (x : Shape) (e : BitVec 128) : ServesStep s (s.finishTile p r t u x e) := by
  unfold State.finishTile
  dsimp only
  split
  · exact setAsm s _ _
  · have dropped := dropAsm s u (teShape e)
    split
    · exact dropped.trans ((fillCache _ _ _ _ _ _).trans (deliverTile _ _ _ _ _ _))
    · exact dropped.trans (deliverTile _ _ _ _ _ _)

theorem putPiece (s : State) (p r t u : Nat) (x : Shape) (e : BitVec 128) (l : Line) :
    ServesStep s (s.putPiece p r t u x e l) := by
  unfold State.putPiece
  dsimp only
  have put := setAsm s u { s.asmTile u (teShape e) with pieces := tput (s.asmTile u (teShape e)).pieces (tePiece e) l }
  split
  · exact put.trans (finishTile _ _ _ _ _ _ _)
  · split
    · exact put.trans (finishTile _ _ _ _ _ _ _)
    · exact put

end ServesStep

/-! ## The commands of the dispatch -/

theorem exec_act (c : Nat) (bank : BitVec 6) (row : BitVec 14) (s : State) :
    exec (.act c bank row) s = .next (s.timelineAct c bank.toNat row.toNat) := rfl
theorem exec_pre (c : Nat) (bank : BitVec 6) (s : State) : exec (.pre c bank) s = .next (s.timelinePre c bank.toNat) := rfl
theorem exec_prea (c : Nat) (s : State) : exec (.prea c) s = .next (s.timelinePrea c) := rfl
theorem exec_ref (c : Nat) (s : State) : exec (.ref c) s = .next (s.timelineRef c) := rfl
theorem exec_rd (c : Nat) (bank : BitVec 6) (col : BitVec 5) (n : BitVec 8) (s : State) :
    exec (.rd c bank col n) s = .next (s.timelineRead c bank.toNat col.toNat n.toNat) := rfl
theorem exec_wr (c : Nat) (bank : BitVec 6) (col : BitVec 5) (n : BitVec 8) (s : State) :
    exec (.wr c bank col n) s = .next (s.timelineWrite c ((s.chan c).step n.toNat)) := rfl
theorem exec_twstep (c : Nat) (n : BitVec 8) (s : State) : exec (.twstep c n) s = .next (s.timelineCache c n.toNat) := rfl
theorem exec_repair (c : Nat) (s : State) : exec (.repair c) s = .next (s.timelineRepair c) := rfl

/-! ## Rows and refreshes (R291, R293) -/

/-- A command that changes the open rows of a channel changes nothing else. -/
theorem State.setOpen_only (s : State) (c b v : Nat) (C : Chan) (hC : C = s.chan c) :
    let u := s.setChan c { s.chan c with open_ := tset 0 (s.chan c).open_ b v }
    { u with chans := s.chans } = s ∧ (∀ k, k ≠ c → u.chan k = s.chan k) ∧ { u.chan c with open_ := C.open_ } = C ∧
      ∀ k, tget 0 (u.chan c).open_ k = if k = b then v else tget 0 C.open_ k := by
  subst hC
  refine ⟨rfl, fun k hk => s.chan_setChan_ne _ hk, ?_, fun k => ?_⟩
  · rw [State.chan_setChan_same]
  · rw [State.chan_setChan_same]
    exact tget_tset_eq 0 _ b k v

theorem State.timelineAct_of_bad {s : State} {c : Nat} (b row : Nat) (h : s.jedecBad c = true) : s.timelineAct c b row = s :=
  if_pos h
theorem State.timelineAct_of_ok {s : State} {c : Nat} (b row : Nat) (h : s.jedecBad c = false) :
    s.timelineAct c b row = s.setChan c { s.chan c with open_ := tset 0 (s.chan c).open_ b (row + 1) } :=
  if_neg (by simp [h])
theorem State.timelinePre_of_bad {s : State} {c : Nat} (b : Nat) (h : s.jedecBad c = true) : s.timelinePre c b = s := if_pos h
theorem State.timelinePre_of_ok {s : State} {c : Nat} (b : Nat) (h : s.jedecBad c = false) :
    s.timelinePre c b = s.setChan c { s.chan c with open_ := tset 0 (s.chan c).open_ b 0 } := if_neg (by simp [h])
theorem State.timelinePrea_of_bad {s : State} {c : Nat} (h : s.jedecBad c = true) : s.timelinePrea c = s := if_pos h
theorem State.timelinePrea_of_ok {s : State} {c : Nat} (h : s.jedecBad c = false) :
    s.timelinePrea c = s.setChan c { s.chan c with open_ := [] } := if_neg (by simp [h])

theorem State.timelineRef_idle {s : State} {c : Nat} (h : (s.chan c).retreat = false ∨ s.jedecBad c = true) :
    s.timelineRef c = s := by
  rcases h with h | h <;> simp [State.timelineRef, h]
theorem State.timelineRef_counts {s : State} {c : Nat} (hr : (s.chan c).retreat = true) (hj : s.jedecBad c = false) :
    s.timelineRef c = s.setChan c { s.chan c with
      refMiss := (s.chan c).refMiss || (s.chan c).shortOfRefs s.now
      refs := (s.chan c).refs.filter (fun n => decide (s.now < n + Config.refreshWindow)) ++ [s.now] } := by
  simp [State.timelineRef, hr, hj]

/-! ## Placing a piece (R300) -/

/-- A piece that neither ends its tile nor was awaited by it waits in the assembly buffer. -/
theorem State.putPiece_waits {s : State} {u : Nat} {e : BitVec 128} (p r t : Nat) (x : Shape) (l : Line)
    (hlast : teLast e = false) (hwait : (s.asmTile u (teShape e)).last = none) :
    s.putPiece p r t u x e l =
      s.setAsm u { s.asmTile u (teShape e) with pieces := tput (s.asmTile u (teShape e)).pieces (tePiece e) l } := by
  simp [State.putPiece, hlast, hwait]

theorem State.piece_putPiece {s : State} {u : Nat} {e : BitVec 128} (p r t : Nat) (x : Shape) (l : Line)
    (hlast : teLast e = false) (hwait : (s.asmTile u (teShape e)).last = none) :
    tget Line.zero ((s.putPiece p r t u x e l).asmTile u (teShape e)).pieces (tePiece e) = l := by
  have tile := s.asmTile_setAsm u (shape := teShape e)
    (a := { s.asmTile u (teShape e) with pieces := tput (s.asmTile u (teShape e)).pieces (tePiece e) l })
    (s.shape_asmTile u (teShape e))
  rw [s.putPiece_waits p r t x l hlast hwait]
  exact (congrArg (fun a : AsmTile => tget Line.zero a.pieces (tePiece e)) tile).trans (tget_tput_same _ _ _ _)

/-! ## RD (R293, R295, R300) -/

/-- Whether an RD finds that a window of 256 ms has held too few refreshes. -/
def State.refreshMissed (s : State) (c : Nat) : Bool := (s.chan c).refMiss || (s.chan c).shortOfRefs s.now

section Read
variable {s s1 : State} {c bank col n : Nat} {e : BitVec 128}

theorem State.timelineRead_drain (hmiss : s.refreshMissed c = false) (hdrain : teDrain ((s.chan c).step n) = true) :
    s.timelineRead c bank col n = s := by
  rw [State.refreshMissed] at hmiss
  simp [State.timelineRead, hmiss, hdrain]

theorem State.timelineRead_noRecord (he : e = (s.chan c).step n) (hmiss : s.refreshMissed c = false)
    (hfill : teDrain e = false) (huse : s.useRecord (s.chan c).part (teTwe e) (teShape e) false = (s1, none)) :
    s.timelineRead c bank col n = s1 := by
  subst he
  rw [State.refreshMissed] at hmiss
  simp [State.timelineRead, hmiss, hfill, huse]

variable {p r t u pa k : Nat} {x : Shape} {may : Bool} {v : State}

/-- A line that passes every check is the piece. -/
theorem State.timelineRead_line (he : e = (s.chan c).step n) (hp : p = (s.chan c).part) (hmiss : s.refreshMissed c = false)
    (hfill : teDrain e = false) (huse : s.useRecord p (teTwe e) (teShape e) false = (s1, some (x, r, t, u)))
    (hparts : s1.lockedParts p [u] (x.pieceVa (tePiece e)) = some ([(pa, 64)], may))
    (hcause : s1.readCause c bank col (some ([(pa, 64)], may)) = none) (hvote : s1.voteLine pa = (v, true))
    (htag : v.tagOk (memKey pa / 128) = true) (herr : v.lineErr (memKey pa) = 0) :
    s.timelineRead c bank col n = v.putPiece p r t u x e ⟨BitVec.ofNat 512 (bytesNat (v.bytes (memKey pa) 64)), 0, 0⟩ := by
  subst he hp
  rw [State.refreshMissed] at hmiss
  simp [State.timelineRead, hmiss, hfill, huse, hparts, hcause, State.tweSplit, State.voteAll, hvote, State.partsTag, htag,
    State.partsErr, herr, State.partsBytes]

/-- Where a check fails, the piece is poisoned with its cause. -/
theorem State.timelineRead_cause (he : e = (s.chan c).step n) (hp : p = (s.chan c).part) (hmiss : s.refreshMissed c = false)
    (hfill : teDrain e = false) (huse : s.useRecord p (teTwe e) (teShape e) false = (s1, some (x, r, t, u)))
    (hcause : s1.readCause c bank col (s1.lockedParts p [u] (x.pieceVa (tePiece e))) = some k) :
    s.timelineRead c bank col n =
      (if k = 0x21 then s1.countViol c else s1).putPiece p r t u x e (Line.bad (s.tweOrigin p t slotMem k) Line.zero) := by
  subst he hp
  rw [State.refreshMissed] at hmiss
  by_cases hk : k = 0x21
  · subst hk
    simp [State.timelineRead, hmiss, hfill, huse, hcause]
  · simp [State.timelineRead, hmiss, hfill, huse, hcause, hk]

/-- The first RD after a window that held too few refreshes reports it. -/
theorem State.timelineRead_missed (he : e = (s.chan c).step n) (hp : p = (s.chan c).part) (hmiss : s.refreshMissed c = true)
    (hfill : teDrain e = false)
    (huse : (s.clearMiss c).useRecord p (teTwe e) (teShape e) false = (s1, some (x, r, t, u))) :
    s.timelineRead c bank col n =
      (s1.countViol c).putPiece p r t u x e (Line.bad ((s.clearMiss c).tweOrigin p t slotMem 0x21) Line.zero) := by
  subst he hp
  rw [State.refreshMissed] at hmiss
  simp [State.timelineRead, hmiss, hfill, huse]

end Read

/-! ## TWSTEP (R300) -/

/-- The slots that a delivery from the operand cache reads, and the lines of the tile in them. -/
def State.cachedSlots (s : State) (u : Nat) (x : Shape) (e : BitVec 128) : List CacheSlot :=
  (List.range ((x.pieces + 7) / 8)).map fun k => tget CacheSlot.zero (s.twe u).cache ((teSlot e + k) % 512)
def cachedLines (slots : List CacheSlot) (x : Shape) : List Line :=
  (slots.flatMap fun y => (List.range 8).map fun i => (y.lines[i]?).getD Line.zero).take x.pieces

section Cache
variable {s s1 : State} {c n p r t u : Nat} {e : BitVec 128} {x : Shape}

theorem State.timelineCache_noRecord (he : e = (s.chan c).step n)
    (huse : s.useRecord (s.chan c).part (teTwe e) (teShape e) false = (s1, none)) : s.timelineCache c n = s1 := by
  subst he
  simp [State.timelineCache, huse]

theorem State.timelineCache_record (he : e = (s.chan c).step n) (hp : p = (s.chan c).part)
    (huse : s.useRecord p (teTwe e) (teShape e) false = (s1, some (x, r, t, u))) :
    s.timelineCache c n =
      if (s1.cachedSlots u x e).all fun y => decide (y.tag = s1.cacheTag p x) && decide (y.lines ≠ []) then
        s1.deliverTile r (teTwe e) u x (cachedLines (s1.cachedSlots u x e) x)
      else (s1.bumpW (Config.twb (u / 4) (u % 4) + 8) 32 32 1).deliverTile r (teTwe e) u x
        ((cachedLines (s1.cachedSlots u x e) x).map (Line.bad (s.tweOrigin p t slotTwe 0x05))) := by
  subst he hp
  simp only [State.timelineCache, huse]
  rfl

end Cache

/-! ## WR (R287, R300) -/

section Write
variable {s s1 : State} {c p r t u : Nat} {e : BitVec 128} {x : Shape}

theorem State.timelineWrite_fill (hfill : teDrain e = false) : s.timelineWrite c e = s := by
  simp [State.timelineWrite, hfill]

theorem State.timelineWrite_noRecord (hdrain : teDrain e = true)
    (huse : s.useRecord (s.chan c).part (teTwe e) (teShape e) true = (s1, none)) : s.timelineWrite c e = s1 := by
  simp [State.timelineWrite, hdrain, huse]

theorem State.timelineWrite_killed (hp : p = (s.chan c).part) (hdrain : teDrain e = true)
    (huse : s.useRecord p (teTwe e) (teShape e) true = (s1, some (x, r, t, u))) (hkill : (s1.region r).killed = true) :
    s.timelineWrite c e = s1 := by
  subst hp
  simp [State.timelineWrite, hdrain, huse, hkill]

theorem State.timelineWrite_frozen (hp : p = (s.chan c).part) (hdrain : teDrain e = true)
    (huse : s.useRecord p (teTwe e) (teShape e) true = (s1, some (x, r, t, u))) (hkill : (s1.region r).killed = false)
    (hfrozen : (s1.region r).frozen = true) :
    s.timelineWrite c e =
      s1.setRegion r { s1.region r with heldWr := (s1.region r).heldWr ++ [(c, e)] } := by
  subst hp
  simp [State.timelineWrite, hdrain, huse, hkill, hfrozen]

/-- The drains of a region after one more step of a drain tile. -/
def Region.drainsAfter (R : Region) (d : Drain) (x : Shape) (e : BitVec 128) : List Drain :=
  let rest := R.drains.filter fun y => !(decide (y.shape = d.shape) && decide (y.twe = d.twe))
  if teLast e || decide (x.pieces ≤ d.done + 1) then rest else rest ++ [{ d with done := d.done + 1 }]

/-- A drain tile under way hands its piece on; its region notes how far it has come. -/
theorem State.timelineWrite_underWay {d : Drain} {ls : List Line} {l : Line} (hp : p = (s.chan c).part)
    (hdrain : teDrain e = true) (huse : s.useRecord p (teTwe e) (teShape e) true = (s1, some (x, r, t, u)))
    (hkill : (s1.region r).killed = false) (hfrozen : (s1.region r).frozen = false)
    (hfind : (s1.region r).drains.find? (fun d => decide (d.shape = teShape e) && decide (d.twe = u)) = some d)
    (hlines : d.lines = some ls) (hl : ls[tePiece e]? = some l) :
    s.timelineWrite c e =
      (s1.setRegion r { s1.region r with drains := (s1.region r).drainsAfter d x e }).drainPiece c p r t u x e l := by
  subst hp
  simp only [State.timelineWrite, hdrain, huse, hkill, hfrozen, hfind, hlines, hl, Bool.not_true, Bool.false_eq_true, if_false,
    Option.getD_some, Region.drainsAfter]

/-- A sound piece whose one part may be written, in a stack that is not degraded, goes to its shadow place. -/
theorem State.drainPiece_sound {l : Line} {k a : Nat} (hsound : l.pois = 0) (hj : s.jedecBad c = false)
    (hparts : s.drainParts p u (x.pieceVa (tePiece e)) = some ([(k, a, 64)], true)) (hvote : (s.voteLine a).2 = true) :
    s.drainPiece c p r t u x e l = (s.voteLine a).1.putParts u r [(k, a, 64)] (natBytes l.bits.toNat 64) := by
  simp [State.drainPiece, hsound, hj, hparts, State.voteAll, hvote, State.tweSplit]

/-- One part of 64 bytes: its bytes, the rest of memory, and the entry that counts as written. -/
theorem State.putParts_one (s : State) (u r k a n : Nat) :
    (s.putParts u r [(k, a, 64)] (natBytes n 64)).bytes a 64 = natBytes n 64 ∧
    sameOutside s (s.putParts u r [(k, a, 64)] (natBytes n 64)) a 64 ∧
    k ∈ ((s.putParts u r [(k, a, 64)] (natBytes n 64)).region r).wrote := by
  have whole : (natBytes n 64).take 64 = natBytes n 64 := List.take_of_length_le (Nat.le_of_eq (length_natBytes 64 n))
  have mem : (s.putParts u r [(k, a, 64)] (natBytes n 64)).mem = Memory.putAll s.mem a (natBytes n 64) := by
    rw [State.putParts, State.putParts, whole]
    rfl
  refine ⟨?_, fun b hb => ?_, ?_⟩
  · rw [State.bytes, mem]
    have read := Memory.getAll_putAll (m := s.mem) a (natBytes n 64)
    rwa [length_natBytes] at read
  · rw [State.byte, mem]
    exact Memory.get_putAll_out _ (by rwa [length_natBytes])
  · rw [State.putParts, State.putParts, State.region_setRegion_same, addNew]
    split
    · rename_i h
      simpa using h
    · simp

end Write

/-! ## REPAIR (R295, R296) -/

/-- A repair slot is used: the oldest held read leaves its channel, and the partition pauses. -/
def State.takeSlot (s : State) (p k : Nat) : State :=
  ((s.setChan k { s.chan k with held := (s.chan k).held.drop 1 }).setPart p
    { s.part p with repairs := (s.part p).fcyc + 1, pause := (s.part p).pause + 96 }).bumpDc p 0 1

/-- The lines of the held read are corrected, or count as lost: what a repair leaves before it delivers the piece. -/
def State.takeHeld (s : State) (p k : Nat) (h : HeldRead) : State :=
  if h.err ≤ 1 then
    let corrected := h.parts.foldl (fun (m : Tab Nat) (q : Nat × Nat) => tset 0 m (memKey q.1 / 64) 0) (s.takeSlot p k).hbmErr
    { s.takeSlot p k with hbmErr := corrected }.bumpW (hcbAt k 0) 16 16 1
  else (s.takeSlot p k).bumpW (hcbAt k 0) 32 8 1

/-- The piece that a repair delivers. -/
def HeldRead.piece (h : HeldRead) (org : Word) : Line :=
  if h.err ≤ 1 then ⟨BitVec.ofNat 512 (bytesNat h.data), 0, 0⟩ else Line.bad org Line.zero

section Repair
variable {s s1 : State} {c p k r t u : Nat} {h : HeldRead} {x : Shape}

theorem State.timelineRepair_idle (hp : p = (s.chan c).part)
    (hidle : (s.part p).repairs = (s.part p).fcyc + 1 ∨ s.oldestHeld p = none) : s.timelineRepair c = s := by
  subst hp
  rcases hidle with hidle | hidle <;> simp [State.timelineRepair, hidle]

theorem State.timelineRepair_noRecord (hp : p = (s.chan c).part) (hslot : (s.part p).repairs ≠ (s.part p).fcyc + 1)
    (hheld : s.oldestHeld p = some (k, h))
    (huse : (s.takeHeld p k h).useRecord p (teTwe h.step) (teShape h.step) false = (s1, none)) :
    s.timelineRepair c = s1 := by
  subst hp
  by_cases herr : h.err ≤ 1
  all_goals
    simp only [State.takeHeld, State.takeSlot, herr, if_true, if_false] at huse
    simp only [State.timelineRepair, hslot, hheld, herr, if_true, if_false, decide_true, decide_false, Bool.false_eq_true, huse]

theorem State.timelineRepair_record (hp : p = (s.chan c).part) (hslot : (s.part p).repairs ≠ (s.part p).fcyc + 1)
    (hheld : s.oldestHeld p = some (k, h))
    (huse : (s.takeHeld p k h).useRecord p (teTwe h.step) (teShape h.step) false = (s1, some (x, r, t, u))) :
    s.timelineRepair c = s1.putPiece p r t u x h.step (h.piece ((s.takeHeld p k h).tweOrigin p t slotMem 0x20)) := by
  subst hp
  by_cases herr : h.err ≤ 1
  all_goals
    simp only [State.takeHeld, State.takeSlot, HeldRead.piece, herr, if_true, if_false] at huse ⊢
    simp only [State.timelineRepair, hslot, hheld, herr, if_true, if_false, decide_true, decide_false, Bool.false_eq_true, huse]

/-- A repair takes the held read, and then serves its step. -/
theorem State.timelineRepair_serves (hp : p = (s.chan c).part) (hslot : (s.part p).repairs ≠ (s.part p).fcyc + 1)
    (hheld : s.oldestHeld p = some (k, h)) : ServesStep (s.takeHeld p k h) (s.timelineRepair c) := by
  have used := ServesStep.useRecord (s.takeHeld p k h) p (teTwe h.step) (teShape h.step) false
  rcases huse : (s.takeHeld p k h).useRecord p (teTwe h.step) (teShape h.step) false with ⟨s1, _ | ⟨x, r, t, u⟩⟩
  · rw [State.timelineRepair_noRecord hp hslot hheld huse]
    rwa [huse] at used
  · rw [State.timelineRepair_record hp hslot hheld huse]
    rw [huse] at used
    exact used.trans (ServesStep.putPiece _ _ _ _ _ _ _ _)

theorem State.takeSlot_serves (s : State) (p k : Nat) :
    ServesStep ((s.setChan k { s.chan k with held := (s.chan k).held.drop 1 }).setPart p
      { s.part p with repairs := (s.part p).fcyc + 1, pause := (s.part p).pause + 96 }) (s.takeSlot p k) :=
  ServesStep.bumpDc _ p 0 1

theorem State.takeHeld_fields (s : State) (p k : Nat) (h : HeldRead) :
    (s.takeHeld p k h).mem = (s.takeSlot p k).mem ∧ (s.takeHeld p k h).parts = (s.takeSlot p k).parts ∧
      (s.takeHeld p k h).chans = (s.takeSlot p k).chans := by
  unfold State.takeHeld
  split <;> exact ⟨rfl, rfl, rfl⟩

theorem State.hbmErr_takeHeld (herr : h.err ≤ 1) {q : Nat × Nat} (hq : q ∈ h.parts) :
    tget 0 (s.takeHeld p k h).hbmErr (memKey q.1 / 64) = 0 := by
  rw [State.takeHeld, if_pos herr]
  exact tget_mended h.parts _ _ (.inr ⟨q, hq, rfl⟩)

/-- What taking a held read changes of its partition and of its channel; memory stays. -/
theorem State.takeHeld_effect (s : State) (p k : Nat) (h : HeldRead) :
    (s.takeHeld p k h).mem = s.mem ∧ ((s.takeHeld p k h).chan k).held = (s.chan k).held.drop 1 ∧
    (s.takeHeld p k h).part p =
      { s.part p with repairs := (s.part p).fcyc + 1, pause := (s.part p).pause + 96 } := by
  obtain ⟨hmem, hparts, hchans⟩ := s.takeHeld_fields p k h
  have base := s.takeSlot_serves p k
  refine ⟨hmem.trans base.mem, ?_, ?_⟩
  · rw [State.chan, hchans, base.chans]
    exact congrArg Chan.held (s.chan_setChan_same k _)
  · rw [State.part, hparts, base.parts]
    exact State.part_setPart_same _ p _

end Repair

/-! ## What a piece leaves behind -/

theorem State.refreshMissed_false {s : State} {c : Nat} (hmiss : (s.chan c).refMiss = false)
    (hshort : (s.chan c).shortOfRefs s.now = false) : s.refreshMissed c = false := by
  rw [State.refreshMissed, hmiss, hshort]
  rfl

theorem State.refreshMissed_true {s : State} {c : Nat}
    (h : (s.chan c).refMiss = true ∨ (s.chan c).shortOfRefs s.now = true) : s.refreshMissed c = true := by
  rw [State.refreshMissed, Bool.or_eq_true]
  exact h

section Piece
variable {s s1 : State} {u : Nat} {e : BitVec 128} (c p r t : Nat) (x : Shape) (l : Line)

/-- A piece put after a count of the channel's violations waits in the buffer like any other. -/
theorem State.piece_putPiece_counted (k : Nat) (hlast : teLast e = false) (hwait : (s.asmTile u (teShape e)).last = none) :
    tget Line.zero (((if k = 0x21 then s.countViol c else s).putPiece p r t u x e l).asmTile u (teShape e)).pieces
      (tePiece e) = l := by
  refine State.piece_putPiece p r t x l hlast ?_
  split <;> exact hwait

theorem State.mem_putPiece_counted (k : Nat) :
    ((if k = 0x21 then s.countViol c else s).putPiece p r t u x e l).mem = s.mem := by
  refine (ServesStep.putPiece _ p r t u x e l).mem.trans ?_
  split <;> rfl

/-- Once it has been reported, a missed refresh count is remembered no longer. -/
theorem State.refMiss_reported {o : Option (Shape × Nat × Nat × Nat)} {n va : Nat} {drain : Bool}
    (huse : (s.clearMiss c).useRecord p n va drain = (s1, o)) :
    (((s1.countViol c).putPiece p r t u x e l).chan c).refMiss = false := by
  have used := (ServesStep.useRecord (s.clearMiss c) p n va drain).chans
  rw [huse] at used
  have chans : ((s1.countViol c).putPiece p r t u x e l).chans = (s.clearMiss c).chans :=
    (ServesStep.putPiece (s1.countViol c) p r t u x e l).chans.trans used
  rw [State.chan, chans]
  exact congrArg Chan.refMiss (s.chan_setChan_same c _)

end Piece

/-! ## The sinks of a drain step -/

/-- The vote of a part's stack changes nothing in memory, so that the piece is all that is written. -/
theorem State.drainPiece_effect {s : State} {c p r t u k a : Nat} {x : Shape} {e : BitVec 128} {l : Line} (R : Region)
    (hsound : l.pois = 0) (hj : s.jedecBad c = false)
    (hparts : s.drainParts p u (x.pieceVa (tePiece e)) = some ([(k, a, 64)], true)) (hvote : (s.voteLine a).2 = true) :
    let w := (s.setRegion r R).drainPiece c p r t u x e l
    w.bytes a 64 = natBytes l.bits.toNat 64 ∧ sameOutside s w a 64 ∧ k ∈ (w.region r).wrote := by
  have hvote' : ((s.setRegion r R).voteLine a).2 = true := by rw [State.voteLine_setRegion, hvote]
  obtain ⟨hbytes, hout, hwrote⟩ := ((s.setRegion r R).voteLine a).1.putParts_one u r k a l.bits.toNat
  intro w
  have hw : w = ((s.setRegion r R).voteLine a).1.putParts u r [(k, a, 64)] (natBytes l.bits.toNat 64) :=
    State.drainPiece_sound hsound hj hparts hvote'
  rw [hw]
  refine ⟨hbytes, fun b hb => (hout b hb).trans ?_, hwrote⟩
  rw [State.byte, State.mem_voteLine]
  rfl

/-! ## The statement -/

/-- Settles O47: each command by the lemma of its case; the frame of a fill and of a repair by ServesStep. -/
theorem timelineCommandsActOnTheirChannel : Obligations.TimelineCommandsActOnTheirChannel := by
  unfold Obligations.TimelineCommandsActOnTheirChannel
  intro s c C p hC hp
  subst hC hp
  refine ⟨fun bank row => ⟨fun hbad => ?rowsBreakRule, fun hok => ?rows⟩, fun len => rfl, rfl, fun bank col => ⟨rfl, rfl⟩,
    fun hidle => ?refIdle, fun hretreat hok => ?refCounts,
    fun bank col n e he => ⟨
      fun hmiss hshort => ?fill,
      fun hmiss hfill S hS s1 x r t u huse hlast hwait => ?fillMissed,
      fun hfill => ?writeOfFill,
      fun s1 huse hdrain => ?writeNoRecord,
      fun s1 huse => ?deliveryNoRecord,
      fun s1 x r t u R hdrain huse hR => ?write,
      fun s1 x r t u slots ls huse hslots hls => ?delivery⟩,
    fun P hP => ⟨fun hidle => ?repairIdle, fun k h hslot hheld => ?repair⟩⟩
  case rowsBreakRule =>
    rw [exec_act, exec_pre, exec_prea, State.timelineAct_of_bad _ _ hbad, State.timelinePre_of_bad _ hbad,
      State.timelinePrea_of_bad hbad]
    exact ⟨rfl, rfl, rfl⟩
  case rows =>
    rw [exec_act, exec_pre, exec_prea, State.timelineAct_of_ok _ _ hok, State.timelinePre_of_ok _ hok,
      State.timelinePrea_of_ok hok]
    exact ⟨⟨_, rfl, s.setOpen_only c _ _ _ rfl⟩, ⟨_, rfl, s.setOpen_only c _ _ _ rfl⟩, rfl⟩
  case refIdle => rw [exec_ref, State.timelineRef_idle hidle]
  case refCounts =>
    rw [exec_ref, State.timelineRef_counts hretreat hok]
    refine ⟨_, rfl, rfl, fun k hk => s.chan_setChan_ne _ hk, ?_⟩
    rw [State.chan_setChan_same]
    exact ⟨rfl, rfl, rfl⟩
  case fill =>
    have hmiss := State.refreshMissed_false hmiss hshort
    refine ⟨fun hdrain => ?_, fun s1 hfill huse => ?_, fun s1 x r t u pa may z v hfill huse hparts hz hlast hwait =>
      ⟨fun hnone hvote htag herr => ?_, fun k hk => ?_⟩⟩
    · rw [exec_rd, State.timelineRead_drain hmiss (he ▸ hdrain)]
    · rw [exec_rd, State.timelineRead_noRecord he hmiss hfill huse]
    · have hsame : v.asmTile u (teShape e) = s1.asmTile u (teShape e) := by
        rw [← s1.asmTile_voteLine pa u, hvote]
      rw [exec_rd, State.timelineRead_line he rfl hmiss hfill huse hparts (hz.trans hnone) hvote htag herr]
      exact ⟨_, rfl, State.piece_putPiece _ _ _ _ _ hlast (by rw [hsame, hwait]), (ServesStep.putPiece _ _ _ _ _ _ _ _).mem⟩
    · rw [exec_rd, State.timelineRead_cause he rfl hmiss hfill huse (by rw [hparts, hz, hk])]
      exact ⟨_, rfl, State.mem_putPiece_counted _ _ _ _ _ _ _, State.piece_putPiece_counted _ _ _ _ _ _ _ hlast hwait⟩
  case fillMissed =>
    subst hS
    rw [exec_rd, State.timelineRead_missed he rfl (State.refreshMissed_true hmiss) hfill huse]
    exact ⟨_, rfl, State.refMiss_reported _ _ _ _ _ _ huse, State.piece_putPiece _ _ _ _ _ hlast hwait⟩
  case writeOfFill => rw [exec_wr, ← he, State.timelineWrite_fill hfill]
  case writeNoRecord => rw [exec_wr, ← he, State.timelineWrite_noRecord hdrain huse]
  case deliveryNoRecord => rw [exec_twstep, State.timelineCache_noRecord he huse]
  case write =>
    subst hR
    refine ⟨fun hkill => ?_, fun hkill hfrozen => ?_,
      fun d ls l k a hkill hfrozen hfind hlines hl hsound hj hparts hvote => ?_⟩
    · rw [exec_wr, ← he, State.timelineWrite_killed rfl hdrain huse hkill]
    · rw [exec_wr, ← he, State.timelineWrite_frozen rfl hdrain huse hkill hfrozen]
    · rw [exec_wr, ← he, State.timelineWrite_underWay rfl hdrain huse hkill hfrozen hfind hlines hl]
      exact ⟨_, rfl, State.drainPiece_effect _ hsound hj hparts (by rw [hvote])⟩
  case delivery =>
    subst hslots hls
    rw [exec_twstep, State.timelineCache_record he rfl huse]
    refine ⟨fun hall => ?_, fun ⟨y, hy, hbad⟩ => ?_⟩
    · rw [if_pos (List.all_eq_true.mpr fun y hy => by simpa using hall y hy)]
      rfl
    · rw [if_neg fun hall => ?_]
      · rfl
      · have hgood := List.all_eq_true.mp hall y hy
        simp only [Bool.and_eq_true, decide_eq_true_eq] at hgood
        exact hbad.elim (fun h => h hgood.1) hgood.2
  case repairIdle =>
    subst hP
    rw [exec_repair, State.timelineRepair_idle rfl hidle]
  case repair =>
    subst hP
    have served := State.timelineRepair_serves rfl hslot hheld
    obtain ⟨hmem, hchan, hpart⟩ := s.takeHeld_effect (s.chan c).part k h
    refine ⟨_, exec_repair c s, ?_, ?_, ?_, served.mem.trans hmem,
      fun herr q hq => served.errs _ (State.hbmErr_takeHeld herr hq)⟩
    · rw [State.part, served.parts]
      exact congrArg Part.repairs hpart
    · rw [State.part, served.parts]
      exact congrArg Part.pause hpart
    · rw [State.chan, served.chans]
      exact hchan

end Sys2Proof.Machine

/-! PROOFS. A cycle of a training test (R395), and the state for which O49 fails. -/

namespace Sys2Proof.Machine

/-! ## The mismatches of a running test -/

theorem exec_trainingTestDone (c : Nat) (s : State) : exec (.trainingTestDone c) s = .next (s.testDone c) := rfl

/-- While a test runs, a cycle of it draws the lanes that mismatch, if none are drawn yet, and shows some of them. -/
theorem State.testDone_running {s : State} {c : Nat} (hbusy : s.wf (hcbAt c 0xD8) 0 1 = 1) (htest : (s.chan c).test ≠ 0)
    (hnow : s.now < (s.chan c).testEnd) :
    s.testDone c = { (s.testMis c).1 with free := (s.testMis c).1.free + 1 }.addMis c
      ((s.testMis c).2 &&& BitVec.ofNat 72 (Config.freeNat (s.testMis c).1.free)) := by
  simp [State.testDone, hbusy, htest, hnow]

theorem State.chan_addMis (s : State) (c k : Nat) (mis : BitVec 72) : (s.addMis c mis).chan k = s.chan k := rfl

/-- Mismatches that are drawn stand behind what is in the latch, whatever number of values that is. -/
theorem State.latch_testMis_drawn {s : State} {c : Nat} (hnone : (s.chan c).latch[5]? = none) :
    ((s.testMis c).1.chan c).latch = (s.chan c).latch ++ [(s.testMis c).2.toNat] := by
  rw [State.testMis]
  simp only [hnone]
  exact congrArg Chan.latch (State.chan_setChan_same _ c _)

/-! ## The counterexample: a test under way with no GO in its latch

A GO leaves five values in the latch (direction, bank, row, bursts, seed), so that drawn mismatches stand at place 5. The
statement asks for no GO: its state may have a test under way and an empty latch. -/

/-- A read test of channel 0 is under way until cycle 1; its latch is empty. -/
def unlatchedTest : State :=
  { State.reset with
    chans := [(0, { Chan.zero with test := 1, testEnd := 1 })]
    win := [(hcbAt 0 0xD8, 1)] }

theorem unlatchedTest_runs :
    unlatchedTest.wf (hcbAt 0 0xD8) 0 1 = 1 ∧ (unlatchedTest.chan 0).test ≠ 0 ∧ (unlatchedTest.chan 0).deferred = [] ∧
    (unlatchedTest.chan 0).latch = [] ∧ unlatchedTest.now < (unlatchedTest.chan 0).testEnd := by decide +kernel

/-- The cycle puts the mismatches at place 0, and place 5 stays empty. -/
theorem unlatchedTest_latch : ((unlatchedTest.testDone 0).chan 0).latch[5]? = none := by
  obtain ⟨hbusy, htest, -, hlatch, hnow⟩ := unlatchedTest_runs
  have drawn : (((unlatchedTest.testMis 0).1).chan 0).latch = [(unlatchedTest.testMis 0).2.toNat] := by
    rw [State.latch_testMis_drawn (by rw [hlatch]; rfl), hlatch]
    rfl
  rw [State.testDone_running hbusy htest hnow, State.chan_addMis]
  exact (congrArg (·[5]?) drawn).trans rfl

/-- Refutes O49: the statement has the mismatches of a running test at place 5 of the channel's latch, and does not ask that
the five values of a GO stand before them. In a state whose test is under way with an empty latch, they stand at place 0. -/
theorem not_storesToRegistersHaveTheirOwnEffect : ¬ Obligations.StoresToRegistersHaveTheirOwnEffect := by
  intro h
  obtain ⟨hbusy, htest, hdeferred, -, hnow⟩ := unlatchedTest_runs
  obtain ⟨-, -, -, -, -, htraining, -⟩ := h unlatchedTest
  obtain ⟨-, hcycle, -⟩ := htraining 0 (by decide)
  obtain ⟨-, -, u, m, hexec, -, -, hrunning, -⟩ := hcycle _ _ _ rfl rfl hbusy htest hdeferred rfl
  obtain ⟨-, -, hlatch, -⟩ := hrunning hnow
  have hu : u = unlatchedTest.testDone 0 := by
    rw [exec_trainingTestDone] at hexec
    exact (Host.Outcome.next.inj hexec).symm
  rw [hu, unlatchedTest_latch] at hlatch
  exact absurd hlatch (by simp)

end Sys2Proof.Machine

/-! PROOFS. No step lowers the version fuses or the index of the one-time signatures (R376, R377; O60). -/

namespace Sys2Proof.Machine

/-- Settles O60: every operation of a step leaves the version fuses and the one-time index alone or raises them
(`State.blowFuses_kept`, `State.quote_kept`), and a power-on reset carries both over (`State.powerOn_kept`). -/
theorem noStepTakesAFuseOrAKeyIndexBack : Obligations.NoStepTakesAFuseOrAKeyIndexBack := by
  intro s t hs hstep
  obtain ⟨-, hfuse, hindex⟩ := step_kept s (kept_self hs) t hstep
  exact ⟨hfuse, hindex⟩

end Sys2Proof.Machine
